-- ==== Sys2Proof/Word.lean ====
section
/-! DEFINITION. The words of the machine (R8, R18): 64-bit registers, bytes. -/

namespace Sys2Proof

/-- A 64-bit register or doubleword (R18). -/
abbrev Word := BitVec 64

/-- One byte (R8). -/
abbrev Byte := BitVec 8

end Sys2Proof
end

