-- ==== Sys2Proof/Syntax.lean ====
section
/-! DEFINITION. The steps of the machine as syntax: one constructor of `Instr` for each row of the opcode
table. The first 174 are the words a strand issues (R85-R107); the last 84 are the happenings of the hardware,
the drovers and the host, whose operands say which unit they concern. -/

namespace Sys2Proof

/-! ### Operands of words -/

/-- `w0`-`w31` (R18). -/
abbrev WReg := Fin 32

/-- `p0`-`p7` (R20). -/
abbrev PReg := Fin 8

/-- A pointer operand: the register and whether the `pN+` form is used (R90, R146). -/
structure PtrArg where
  reg : PReg
  inc : Bool
  deriving DecidableEq, Repr

/-- The 4-bit format codes, in code order (R59). -/
inductive Fmt where
  | int8 | int16 | int32 | int64 | uint8 | uint16 | uint32 | uint64
  | int4 | uint4 | e4m3 | e5m2 | bf16 | fp16 | fp32 | fp64
  deriving DecidableEq, Repr

/-- The rounding modes, in code order (R66). Code 4 is accepted only by an SDU channel. -/
inductive Rm where
  | rne | rtz | rup | rdn | rna
  deriving DecidableEq, Repr

/-- The comparison predicates, in code order (R101). -/
inductive Pred where
  | eq | ne | lt | le | un
  deriving DecidableEq, Repr

/-- The sign operations of `FSGN`, in code order (R101). -/
inductive SgnOp where
  | cpy | neg | xor
  deriving DecidableEq, Repr

/-- The reductions of `VRED` and `VSCAN`, in code order (R102). -/
inductive RedOp where
  | add | min | max | and | or | xor
  deriving DecidableEq, Repr

/-- The atomic operations of `AMO`, `XAMO` and `AMOV`: codes 0-7, then the eight function slots (R106). -/
inductive Aop where
  | swap | add | and | or | xor | min | max | cas
  | fn (slot : Fin 8)
  deriving DecidableEq, Repr

/-- The scopes of `FENCE`, in code order (R105, R139). -/
inductive Scope where
  | strand | cell | comb | hive | job
  deriving DecidableEq, Repr

/-- The sizes of a swarm, in code order (R105, R171). -/
inductive SwarmSize where
  | n2 | n4 | n8
  deriving DecidableEq, Repr

/-- The conflict rules, in code order (R53, R107, R265). -/
inductive Rule where
  | add | min | max | or | first | last | unique
  deriving DecidableEq, Repr

/-! ### Operands of happenings -/

/-- A global logical cell number: hive × 2^12 + LCID (R5, R6). -/
abbrev CellId := Nat

/-- A strand number (R14). -/
abbrev StrandId := Fin 4

/-- The engines of a cell (R177). -/
inductive Eng where
  | vu | sce | forager | sdu
  deriving DecidableEq, Repr

/-- The message networks, in VNET order (R23, R344). -/
inductive Net where
  | ev | rq | rp | sv
  deriving DecidableEq, Repr

/-- The channel classes of an edge, in code order (R19, R221). -/
inductive EvClass where
  | add | seq | sorted
  deriving DecidableEq, Repr

/-- The kinds of input, in INKIND order (R19). -/
inductive InKind where
  | event | message | task
  deriving DecidableEq, Repr

/-- An input on its way to a slot: an event, a message or a fork request (R19, R225, R306, R318). -/
structure Input where
  dst : CellId
  slot : Nat
  kind : InKind
  net : Net
  /-- the four words of R19 -/
  w1 : Word
  w2 : Word
  w3 : Word
  w4 : Word
  /-- source cell, source actor slot, and the sequence number of a `SEQ` or `SORTED` event -/
  src : CellId
  srcSlot : Nat
  seq : Nat
  cls : EvClass
  /-- the production edge of an event -/
  edge : Nat
  /-- a unit of the source cell's allowance on `net` is to return at absorption (R349) -/
  charged : Bool
  /-- a fork request's path, depth and join link (R318, R319) -/
  pathLo : Word
  pathHi : Word
  depth : Nat
  link : Word
  /-- the sender's firing, for a fork request: its strand when it sent -/
  hostTag : Option Word
  deriving DecidableEq, Repr

/-- An arrival on its way to a barrier unit (R238). -/
structure Arrival where
  unitCell : CellId
  bar : Fin 8
  src : CellId
  strand : StrandId
  add : Option Word
  /-- the cycle in which it set out: what tells it from another of its strand -/
  at_ : Nat
  deriving DecidableEq, Repr

/-- A task's return on its way to the parent's join buffer (R227, R319). -/
structure TaskReturn where
  /-- the task's cell -/
  child : CellId
  parent : CellId
  buffer : Nat
  gen : Nat
  spawn : Nat
  r1 : Word
  r2 : Word
  r3 : Word
  r4 : Word
  status : Word
  deriving DecidableEq, Repr

/-- The kinds of a stepped operation (R242, R296). -/
inductive StepKind where
  | xst (width : Fin 4)
  | xamo (op : Aop) (ordered : Bool)
  | xflag
  | xam
  deriving DecidableEq, Repr

/-- A stepped operation: a pen entry of R296 with the place of an `XAMO` result record. -/
structure SteppedOp where
  job : Nat
  /-- sort key: source cell (hive and LCID), slot, sequence (R242) -/
  src : CellId
  slot : Nat
  seq : Nat
  kind : StepKind
  /-- target virtual address; 0 for `XAM` -/
  target : Nat
  /-- hive whose pen takes the entry -/
  home : Nat
  data : Word
  /-- `.cas` compare value; `m1` of an `XAM` -/
  cmp : Word
  m2 : Word
  m3 : Word
  m4 : Word
  /-- TCM address of the `XAMO` result record -/
  record : Nat
  /-- strand that issued it, and its firing -/
  strand : StrandId
  fid : Nat
  /-- it goes to the reduction buffer of the issuing hive (R359) -/
  reduction : Bool
  deriving DecidableEq, Repr

/-- Page states, in code order (R53). -/
inductive PageState where
  | live | frozen | landing | shadowed
  deriving DecidableEq, Repr

/-- A request for the next step (R52): state, rule and holder, and the cell that made it. -/
structure PageRequest where
  state : PageState
  rule : Rule
  holder : Nat
  by_ : Nat
  deriving DecidableEq, Repr

/-- A page of a job: a virtual page or a declared scratchpad page (R51-R53, R282). -/
structure Page where
  /-- first virtual or window address -/
  base : Nat
  /-- 64 KiB, or 2 MiB -/
  big : Bool
  /-- an entry with VALID = 1 stands behind it (R282) -/
  mapped : Bool
  /-- home hives with the page entry d0 of each (R282); one for every page but the fold status page (R267) -/
  homes : List (Nat × Word)
  state : PageState
  rule : Rule
  holder : Nat
  last : Nat
  request : Option PageRequest
  /-- the shadow has been written since the last `PUBLISH` (R240) -/
  dirty : Bool
  deriving DecidableEq, Repr

/-- The routing of one production edge (R301, R302). -/
structure EdgeRoute where
  edge : Nat
  cls : EvClass
  bshift : Nat
  /-- consumer instances in actor-number order: cell and slot -/
  cons : List (CellId × Nat)
  /-- the producer slot recorded for a `SEQ` edge (R250) -/
  producer : CellId × Nat
  deriving DecidableEq, Repr

/-- What the planner places in one slot of a cell (R50, R304). -/
structure SlotPlan where
  slot : Nat
  /-- drover address of the actor's run control block, and the actor number; a task actor has none (R300) -/
  actor : Nat
  number : Option Nat
  /-- descriptor doublewords d0-d5 -/
  d0 : Word
  d1 : Word
  d2 : Word
  d4 : Word
  d5 : Word
  edges : List EdgeRoute
  /-- for each task slot this actor may fork: the cells of the placement set in ascending LCID (R318) -/
  forkTo : List (Nat × List CellId)
  /-- the sources recorded for messages, one for each `SEQ` edge into the slot (R250) -/
  seqFrom : List (CellId × Nat)
  /-- STATESZ of the image (R108), for the cell digest -/
  stateSize : Nat
  deriving DecidableEq, Repr

/-- What the planner places in one cell (R299-R305, R36, R37, R192, R313). -/
structure CellPlan where
  cell : CellId
  slots : List SlotPlan
  /-- code, state images and rings as (TCM offset, byte) -/
  image : List (Nat × Byte)
  allowEv : Nat
  allowRq : Nat
  allowSv : Nat
  pmask : Word
  /-- frame banks granted -/
  grants : List Nat
  schedcfg : Word
  deriving DecidableEq, Repr

/-- The TCM addresses that the planner chooses for a slot: code, state and input ring (R50, R108). -/
structure SlotSpot where
  cell : CellId
  slot : Nat
  code : Nat
  state : Nat
  qbase : Nat
  qlog : Nat
  deriving DecidableEq, Repr

/-- What the planner chooses for a cell (R36, R37, R192, R313, R350). -/
structure CellChoice where
  cell : CellId
  allowEv : Nat
  allowRq : Nat
  allowSv : Nat
  pmask : Word
  /-- frame banks granted -/
  grants : List Nat
  schedcfg : Word
  deriving DecidableEq, Repr

/-- What the rules leave to the planner in a launch of one job, or of one replica of it (R303-R305, R379): the rest follows
from the run tree and the images in drover memory. -/
structure LaunchPlan where
  /-- address-space id (R280) -/
  asid : Nat
  /-- the hives of the partition on which the job is placed -/
  hives : List Nat
  /-- drover addresses of the run control blocks of the job's actors -/
  actors : List Nat
  /-- the names of the images, by drover address (R301) -/
  names : List (Nat × List Byte)
  spots : List SlotSpot
  /-- in the order of placement -/
  cells : List CellChoice
  /-- the page set -/
  pages : List Page
  deriving DecidableEq, Repr

/-- Units that can fail, be fenced or be replaced (R369, R373, R375). Ports 0-6 of a hive are its row links and 8-14 its
column links, in ascending order of the other hive; 7 and 15 are the spares (R353; log entry 43). -/
inductive Faulty where
  | cell (g : CellId)
  | comb (hive index : Nat)
  | die (hive die : Nat)
  | slice (hive die slice : Nat)
  | superBank (hive index bank : Nat)
  | link (hive port : Nat)
  /-- a TCM bank, the Z array of a cell, a scratchpad bank, an LPDDR6 channel -/
  | tcmBank (g : CellId) (bank : Fin 4)
  | zArray (g : CellId)
  | scratchBank (hive index bank : Nat)
  | channel (hive channel : Nat)
  deriving DecidableEq, Repr

/-- The repair and link maps of a boot image (R288, R353, R362, R373). -/
structure BootMaps where
  wellFormed : Bool
  /-- logical units that a spare stands in for, with the physical number that each is given (R288, R373) -/
  units : List (Faulty × Nat)
  /-- logical cells that name no working cell (R374) -/
  absentCells : List Nat
  /-- combs that are absent from the hive, as comb indexes -/
  absentCombs : List Nat
  /-- dies that are absent -/
  absentDies : List Nat
  /-- apiary column of the bridge hive -/
  bridgeColumn : Nat
  deriving DecidableEq, Repr

/-- Where the parts of a boot image lie in it, and what its repair and link maps say (R385). -/
structure ImageLayout where
  length : Nat
  keyAt : Nat
  signatureAt : Nat
  svnAt : Nat
  repairAt : Nat
  repairLength : Nat
  maps : BootMaps
  deriving DecidableEq, Repr

/-- A boot image: its bytes with their layout (R385). -/
structure Image where
  bytes : List Byte
  layout : ImageLayout
  deriving DecidableEq, Repr

/-- What a debugger access names (R16, R271). -/
inductive DebugPlace where
  | tcm (g : CellId) (offset : Nat)
  | scratch (hive index offset : Nat)
  deriving DecidableEq, Repr

/-- The steps of the part: one constructor for each row of the opcode table. -/
inductive Instr where
  -- integer group (R116)
  | add (f : Fmt) (d a b : WReg) | sub (f : Fmt) (d a b : WReg) | and (f : Fmt) (d a b : WReg)
  | or (f : Fmt) (d a b : WReg) | xor (f : Fmt) (d a b : WReg) | shl (f : Fmt) (d a b : WReg)
  | shr (f : Fmt) (d a b : WReg) | sha (f : Fmt) (d a b : WReg) | rot (f : Fmt) (d a b : WReg)
  | slt (f : Fmt) (d a b : WReg) | sltz (f : Fmt) (d a b : WReg) | min (f : Fmt) (d a b : WReg)
  | max (f : Fmt) (d a b : WReg) | minz (f : Fmt) (d a b : WReg) | maxz (f : Fmt) (d a b : WReg)
  | sel (f : Fmt) (d a b : WReg) | mul (f : Fmt) (d a b : WReg) | mulh (f : Fmt) (d a b : WReg)
  | mulhz (f : Fmt) (d a b : WReg)
  | clz (f : Fmt) (d a : WReg) | ctz (f : Fmt) (d a : WReg) | popc (f : Fmt) (d a : WReg)
  | bswap (f : Fmt) (d a : WReg)
  -- long-latency integer (R117)
  | div (f : Fmt) (d a b : WReg) (la : Fin 16) | divz (f : Fmt) (d a b : WReg) (la : Fin 16)
  | rem (f : Fmt) (d a b : WReg) (la : Fin 16) | remz (f : Fmt) (d a b : WReg) (la : Fin 16)
  -- immediates and bit fields (R118-R120)
  | li (d : WReg) (imm : BitVec 19) | lih (d : WReg) (h : Fin 4) (imm : BitVec 16)
  | addi (f : Fmt) (d a : WReg) (imm : BitVec 11) | andi (f : Fmt) (d a : WReg) (imm : BitVec 11)
  | ori (f : Fmt) (d a : WReg) (imm : BitVec 11) | xori (f : Fmt) (d a : WReg) (imm : BitVec 11)
  | shli (f : Fmt) (d a : WReg) (imm : BitVec 11) | shri (f : Fmt) (d a : WReg) (imm : BitVec 11)
  | shai (f : Fmt) (d a : WReg) (imm : BitVec 11) | roti (f : Fmt) (d a : WReg) (imm : BitVec 11)
  | slti (f : Fmt) (d a : WReg) (imm : BitVec 11)
  | bext (d a : WReg) (wid : Fin 128) (off : Fin 64) | bextz (d a : WReg) (wid : Fin 128) (off : Fin 64)
  | bins (d a : WReg) (wid : Fin 128) (off : Fin 64)
  -- floating point (R121-R126)
  | fadd (f : Fmt) (rm : Rm) (sat : Bool) (d a b : WReg) | fsub (f : Fmt) (rm : Rm) (sat : Bool) (d a b : WReg)
  | fmul (f : Fmt) (rm : Rm) (sat : Bool) (d a b : WReg) | fma (f : Fmt) (rm : Rm) (sat : Bool) (d a b : WReg)
  | fms (f : Fmt) (rm : Rm) (sat : Bool) (d a b : WReg) | fnma (f : Fmt) (rm : Rm) (sat : Bool) (d a b : WReg)
  | fdiv (dbl : Bool) (rm : Rm) (sat : Bool) (d a b : WReg) (la : Fin 16)
  | fsqrt (dbl : Bool) (rm : Rm) (sat : Bool) (d a : WReg) (la : Fin 16)
  | fmin (f : Fmt) (d a b : WReg) | fmax (f : Fmt) (d a b : WReg)
  | fcmp (p : Pred) (f : Fmt) (d a b : WReg) | fclass (f : Fmt) (d a : WReg)
  | fsgn (o : SgnOp) (f : Fmt) (d a b : WReg)
  | fcvt (fd fs : Fmt) (rm : Rm) (sat : Bool) (d a : WReg) | fcvti (fd fs : Fmt) (rm : Rm) (sat : Bool) (d a : WReg)
  | icvtf (fd fs : Fmt) (rm : Rm) (sat : Bool) (d a : WReg)
  | fmvi (f : Fmt) (d : WReg) (imm : BitVec 16)
  -- the SCE, the Z array and the SDU (R206-R217)
  | cdmac (fb : Fmt) (bn : Bool) (d a b : WReg) | cdmacv (fb : Fmt) (bn : Bool) (d a b : WReg)
  | mma (fa fb : Fmt) (bn : Bool) (d a b : WReg)
  | zld (d a : WReg) | zst (a b : WReg) | zclr (a b : WReg)
  | zcvt (f : Fmt) (rm : Rm) (sat : Bool) (d a b : WReg)
  | sdcfg (a b : WReg) | sdscan (a b : WReg) | sdflush (a : WReg)
  -- vector (R157-R170)
  | vadd (f : Fmt) (rm : Rm) (sat : Bool) (d a b : PtrArg) | vsub (f : Fmt) (rm : Rm) (sat : Bool) (d a b : PtrArg)
  | vmul (f : Fmt) (rm : Rm) (sat : Bool) (d a b : PtrArg) | vma (f : Fmt) (rm : Rm) (sat : Bool) (d a b : PtrArg)
  | vmin (f : Fmt) (rm : Rm) (d a b : PtrArg) | vmax (f : Fmt) (rm : Rm) (d a b : PtrArg)
  | vand (f : Fmt) (d a b : PtrArg) | vor (f : Fmt) (d a b : PtrArg) | vxor (f : Fmt) (d a b : PtrArg)
  | vshl (f : Fmt) (d a b : PtrArg) | vshr (f : Fmt) (d a b : PtrArg)
  | vcmp (p : Pred) (f : Fmt) (d a b : PtrArg) | vsel (f : Fmt) (d a b m : PtrArg)
  | vcvt (fd fs : Fmt) (rm : Rm) (sat : Bool) (d a : PtrArg)
  | vred (o : RedOp) (f : Fmt) (rm : Rm) (d a : PtrArg) | vdot (f : Fmt) (rm : Rm) (d a b : PtrArg)
  | vscan (o : RedOp) (f : Fmt) (rm : Rm) (d a : PtrArg)
  | vperm (f : Fmt) (d a b : PtrArg) | vgath (f : Fmt) (d : PtrArg) (a : PReg) (b : PtrArg)
  | vscat (f : Fmt) (d : PReg) (a b : PtrArg)
  | vfill (f : Fmt) (d a : PtrArg) | vcopy (f : Fmt) (d a : PtrArg)
  | vclmul (f : Fmt) (d a b : PtrArg) | vhash (f : Fmt) (d a b : PtrArg)
  | vcmpb (d a b : PtrArg) | vfindb (d a b : PtrArg)
  -- SYS (R105)
  | fence (c : Scope) | yield (n : BitVec 12) | trap (n : BitVec 12) (a : WReg) | swarm (n : SwarmSize)
  -- system and pointer registers, slice maintenance (R136-R138, R141)
  | mfs (d : WReg) (n : BitVec 12) | mts (n : BitVec 12) (a : WReg)
  | pset (p : PReg) (a : WReg) | pget (d : WReg) (p : PReg) | setvl (d a : WReg)
  | cinv (a : WReg) | cflush (a : WReg)
  -- loads and stores (R127, R128)
  | ld (w : Fmt) (acq : Bool) (d a : WReg) (off : BitVec 6) (la : Fin 16)
  | st (w : Fmt) (rel : Bool) (d a : WReg) (off : BitVec 10)
  | ldx (w : Fmt) (acq : Bool) (d a b : WReg) (la : Fin 16) | stx (w : Fmt) (rel : Bool) (d a b : WReg)
  -- full/empty (R234)
  | ldfe (acq : Bool) (d a : WReg) (off : BitVec 6) (la : Fin 16)
  | ldff (acq : Bool) (d a : WReg) (off : BitVec 6) (la : Fin 16)
  | stfe (rel : Bool) (d a : WReg) (off : BitVec 10)
  | feq (acq : Bool) (d a : WReg) (off : BitVec 6) (la : Fin 16)
  -- atomics and stepped operations (R231-R233, R243-R248)
  | amo (op : Aop) (ord : Bool) (d a b : WReg) (la : Fin 16)
  | amov (op : Aop) (ord : Bool) (a : WReg) (pa pb : PtrArg)
  | amocfg (n : Fin 8) (a : WReg)
  | xamo (op : Aop) (ord : Bool) (d a b : WReg) (la : Fin 16)
  | xld (w : Fmt) (acq : Bool) (d a : WReg) (off : BitVec 6) (la : Fin 16)
  | xst (w : Fmt) (d a : WReg) (off : BitVec 10)
  | xam (a : WReg) | xflag (a b : WReg)
  -- control transfer (R134, R135)
  | beq (a b : WReg) (off : BitVec 14) | bne (a b : WReg) (off : BitVec 14)
  | blt (a b : WReg) (off : BitVec 14) | bge (a b : WReg) (off : BitVec 14)
  | bltz (a : WReg) (off : BitVec 14) | bgez (a : WReg) (off : BitVec 14)
  | bcf (off : BitVec 14) | bncf (off : BitVec 14)
  | j (off : BitVec 19) | jl (d : WReg) (off : BitVec 19) | jr (a : WReg) | jlr (d a : WReg)
  -- events, messages, tasks (R221-R228)
  | evsend (d a b : WReg) (edge : Fin 256) | evcnt (d : WReg) | mbw (n : Fin 8) (a : WReg)
  | waitm (d : WReg) | fork (a : WReg) (slot : Fin 64) | join (d a : WReg)
  -- barriers (R236-R239)
  | arrive (b : Fin 8) | arriveRemote (b : Fin 8) (a : WReg)
  | arriveb (b : Fin 8) (wb : WReg) | arrivebRemote (b : Fin 8) (wb a : WReg)
  | waitb (b : Fin 8) | waitbt (b : Fin 8) (a : WReg)
  | bcfgSet (b : Fin 8) (a : WReg) | bcfgGet (b : Fin 8) (a : WReg)
  -- pages (R240, R241)
  | cpass (a b : WReg) | cqry (d a : WReg) | freeze (a : WReg) | land (r : Rule) (a : WReg) | publish (a : WReg)
  -- the forager (R182-R200)
  | push (d a b : WReg) (bar : Option (Fin 8)) | pushx (d a b : WReg) (bar : Option (Fin 8))
  | sbind (w : Fmt) (n : Fin 4) (a b : WReg) | sunbind (n : Fin 4) | srd (d : WReg) (n : Fin 4)
  | fact (n : Fin 4) (a : WReg) | fconsA (n : Fin 4) | fconsB (n : Fin 4) | fconsM (n : Fin 4) (a : WReg)
  | fwrite (n : Fin 4) (a : WReg) | fpre (n : Fin 4) | fstat (d : WReg) (n : Fin 4)
  -- happenings of a strand and its engines
  | longLatencyResult (g : CellId) (k : StrandId) (seq : Nat)
  | storeAcknowledgement (g : CellId) (k : StrandId) (seq : Nat)
  | engineInstructionStart (g : CellId) (e : Eng)
  | engineInstructionRetire (g : CellId) (e : Eng)
  -- frames and refresh
  | frameActivate (g : CellId)
  | frameOpen (g : CellId) (port : Fin 4)
  | refresh (hive comb bank : Nat)
  | refreshEnd (hive comb bank : Nat)
  -- copies, mailbox, streams
  | copyBlockWrite (id : Nat)
  | copyCompletion (id : Nat)
  | copyRetirement (id : Nat)
  | mailboxSpillEnter (g : CellId)
  | pushxProxyEntry (id : Nat)
  | streamBlockArrival (g : CellId) (sid : Nat)
  -- barriers, parks, the watchdog, swarms
  | barrierArrival (arr : Arrival)
  | parkedStrandResume (g : CellId) (k : StrandId)
  | waitbtExpiry (g : CellId) (k : StrandId)
  | watchdog (g : CellId) (k : StrandId)
  | watchdogHandlerExpiry (g : CellId) (k : StrandId)
  | feRetry (g : CellId) (k : StrandId)
  | swarmClaimGrant (g : CellId) (k : StrandId)
  -- inputs, allowances, tasks
  | inputArrival (inp : Input)
  | inputAdvance (g : CellId) (slot : Nat)
  | sortedEventAbsorb (inp : Input)
  | allowanceReturn (g : CellId) (net : Net)
  | taskReturnArrival (ret : TaskReturn)
  -- the scheduler
  | firingChoice (g : CellId) (k : StrandId)
  | firingBind (g : CellId) (k : StrandId)
  | strandFree (g : CellId) (k : StrandId)
  -- stepped operations and the fold
  | steppedOpAccept (op : SteppedOp)
  | foldGather (job : Nat)
  | foldApply (job hive : Nat)
  | reductionPartialArrival (job hive : Nat) (target : Nat)
  | applyDone (job : Nat)
  | install (job hive : Nat)
  | replicaDigestTimeout (job : Nat)
  | installDone (job : Nat)
  | release (job : Nat)
  | sealStall (job hive : Nat)
  -- memories
  | pageStateCacheFill (hive comb page : Nat)
  | sliceFill (job hive va : Nat) (victim : Option Nat)
  | bankWake (g : CellId) (bank : Fin 4)
  | bankDrowsy (g : CellId) (bank : Fin 4)
  | bankZeroComplete (g : CellId) (bank : Fin 4)
  -- service registers and the drover's verbs
  | tcmpwr (g : CellId) (v : Word)
  | schedcfg (g : CellId) (v : Word)
  | engctr (g : CellId) (n : Fin 8) (v : Word)
  | resume (g : CellId) (k : StrandId) (wrec : Option (Word × Word × Word × Word))
  | deliver (g : CellId) (k : StrandId) (wrec : Option (Word × Word × Word × Word))
  | endfiring (g : CellId) (k : StrandId) (wrec : Option (Word × Word × Word × Word))
  | debuggerRead (place : DebugPlace)
  | debuggerWrite (place : DebugPlace) (v : Word)
  -- the host
  | hrtail (hive : Nat) (tail : Nat)
  | transferIn (hive : Nat) (d : List Word) (data : List Byte)
  | transferOut (hive : Nat) (d : List Word)
  | transferComplete (hive : Nat)
  | hostMessage (hive : Nat) (d : List Word)
  | hostMessageDelivery (hive : Nat)
  | jobLaunch (hive : Nat) (replicas : List LaunchPlan)
  | jobResume (hive : Nat)
  | jobEnd (hive : Nat)
  | attest (hive : Nat)
  | retry (hive : Nat)
  | managementRegisterWrite (hive : Nat) (offset : Nat) (v : Word)
  -- stopping, spares, faults
  | stop (job : Nat)
  | spareBringIn (u : Faulty)
  | cellProbe (g : CellId) (answered : Bool)
  | flitRetransmission (hive link : Nat)
  -- power, temperature, boot
  | powerPeriodEnd (hive : Nat) (watts : Nat)
  | thermalSample (hive : Nat) (celsius : Nat)
  | moduleReset (hive : Nat)
  | powerOn (hive : Nat)
  | pufEvaluation (hive : Nat) (ok : Bool)
  | imageVerification (hive : Nat) (counterOk : Bool) (slotA slotB : Option Image)
  | repairMapApply (hive : Nat) (maps : BootMaps)
  | memoryClear (hive : Nat)
  | linkTraining (hive : Nat) (ok : Bool)
  | firmwareStart (hive : Nat)
  | powerRemoval (hive : Nat)
  | hiveLost (hive : Nat)
  | recoveryWindowWrite (hive : Nat) (offset : Nat) (v : Byte)
  -- rows without operands: SYS (R105), events and messages (R222, R225), power and temperature (R383, R384, R387)
  | nop | ifence | done | doneNw | rtt | fold | unswarm
  | evpop | sendm | sendmT
  | clockStallEnd | thermalPowerDown | perst
  deriving DecidableEq, Repr

end Sys2Proof
end

