-- ==== Sys2Proof/Config.lean ====
section
/-! DEFINITION. What the spec leaves open and the model does not choose: opaque free values, the keys of a module and the
layout of its boot image (log entries 6 and 20). -/

namespace Sys2Proof.Config

/-- A free value: nothing is known of `freeWord n`. `State.free` counts how many have been used
(log entry 6). -/
opaque freeWord : Nat → Word

/-- The set of its slice, taken modulo 1,024, that the line of a virtual address lies in (R278); the spec does not name the
address bits that select it (log entry 42). -/
opaque sliceSet (va : Nat) : Nat

/-- The layout of the boot image at the start of a slot's bytes, unless they are none (R385); the spec does not give it (log
entry 20). -/
opaque imageLayout (bytes : List Byte) : Option ImageLayout

/-- The two vendor key digests in the drover ROM (R385), 32 bytes each (log entry 20). -/
opaque vendorDigest (second : Bool) : List Byte

/-- The PUF key of an I/O die of a hive, and the key derived from it for the counter block (R385, R386): they are never
readable (log entry 20). -/
opaque pufKey (hive die : Nat) : List Byte
opaque counterKey (hive : Nat) : List Byte

/-- Byte of a hive's flash as it left the factory (R383, R385; log entry 20). -/
opaque factoryFlash (hive offset : Nat) : Byte

end Sys2Proof.Config
end

