-- ==== Sys2Proof/WellFormed.lean ====
section
/-! DEFINITION. Which instruction words the decoder accepts: the format sets, ranges and pairings of R72, R90-R107,
R147 and R157-R170. The happenings are not words; `Instr.isWord` tells them apart. -/

namespace Sys2Proof

/-- The format codes of R59. -/
def Fmt.code : Fmt → Nat
  | .int8 => 0 | .int16 => 1 | .int32 => 2 | .int64 => 3
  | .uint8 => 4 | .uint16 => 5 | .uint32 => 6 | .uint64 => 7
  | .int4 => 8 | .uint4 => 9 | .e4m3 => 10 | .e5m2 => 11
  | .bf16 => 12 | .fp16 => 13 | .fp32 => 14 | .fp64 => 15

/-- `.b .h .w .d` of the scalar integer group (R100). -/
def Fmt.isScalarInt (f : Fmt) : Bool := f.code < 4
/-- Codes 0x0-0x6, the widths of a load and of an AI major (R93, R100). -/
def Fmt.isNarrowInt (f : Fmt) : Bool := f.code < 7
/-- Codes 0x0-0x7 (R157 "int"). -/
def Fmt.isInt (f : Fmt) : Bool := f.code < 8
/-- Codes 0xA-0xF (R157 "fp"). -/
def Fmt.isFp (f : Fmt) : Bool := 10 ≤ f.code
/-- Codes 0xC-0xF, the scalar floating-point formats (R101). -/
def Fmt.isScalarFp (f : Fmt) : Bool := 12 ≤ f.code
/-- Codes 0x0-0x7 and 0xA-0xF. -/
def Fmt.isIntOrFp (f : Fmt) : Bool := f.isInt || f.isFp

/-- Rounding modes that a core or VU instruction accepts (R90). -/
def Rm.ok (r : Rm) : Bool := r != .rna

/-- RM of a V instruction whose RM is used for floating point only (R157). -/
def rmFp (f : Fmt) (r : Rm) : Bool := r.ok && (f.isFp || r == .rne)

/-- One pointer named twice, with a post-increment on either naming, is refused (R147). -/
def PtrArg.pairOk (a b : PtrArg) : Bool := a.reg != b.reg || (!a.inc && !b.inc)

/-- All namings of a V instruction with three pointers are compatible (R147). -/
def ptrs3 (d a b : PtrArg) : Bool := d.pairOk a && d.pairOk b && a.pairOk b

/-- All namings of `VSEL` are compatible (R147). -/
def ptrs4 (d a b m : PtrArg) : Bool := ptrs3 d a b && d.pairOk m && a.pairOk m && b.pairOk m

/-- The operations that `VRED` and `VSCAN` accept for a format, and RM (R162). -/
def redOk (o : RedOp) (f : Fmt) (r : Rm) : Bool :=
  (!f.isFp || o == .add || o == .min || o == .max) && r.ok && (r == .rne || (f.isFp && o == .add))

/-- A shift or rotate immediate fits the width (R72, R93). -/
def shiftImmOk (f : Fmt) (imm : BitVec 11) : Bool := f.isScalarInt && imm.toNat < 8 * 2 ^ f.code

/-- `AMOV` accepts codes 0-6 and 8-15 (R106). -/
def Aop.isFn : Aop → Bool
  | .fn _ => true
  | _ => false

/-- The instruction is one of the 174 words a strand issues; the other rows are happenings. -/
def Instr.isWord : Instr → Bool
  | .longLatencyResult .. | .storeAcknowledgement .. | .engineInstructionStart .. | .engineInstructionRetire ..
  | .frameActivate .. | .frameOpen .. | .refresh .. | .refreshEnd .. | .copyBlockWrite .. | .copyCompletion ..
  | .copyRetirement .. | .mailboxSpillEnter .. | .pushxProxyEntry .. | .streamBlockArrival .. | .barrierArrival ..
  | .parkedStrandResume .. | .waitbtExpiry .. | .watchdog .. | .watchdogHandlerExpiry .. | .feRetry ..
  | .swarmClaimGrant .. | .inputArrival .. | .inputAdvance .. | .sortedEventAbsorb .. | .allowanceReturn ..
  | .taskReturnArrival .. | .firingChoice .. | .firingBind .. | .strandFree .. | .steppedOpAccept ..
  | .foldGather .. | .foldApply .. | .reductionPartialArrival .. | .applyDone .. | .install ..
  | .replicaDigestTimeout .. | .installDone .. | .release .. | .sealStall .. | .pageStateCacheFill ..
  | .sliceFill .. | .bankWake .. | .bankDrowsy .. | .bankZeroComplete .. | .tcmpwr .. | .schedcfg .. | .engctr ..
  | .resume .. | .deliver .. | .endfiring .. | .debuggerRead .. | .debuggerWrite .. | .hrtail .. | .transferIn ..
  | .transferOut .. | .transferComplete .. | .hostMessage .. | .hostMessageDelivery .. | .jobLaunch ..
  | .jobResume .. | .jobEnd .. | .attest .. | .retry .. | .managementRegisterWrite .. | .stop .. | .spareBringIn ..
  | .cellProbe .. | .flitRetransmission .. | .powerPeriodEnd .. | .clockStallEnd .. | .thermalSample ..
  | .thermalPowerDown .. | .moduleReset .. | .perst | .powerOn .. | .pufEvaluation .. | .imageVerification ..
  | .repairMapApply .. | .memoryClear .. | .linkTraining .. | .firmwareStart .. | .powerRemoval .. | .hiveLost ..
  | .recoveryWindowWrite .. => false
  | _ => true

/-- What the decoder asks of an instruction word beyond its major and minor codes (R89 items 3 and 4, R147
item 1). A happening is not a word and always passes. -/
def Instr.wf : Instr → Bool
  | .add f .. | .sub f .. | .and f .. | .or f .. | .xor f .. | .shl f .. | .shr f .. | .sha f .. | .rot f ..
  | .slt f .. | .sltz f .. | .min f .. | .max f .. | .minz f .. | .maxz f .. | .sel f .. | .mul f .. | .mulh f ..
  | .mulhz f .. | .clz f .. | .ctz f .. | .popc f .. | .bswap f .. => f.isScalarInt
  | .div f .. | .divz f .. | .rem f .. | .remz f .. => f.isScalarInt
  | .addi f .. | .andi f .. | .ori f .. | .xori f .. | .slti f .. => f.isNarrowInt
  | .shli f _ _ imm | .shri f _ _ imm | .shai f _ _ imm | .roti f _ _ imm => shiftImmOk f imm
  | .bext _ _ wid _ | .bextz _ _ wid _ | .bins _ _ wid _ => wid.val ≤ 64
  | .fadd f rm .. | .fsub f rm .. | .fmul f rm .. | .fma f rm .. | .fms f rm .. | .fnma f rm .. =>
      f.isScalarFp && rm.ok
  | .fdiv _ rm .. | .fsqrt _ rm .. => rm.ok
  | .fmin f .. | .fmax f .. | .fcmp _ f .. | .fclass f .. | .fsgn _ f .. => f.isScalarFp
  | .fcvt fd fs rm .. => fd.isFp && fs.isFp && fd != fs && rm.ok
  | .fcvti fd fs rm .. => fd.isInt && fs.isFp && rm.ok
  | .icvtf fd fs rm .. => fd.isFp && fs.isInt && rm.ok
  | .fmvi f .. => f.isFp
  | .zcvt _ rm .. => rm.ok
  | .vadd f rm _ d a b | .vsub f rm _ d a b | .vmul f rm _ d a b | .vma f rm _ d a b
  | .vmin f rm d a b | .vmax f rm d a b => f.isIntOrFp && rmFp f rm && ptrs3 d a b
  | .vand f d a b | .vor f d a b | .vxor f d a b | .vshl f d a b | .vshr f d a b => f.isInt && ptrs3 d a b
  | .vcmp p f d a b => f.isIntOrFp && (f.isFp || p != .un) && ptrs3 d a b
  | .vsel f d a b m => f.isIntOrFp && ptrs4 d a b m
  | .vcvt fd fs rm _ d a => fd != fs && rm.ok && d.pairOk a
  | .vred o f rm d a | .vscan o f rm d a => redOk o f rm && d.pairOk a
  | .vdot f rm d a b => rmFp f rm && ptrs3 d a b
  | .vperm f d a b => f.isIntOrFp && ptrs3 d a b
  | .vgath f d a b => f.isIntOrFp && ptrs3 d ⟨a, false⟩ b
  | .vscat f d a b => f.isIntOrFp && ptrs3 ⟨d, false⟩ a b
  | .vfill _ d a | .vcopy _ d a => d.pairOk a
  | .vclmul f d a b | .vhash f d a b => (f == .int32 || f == .int64) && ptrs3 d a b
  | .vcmpb d a b | .vfindb d a b => ptrs3 d a b
  | .ld w .. | .ldx w .. | .xld w .. | .sbind w .. => w.isNarrowInt
  | .st w .. | .stx w .. | .xst w .. => w.isScalarInt
  | .amov op _ _ pa pb => op != .cas && pa.pairOk pb
  | .xamo op .. => !op.isFn
  | .mbw n _ => n.val < 5
  | _ => true

end Sys2Proof
end

