-- ==== Sys2Proof/Decode.lean ====
section
/-! DEFINITION. The decoder and the encoder of instruction words (R85-R107, R109). `decodeWord` follows R89:
an unallocated major or minor, a format or range outside the accepted set, and a non-zero reserved field are
rejected, each by its own name. A reserved field is one that the encoding of the decoded instruction leaves zero. -/

namespace Sys2Proof

/-- Why a word is no instruction, in the order of R89. -/
inductive Reject where
  /-- the major is not allocated in the table of the ENCV -/
  | major
  /-- the minor code is not allocated -/
  | minor
  /-- a format code or a range-limited field is outside its set -/
  | field
  /-- a reserved field is not zero -/
  | reserved
  deriving DecidableEq, Repr

/-- Bits `h` down to `l` of a word (R8). -/
def fld (w h l : Nat) : Nat := w / 2 ^ l % 2 ^ (h + 1 - l)

/-- A register field. -/
def regAt (w l : Nat) : WReg := Fin.ofNat 32 (w / 2 ^ l)

/-- wd, wa and wb (R90). -/
def fD (w : Nat) : WReg := regAt w 19
def fA (w : Nat) : WReg := regAt w 14
def fB (w : Nat) : WReg := regAt w 9

/-- The format code of a 4-bit field (R59). -/
def Fmt.ofCode (c : Nat) : Fmt :=
  match c % 16 with
  | 0 => .int8 | 1 => .int16 | 2 => .int32 | 3 => .int64 | 4 => .uint8 | 5 => .uint16 | 6 => .uint32 | 7 => .uint64
  | 8 => .int4 | 9 => .uint4 | 10 => .e4m3 | 11 => .e5m2 | 12 => .bf16 | 13 => .fp16 | 14 => .fp32 | _ => .fp64

/-- The rounding-mode codes of R66. -/
def Rm.code : Rm → Nat
  | .rne => 0 | .rtz => 1 | .rup => 2 | .rdn => 3 | .rna => 4
/-- RM of a core or VU instruction: codes 4-7 are refused (R90). -/
def Rm.ofCode (c : Nat) : Option Rm :=
  match c with
  | 0 => some .rne | 1 => some .rtz | 2 => some .rup | 3 => some .rdn | _ => none

/-- The predicates of R101. -/
def Pred.code : Pred → Nat
  | .eq => 0 | .ne => 1 | .lt => 2 | .le => 3 | .un => 4
def Pred.ofCode (c : Nat) : Option Pred :=
  match c with
  | 0 => some .eq | 1 => some .ne | 2 => some .lt | 3 => some .le | 4 => some .un | _ => none

/-- The sign operations of R101. -/
def SgnOp.code : SgnOp → Nat
  | .cpy => 0 | .neg => 1 | .xor => 2
def SgnOp.ofCode (c : Nat) : Option SgnOp :=
  match c with
  | 0 => some .cpy | 1 => some .neg | 2 => some .xor | _ => none

/-- The reductions of R102. -/
def RedOp.code : RedOp → Nat
  | .add => 0 | .min => 1 | .max => 2 | .and => 3 | .or => 4 | .xor => 5
def RedOp.ofCode (c : Nat) : Option RedOp :=
  match c with
  | 0 => some .add | 1 => some .min | 2 => some .max | 3 => some .and | 4 => some .or | 5 => some .xor | _ => none

/-- The atomic codes of R106. -/
def Aop.code : Aop → Nat
  | .swap => 0 | .add => 1 | .and => 2 | .or => 3 | .xor => 4 | .min => 5 | .max => 6 | .cas => 7
  | .fn k => 8 + k.val
def Aop.ofCode (c : Nat) : Aop :=
  match c % 16 with
  | 0 => .swap | 1 => .add | 2 => .and | 3 => .or | 4 => .xor | 5 => .min | 6 => .max | 7 => .cas
  | n => .fn (Fin.ofNat 8 n)

/-- The scopes of R105. -/
def Scope.code : Scope → Nat
  | .strand => 0 | .cell => 1 | .comb => 2 | .hive => 3 | .job => 4
def Scope.ofCode (c : Nat) : Option Scope :=
  match c with
  | 0 => some .strand | 1 => some .cell | 2 => some .comb | 3 => some .hive | 4 => some .job | _ => none

/-- The swarm sizes of R105. -/
def SwarmSize.code : SwarmSize → Nat
  | .n2 => 0 | .n4 => 1 | .n8 => 2
def SwarmSize.ofCode (c : Nat) : Option SwarmSize :=
  match c with
  | 0 => some .n2 | 1 => some .n4 | 2 => some .n8 | _ => none

/-- The rules of `LAND` (R107). -/
def Rule.code : Rule → Nat
  | .add => 0 | .min => 1 | .max => 2 | .or => 3 | .first => 4 | .last => 5 | .unique => 6
def Rule.ofCode (c : Nat) : Option Rule :=
  match c with
  | 0 => some .add | 1 => some .min | 2 => some .max | 3 => some .or | 4 => some .first | 5 => some .last
  | 6 => some .unique | _ => none

/-- A pointer operand: three bits of register with the increment bit below them (R91). -/
def ptrAt (w l : Nat) : PtrArg := ⟨Fin.ofNat 8 (w / 2 ^ (l + 1)), w / 2 ^ l % 2 == 1⟩

/-- The value of a pointer operand in its four bits. -/
def PtrArg.enc (p : PtrArg) : Nat := p.reg.val * 2 + p.inc.toNat

/-! ### The parts of a word that most formats share -/

def bitAt (w l : Nat) : Bool := w / 2 ^ l % 2 == 1
def fmtAt (w l : Nat) : Fmt := Fmt.ofCode (w / 2 ^ l)
def fLa (w : Nat) : Fin 16 := Fin.ofNat 16 w
def fBar (w : Nat) : Fin 8 := Fin.ofNat 8 w
def fPort (w : Nat) : Fin 4 := Fin.ofNat 4 w
def barOpt (w : Nat) : Option (Fin 8) := if bitAt w 3 then some (fBar w) else none
/-- OFFH:OFFL of CB (R92, R93). -/
def off14 (w : Nat) : BitVec 14 := BitVec.ofNat 14 (w / 2 ^ 19 % 32 * 2 ^ 9 + w % 2 ^ 9)

def opt {α : Type} (o : Option α) : Except Reject α :=
  match o with
  | some a => .ok a
  | none => .error .minor

def rmAt {α : Type} (w l : Nat) (k : Rm → α) : Except Reject α :=
  match Rm.ofCode (fld w (l + 2) l) with
  | some r => .ok (k r)
  | none => .error .field

/-- The integer group, major 0x00 (R100). -/
def decodeInt (w : Nat) : Except Reject Instr :=
  match w % 32 with
  | 0 => .ok (.add (fmtAt w 5) (fD w) (fA w) (fB w))
  | 1 => .ok (.sub (fmtAt w 5) (fD w) (fA w) (fB w))
  | 2 => .ok (.and (fmtAt w 5) (fD w) (fA w) (fB w))
  | 3 => .ok (.or (fmtAt w 5) (fD w) (fA w) (fB w))
  | 4 => .ok (.xor (fmtAt w 5) (fD w) (fA w) (fB w))
  | 5 => .ok (.shl (fmtAt w 5) (fD w) (fA w) (fB w))
  | 6 => .ok (.shr (fmtAt w 5) (fD w) (fA w) (fB w))
  | 7 => .ok (.sha (fmtAt w 5) (fD w) (fA w) (fB w))
  | 8 => .ok (.rot (fmtAt w 5) (fD w) (fA w) (fB w))
  | 9 => .ok (.slt (fmtAt w 5) (fD w) (fA w) (fB w))
  | 10 => .ok (.sltz (fmtAt w 5) (fD w) (fA w) (fB w))
  | 11 => .ok (.min (fmtAt w 5) (fD w) (fA w) (fB w))
  | 12 => .ok (.max (fmtAt w 5) (fD w) (fA w) (fB w))
  | 13 => .ok (.minz (fmtAt w 5) (fD w) (fA w) (fB w))
  | 14 => .ok (.maxz (fmtAt w 5) (fD w) (fA w) (fB w))
  | 15 => .ok (.sel (fmtAt w 5) (fD w) (fA w) (fB w))
  | 16 => .ok (.mul (fmtAt w 5) (fD w) (fA w) (fB w))
  | 17 => .ok (.mulh (fmtAt w 5) (fD w) (fA w) (fB w))
  | 18 => .ok (.mulhz (fmtAt w 5) (fD w) (fA w) (fB w))
  | 20 => .ok (.clz (fmtAt w 5) (fD w) (fA w))
  | 21 => .ok (.ctz (fmtAt w 5) (fD w) (fA w))
  | 22 => .ok (.popc (fmtAt w 5) (fD w) (fA w))
  | 23 => .ok (.bswap (fmtAt w 5) (fD w) (fA w))
  | _ => .error .minor

/-- The vector group, major 0x30 (R102). -/
def decodeVec (w : Nat) : Except Reject Instr :=
  match w % 16 with
  | 0 => rmAt w 5 fun rm => .vadd (fmtAt w 8) rm (bitAt w 4) (ptrAt w 20) (ptrAt w 16) (ptrAt w 12)
  | 1 => rmAt w 5 fun rm => .vsub (fmtAt w 8) rm (bitAt w 4) (ptrAt w 20) (ptrAt w 16) (ptrAt w 12)
  | 2 => rmAt w 5 fun rm => .vmul (fmtAt w 8) rm (bitAt w 4) (ptrAt w 20) (ptrAt w 16) (ptrAt w 12)
  | 3 => rmAt w 5 fun rm => .vma (fmtAt w 8) rm (bitAt w 4) (ptrAt w 20) (ptrAt w 16) (ptrAt w 12)
  | 4 => rmAt w 5 fun rm => .vmin (fmtAt w 8) rm (ptrAt w 20) (ptrAt w 16) (ptrAt w 12)
  | 5 => rmAt w 5 fun rm => .vmax (fmtAt w 8) rm (ptrAt w 20) (ptrAt w 16) (ptrAt w 12)
  | 6 => .ok (.vand (fmtAt w 8) (ptrAt w 20) (ptrAt w 16) (ptrAt w 12))
  | 7 => .ok (.vor (fmtAt w 8) (ptrAt w 20) (ptrAt w 16) (ptrAt w 12))
  | 8 => .ok (.vxor (fmtAt w 8) (ptrAt w 20) (ptrAt w 16) (ptrAt w 12))
  | 9 => .ok (.vshl (fmtAt w 8) (ptrAt w 20) (ptrAt w 16) (ptrAt w 12))
  | 10 => .ok (.vshr (fmtAt w 8) (ptrAt w 20) (ptrAt w 16) (ptrAt w 12))
  | _ => .error .minor

/-- The A-class majors (R99). -/
def decodeA (w : Nat) : Except Reject Instr :=
  match fld w 29 24 with
  | 0x00 => decodeInt w
  | 0x01 => .ok (if bitAt w 4 then .divz (fmtAt w 5) (fD w) (fA w) (fB w) (fLa w)
      else .div (fmtAt w 5) (fD w) (fA w) (fB w) (fLa w))
  | 0x02 => .ok (if bitAt w 4 then .remz (fmtAt w 5) (fD w) (fA w) (fB w) (fLa w)
      else .rem (fmtAt w 5) (fD w) (fA w) (fB w) (fLa w))
  | 0x03 => .ok (.li (fD w) (BitVec.ofNat 19 w))
  | 0x04 => .ok (.lih (fD w) (Fin.ofNat 4 (w / 2 ^ 17)) (BitVec.ofNat 16 w))
  | 0x05 => .ok (.addi (Fmt.ofCode (fld w 13 11)) (fD w) (fA w) (BitVec.ofNat 11 w))
  | 0x06 => .ok (.andi (Fmt.ofCode (fld w 13 11)) (fD w) (fA w) (BitVec.ofNat 11 w))
  | 0x07 => .ok (.ori (Fmt.ofCode (fld w 13 11)) (fD w) (fA w) (BitVec.ofNat 11 w))
  | 0x08 => .ok (.xori (Fmt.ofCode (fld w 13 11)) (fD w) (fA w) (BitVec.ofNat 11 w))
  | 0x09 => .ok (.shli (Fmt.ofCode (fld w 13 11)) (fD w) (fA w) (BitVec.ofNat 11 w))
  | 0x0A => .ok (.shri (Fmt.ofCode (fld w 13 11)) (fD w) (fA w) (BitVec.ofNat 11 w))
  | 0x0B => .ok (.shai (Fmt.ofCode (fld w 13 11)) (fD w) (fA w) (BitVec.ofNat 11 w))
  | 0x0C => .ok (.roti (Fmt.ofCode (fld w 13 11)) (fD w) (fA w) (BitVec.ofNat 11 w))
  | 0x0D => .ok (.slti (Fmt.ofCode (fld w 13 11)) (fD w) (fA w) (BitVec.ofNat 11 w))
  | 0x0E => .ok (if bitAt w 0 then .bextz (fD w) (fA w) (Fin.ofNat 128 (w / 2 ^ 7)) (Fin.ofNat 64 (w / 2))
      else .bext (fD w) (fA w) (Fin.ofNat 128 (w / 2 ^ 7)) (Fin.ofNat 64 (w / 2)))
  | 0x0F => .ok (.bins (fD w) (fA w) (Fin.ofNat 128 (w / 2 ^ 7)) (Fin.ofNat 64 (w / 2)))
  | 0x10 => rmAt w 2 fun rm => .fadd (fmtAt w 5) rm (bitAt w 1) (fD w) (fA w) (fB w)
  | 0x11 => rmAt w 2 fun rm => .fsub (fmtAt w 5) rm (bitAt w 1) (fD w) (fA w) (fB w)
  | 0x12 => rmAt w 2 fun rm => .fmul (fmtAt w 5) rm (bitAt w 1) (fD w) (fA w) (fB w)
  | 0x13 => rmAt w 2 fun rm => .fma (fmtAt w 5) rm (bitAt w 1) (fD w) (fA w) (fB w)
  | 0x14 => rmAt w 2 fun rm => .fms (fmtAt w 5) rm (bitAt w 1) (fD w) (fA w) (fB w)
  | 0x15 => rmAt w 2 fun rm => .fnma (fmtAt w 5) rm (bitAt w 1) (fD w) (fA w) (fB w)
  | 0x16 => rmAt w 5 fun rm => .fdiv (bitAt w 8) rm (bitAt w 4) (fD w) (fA w) (fB w) (fLa w)
  | 0x17 => rmAt w 5 fun rm => .fsqrt (bitAt w 8) rm (bitAt w 4) (fD w) (fA w) (fLa w)
  | 0x18 => .ok (.fmin (fmtAt w 5) (fD w) (fA w) (fB w))
  | 0x19 => .ok (.fmax (fmtAt w 5) (fD w) (fA w) (fB w))
  | 0x1A => do .ok (.fcmp (← opt (Pred.ofCode (fld w 4 2))) (fmtAt w 5) (fD w) (fA w) (fB w))
  | 0x1B => .ok (.fclass (fmtAt w 5) (fD w) (fA w))
  | 0x1C => do .ok (.fsgn (← opt (SgnOp.ofCode (fld w 4 2))) (fmtAt w 5) (fD w) (fA w) (fB w))
  | 0x1D => rmAt w 3 fun rm => .fcvt (fmtAt w 10) (fmtAt w 6) rm (bitAt w 2) (fD w) (fA w)
  | 0x1E => rmAt w 3 fun rm => .fcvti (fmtAt w 10) (fmtAt w 6) rm (bitAt w 2) (fD w) (fA w)
  | 0x1F => rmAt w 3 fun rm => .icvtf (fmtAt w 10) (fmtAt w 6) rm (bitAt w 2) (fD w) (fA w)
  | 0x20 => .ok (.fmvi (Fmt.ofCode (fld w 18 16 + 8)) (fD w) (BitVec.ofNat 16 w))
  | 0x21 => .ok (.cdmac (fmtAt w 1) (bitAt w 0) (fD w) (fA w) (fB w))
  | 0x22 => .ok (.cdmacv (fmtAt w 1) (bitAt w 0) (fD w) (fA w) (fB w))
  | 0x23 => .ok (.mma (fmtAt w 5) (fmtAt w 1) (bitAt w 0) (fD w) (fA w) (fB w))
  | 0x24 => .ok (.zld (fD w) (fA w))
  | 0x25 => .ok (.zst (fA w) (fB w))
  | 0x26 => .ok (.zclr (fA w) (fB w))
  | 0x27 => rmAt w 2 fun rm => .zcvt (fmtAt w 5) rm (bitAt w 1) (fD w) (fA w) (fB w)
  | 0x28 => .ok (.sdcfg (fA w) (fB w))
  | 0x29 => .ok (.sdscan (fA w) (fB w))
  | 0x2A => .ok (.sdflush (fA w))
  | 0x30 => decodeVec w
  | 0x31 => do
      .ok (.vcmp (← opt (Pred.ofCode (fld w 2 0))) (fmtAt w 8) (ptrAt w 20) (ptrAt w 16) (ptrAt w 12))
  | 0x32 => .ok (.vsel (fmtAt w 8) (ptrAt w 20) (ptrAt w 16) (ptrAt w 12) ⟨Fin.ofNat 8 w, bitAt w 3⟩)
  | 0x33 => rmAt w 5 fun rm => .vcvt (fmtAt w 8) (fmtAt w 0) rm (bitAt w 4) (ptrAt w 20) (ptrAt w 16)
  | 0x34 => do
      let o ← opt (RedOp.ofCode (fld w 3 0))
      rmAt w 5 fun rm => .vred o (fmtAt w 8) rm (ptrAt w 20) (ptrAt w 16)
  | 0x35 => rmAt w 5 fun rm => .vdot (fmtAt w 8) rm (ptrAt w 20) (ptrAt w 16) (ptrAt w 12)
  | 0x36 => do
      let o ← opt (RedOp.ofCode (fld w 3 0))
      rmAt w 5 fun rm => .vscan o (fmtAt w 8) rm (ptrAt w 20) (ptrAt w 16)
  | 0x37 => .ok (.vperm (fmtAt w 8) (ptrAt w 20) (ptrAt w 16) (ptrAt w 12))
  | 0x38 => .ok (.vgath (fmtAt w 8) (ptrAt w 20) (Fin.ofNat 8 (w / 2 ^ 17)) (ptrAt w 12))
  | 0x39 => .ok (.vscat (fmtAt w 8) (Fin.ofNat 8 (w / 2 ^ 21)) (ptrAt w 16) (ptrAt w 12))
  | 0x3A => .ok (.vfill (fmtAt w 8) (ptrAt w 20) (ptrAt w 16))
  | 0x3B => .ok (.vcopy (fmtAt w 8) (ptrAt w 20) (ptrAt w 16))
  | 0x3C => .ok (.vclmul (fmtAt w 8) (ptrAt w 20) (ptrAt w 16) (ptrAt w 12))
  | 0x3D => .ok (.vhash (fmtAt w 8) (ptrAt w 20) (ptrAt w 16) (ptrAt w 12))
  | 0x3E => .ok (.vcmpb (ptrAt w 20) (ptrAt w 16) (ptrAt w 12))
  | 0x3F => .ok (.vfindb (ptrAt w 20) (ptrAt w 16) (ptrAt w 12))
  | _ => .error .major

/-- The SYS major (R105). -/
def decodeSys (w : Nat) : Except Reject Instr :=
  match fld w 23 19 with
  | 0 => .ok .nop
  | 1 => do .ok (.fence (← opt (Scope.ofCode (fld w 2 0))))
  | 2 => .ok .ifence
  | 3 => .ok (.yield (BitVec.ofNat 12 w))
  | 4 => .ok .done
  | 5 => .ok .doneNw
  | 6 => .ok (.trap (BitVec.ofNat 12 w) (fA w))
  | 7 => .ok .rtt
  | 8 => .ok .fold
  | 9 => do .ok (.swarm (← opt (SwarmSize.ofCode (fld w 1 0))))
  | 10 => .ok .unswarm
  | _ => .error .minor

/-- The page group, major 0x31 (R107). -/
def decodePage (w : Nat) : Except Reject Instr :=
  match fld w 2 0 with
  | 0 => .ok (.cpass (fA w) (fB w))
  | 1 => .ok (.cqry (fD w) (fA w))
  | 2 => .ok (.freeze (fA w))
  | 3 => do .ok (.land (← opt (Rule.ofCode (fld w 5 3))) (fA w))
  | 4 => .ok (.publish (fA w))
  | _ => .error .minor

/-- The C-class majors (R104). -/
def decodeC (w : Nat) : Except Reject Instr :=
  match fld w 29 24 with
  | 0x00 => decodeSys w
  | 0x01 => .ok (.mfs (fD w) (BitVec.ofNat 12 w))
  | 0x02 => .ok (.mts (BitVec.ofNat 12 w) (fA w))
  | 0x03 => .ok (.pset (Fin.ofNat 8 w) (fA w))
  | 0x04 => .ok (.pget (fD w) (Fin.ofNat 8 w))
  | 0x05 => .ok (.setvl (fD w) (fA w))
  | 0x06 => .ok (.cinv (fA w))
  | 0x07 => .ok (.cflush (fA w))
  | 0x08 => .ok (.ld (Fmt.ofCode (fld w 13 11)) (bitAt w 10) (fD w) (fA w) (BitVec.ofNat 6 (w / 2 ^ 4)) (fLa w))
  | 0x09 => .ok (.st (Fmt.ofCode (fld w 13 11)) (bitAt w 10) (fD w) (fA w) (BitVec.ofNat 10 w))
  | 0x0A => .ok (.ldx (Fmt.ofCode (fld w 8 6)) (bitAt w 5) (fD w) (fA w) (fB w) (fLa w))
  | 0x0B => .ok (.stx (Fmt.ofCode (fld w 8 6)) (bitAt w 5) (fD w) (fA w) (fB w))
  | 0x0C => .ok (.ldfe (bitAt w 10) (fD w) (fA w) (BitVec.ofNat 6 (w / 2 ^ 4)) (fLa w))
  | 0x0D => .ok (.ldff (bitAt w 10) (fD w) (fA w) (BitVec.ofNat 6 (w / 2 ^ 4)) (fLa w))
  | 0x0E => .ok (.stfe (bitAt w 10) (fD w) (fA w) (BitVec.ofNat 10 w))
  | 0x0F => .ok (.feq (bitAt w 10) (fD w) (fA w) (BitVec.ofNat 6 (w / 2 ^ 4)) (fLa w))
  | 0x10 => .ok (.amo (Aop.ofCode (w / 2 ^ 5)) (bitAt w 4) (fD w) (fA w) (fB w) (fLa w))
  | 0x11 => .ok (.amov (Aop.ofCode (w / 2 ^ 20)) (bitAt w 19) (fA w) (ptrAt w 10) (ptrAt w 6))
  | 0x12 => .ok (.amocfg (Fin.ofNat 8 w) (fA w))
  | 0x13 => .ok (.xamo (Aop.ofCode (w / 2 ^ 5)) (bitAt w 4) (fD w) (fA w) (fB w) (fLa w))
  | 0x14 => .ok (.xld (Fmt.ofCode (fld w 13 11)) (bitAt w 10) (fD w) (fA w) (BitVec.ofNat 6 (w / 2 ^ 4)) (fLa w))
  | 0x15 => .ok (.xst (Fmt.ofCode (fld w 13 11)) (fD w) (fA w) (BitVec.ofNat 10 w))
  | 0x16 => .ok (.xam (fA w))
  | 0x17 => .ok (.xflag (fA w) (fB w))
  | 0x18 => .ok (.beq (fA w) (fB w) (off14 w))
  | 0x19 => .ok (.bne (fA w) (fB w) (off14 w))
  | 0x1A => .ok (.blt (fA w) (fB w) (off14 w))
  | 0x1B => .ok (.bge (fA w) (fB w) (off14 w))
  | 0x1C => .ok (.bltz (fA w) (off14 w))
  | 0x1D => .ok (.bgez (fA w) (off14 w))
  | 0x1E => .ok (.bcf (off14 w))
  | 0x1F => .ok (.bncf (off14 w))
  | 0x20 => .ok (.j (BitVec.ofNat 19 w))
  | 0x21 => .ok (.jl (fD w) (BitVec.ofNat 19 w))
  | 0x22 => .ok (.jr (fA w))
  | 0x23 => .ok (.jlr (fD w) (fA w))
  | 0x24 => .ok (.evsend (fD w) (fA w) (fB w) (Fin.ofNat 256 w))
  | 0x25 => .ok .evpop
  | 0x26 => .ok (.evcnt (fD w))
  | 0x27 => .ok (.mbw (fBar w) (fA w))
  | 0x28 => .ok (if bitAt w 0 then .sendmT else .sendm)
  | 0x29 => .ok (.waitm (fD w))
  | 0x2A => .ok (.fork (fA w) (Fin.ofNat 64 w))
  | 0x2B => .ok (.join (fD w) (fA w))
  | 0x2C => .ok (if bitAt w 3 then .arriveRemote (fBar w) (fA w) else .arrive (fBar w))
  | 0x2D => .ok (if bitAt w 3 then .arrivebRemote (fBar w) (fB w) (fA w) else .arriveb (fBar w) (fB w))
  | 0x2E => .ok (.waitb (fBar w))
  | 0x2F => .ok (.waitbt (fBar w) (fA w))
  | 0x30 => .ok (if bitAt w 3 then .bcfgGet (fBar w) (fA w) else .bcfgSet (fBar w) (fA w))
  | 0x31 => decodePage w
  | 0x32 => .ok (.push (fD w) (fA w) (fB w) (barOpt w))
  | 0x33 => .ok (.pushx (fD w) (fA w) (fB w) (barOpt w))
  | 0x34 => .ok (.sbind (Fmt.ofCode (fld w 4 2)) (fPort w) (fA w) (fB w))
  | 0x35 => .ok (.sunbind (fPort w))
  | 0x36 => .ok (.srd (fD w) (fPort w))
  | 0x38 => .ok (.fact (fPort w) (fA w))
  | 0x39 =>
      match fld w 3 2 with
      | 0 => .ok (.fconsA (fPort w))
      | 1 => .ok (.fconsB (fPort w))
      | 2 => .ok (.fconsM (fPort w) (fA w))
      | _ => .error .minor
  | 0x3A => .ok (.fwrite (fPort w) (fA w))
  | 0x3B => .ok (.fpre (fPort w))
  | 0x3C => .ok (.fstat (fD w) (fPort w))
  | _ => .error .major

/-! ### The encoder: version 3, S = 0 -/

/-- K = 1 and OP of an A-class word (R91). -/
def opA (op : Nat) : Nat := 2 ^ 30 + op * 2 ^ 24
/-- K = 0 and OP of a C-class word (R92). -/
def opC (op : Nat) : Nat := op * 2 ^ 24
/-- wd, wa and wb in place. -/
def encD (d : WReg) : Nat := d.val * 2 ^ 19
def encA (a : WReg) : Nat := a.val * 2 ^ 14
def encB (b : WReg) : Nat := b.val * 2 ^ 9
/-- AR and AF below the registers: FMT at 8:5. -/
def encF (f : Fmt) (l : Nat) : Nat := f.code * 2 ^ l
/-- AV above FN: the three pointers and FMT. -/
def encV (op : Nat) (d a b : Nat) (f : Nat) : Nat := opA op + d * 2 ^ 20 + a * 2 ^ 16 + b * 2 ^ 12 + f * 2 ^ 8
/-- CB: OFFH and OFFL (R92). -/
def encOff (o : BitVec 14) : Nat := o.toNat / 2 ^ 9 * 2 ^ 19 + o.toNat % 2 ^ 9
/-- The barrier of `PUSH` and `PUSHX` with its presence bit (R107). -/
def encBar : Option (Fin 8) → Nat
  | none => 0
  | some b => 8 + b.val

/-- The word of an instruction in encoding version 3 with S = 0 (R91-R107). A happening has no word: 0. -/
def encode : Instr → Nat
  | .add f d a b => opA 0 + encD d + encA a + encB b + encF f 5 + 0
  | .sub f d a b => opA 0 + encD d + encA a + encB b + encF f 5 + 1
  | .and f d a b => opA 0 + encD d + encA a + encB b + encF f 5 + 2
  | .or f d a b => opA 0 + encD d + encA a + encB b + encF f 5 + 3
  | .xor f d a b => opA 0 + encD d + encA a + encB b + encF f 5 + 4
  | .shl f d a b => opA 0 + encD d + encA a + encB b + encF f 5 + 5
  | .shr f d a b => opA 0 + encD d + encA a + encB b + encF f 5 + 6
  | .sha f d a b => opA 0 + encD d + encA a + encB b + encF f 5 + 7
  | .rot f d a b => opA 0 + encD d + encA a + encB b + encF f 5 + 8
  | .slt f d a b => opA 0 + encD d + encA a + encB b + encF f 5 + 9
  | .sltz f d a b => opA 0 + encD d + encA a + encB b + encF f 5 + 10
  | .min f d a b => opA 0 + encD d + encA a + encB b + encF f 5 + 11
  | .max f d a b => opA 0 + encD d + encA a + encB b + encF f 5 + 12
  | .minz f d a b => opA 0 + encD d + encA a + encB b + encF f 5 + 13
  | .maxz f d a b => opA 0 + encD d + encA a + encB b + encF f 5 + 14
  | .sel f d a b => opA 0 + encD d + encA a + encB b + encF f 5 + 15
  | .mul f d a b => opA 0 + encD d + encA a + encB b + encF f 5 + 16
  | .mulh f d a b => opA 0 + encD d + encA a + encB b + encF f 5 + 17
  | .mulhz f d a b => opA 0 + encD d + encA a + encB b + encF f 5 + 18
  | .clz f d a => opA 0 + encD d + encA a + encF f 5 + 20
  | .ctz f d a => opA 0 + encD d + encA a + encF f 5 + 21
  | .popc f d a => opA 0 + encD d + encA a + encF f 5 + 22
  | .bswap f d a => opA 0 + encD d + encA a + encF f 5 + 23
  | .div f d a b la => opA 1 + encD d + encA a + encB b + encF f 5 + la.val
  | .divz f d a b la => opA 1 + encD d + encA a + encB b + encF f 5 + 16 + la.val
  | .rem f d a b la => opA 2 + encD d + encA a + encB b + encF f 5 + la.val
  | .remz f d a b la => opA 2 + encD d + encA a + encB b + encF f 5 + 16 + la.val
  | .li d imm => opA 3 + encD d + imm.toNat
  | .lih d h imm => opA 4 + encD d + h.val * 2 ^ 17 + imm.toNat
  | .addi f d a imm => opA 5 + encD d + encA a + encF f 11 + imm.toNat
  | .andi f d a imm => opA 6 + encD d + encA a + encF f 11 + imm.toNat
  | .ori f d a imm => opA 7 + encD d + encA a + encF f 11 + imm.toNat
  | .xori f d a imm => opA 8 + encD d + encA a + encF f 11 + imm.toNat
  | .shli f d a imm => opA 9 + encD d + encA a + encF f 11 + imm.toNat
  | .shri f d a imm => opA 10 + encD d + encA a + encF f 11 + imm.toNat
  | .shai f d a imm => opA 11 + encD d + encA a + encF f 11 + imm.toNat
  | .roti f d a imm => opA 12 + encD d + encA a + encF f 11 + imm.toNat
  | .slti f d a imm => opA 13 + encD d + encA a + encF f 11 + imm.toNat
  | .bext d a wid off => opA 14 + encD d + encA a + wid.val * 2 ^ 7 + off.val * 2
  | .bextz d a wid off => opA 14 + encD d + encA a + wid.val * 2 ^ 7 + off.val * 2 + 1
  | .bins d a wid off => opA 15 + encD d + encA a + wid.val * 2 ^ 7 + off.val * 2
  | .fadd f rm sat d a b => opA 16 + encD d + encA a + encB b + encF f 5 + rm.code * 2 ^ 2 + sat.toNat * 2
  | .fsub f rm sat d a b => opA 17 + encD d + encA a + encB b + encF f 5 + rm.code * 2 ^ 2 + sat.toNat * 2
  | .fmul f rm sat d a b => opA 18 + encD d + encA a + encB b + encF f 5 + rm.code * 2 ^ 2 + sat.toNat * 2
  | .fma f rm sat d a b => opA 19 + encD d + encA a + encB b + encF f 5 + rm.code * 2 ^ 2 + sat.toNat * 2
  | .fms f rm sat d a b => opA 20 + encD d + encA a + encB b + encF f 5 + rm.code * 2 ^ 2 + sat.toNat * 2
  | .fnma f rm sat d a b => opA 21 + encD d + encA a + encB b + encF f 5 + rm.code * 2 ^ 2 + sat.toNat * 2
  | .fdiv dbl rm sat d a b la =>
      opA 22 + encD d + encA a + encB b + dbl.toNat * 2 ^ 8 + rm.code * 2 ^ 5 + sat.toNat * 2 ^ 4 + la.val
  | .fsqrt dbl rm sat d a la =>
      opA 23 + encD d + encA a + dbl.toNat * 2 ^ 8 + rm.code * 2 ^ 5 + sat.toNat * 2 ^ 4 + la.val
  | .fmin f d a b => opA 24 + encD d + encA a + encB b + encF f 5
  | .fmax f d a b => opA 25 + encD d + encA a + encB b + encF f 5
  | .fcmp p f d a b => opA 26 + encD d + encA a + encB b + encF f 5 + p.code * 2 ^ 2
  | .fclass f d a => opA 27 + encD d + encA a + encF f 5
  | .fsgn o f d a b => opA 28 + encD d + encA a + encB b + encF f 5 + o.code * 2 ^ 2
  | .fcvt fd fs rm sat d a =>
      opA 29 + encD d + encA a + encF fd 10 + encF fs 6 + rm.code * 2 ^ 3 + sat.toNat * 2 ^ 2
  | .fcvti fd fs rm sat d a =>
      opA 30 + encD d + encA a + encF fd 10 + encF fs 6 + rm.code * 2 ^ 3 + sat.toNat * 2 ^ 2
  | .icvtf fd fs rm sat d a =>
      opA 31 + encD d + encA a + encF fd 10 + encF fs 6 + rm.code * 2 ^ 3 + sat.toNat * 2 ^ 2
  | .fmvi f d imm => opA 32 + encD d + (f.code - 8) * 2 ^ 16 + imm.toNat
  | .cdmac fb bn d a b => opA 33 + encD d + encA a + encB b + encF fb 1 + bn.toNat
  | .cdmacv fb bn d a b => opA 34 + encD d + encA a + encB b + encF fb 1 + bn.toNat
  | .mma fa fb bn d a b => opA 35 + encD d + encA a + encB b + encF fa 5 + encF fb 1 + bn.toNat
  | .zld d a => opA 36 + encD d + encA a
  | .zst a b => opA 37 + encA a + encB b
  | .zclr a b => opA 38 + encA a + encB b
  | .zcvt f rm sat d a b => opA 39 + encD d + encA a + encB b + encF f 5 + rm.code * 2 ^ 2 + sat.toNat * 2
  | .sdcfg a b => opA 40 + encA a + encB b
  | .sdscan a b => opA 41 + encA a + encB b
  | .sdflush a => opA 42 + encA a
  | .vadd f rm sat d a b => encV 48 d.enc a.enc b.enc f.code + rm.code * 2 ^ 5 + sat.toNat * 2 ^ 4 + 0
  | .vsub f rm sat d a b => encV 48 d.enc a.enc b.enc f.code + rm.code * 2 ^ 5 + sat.toNat * 2 ^ 4 + 1
  | .vmul f rm sat d a b => encV 48 d.enc a.enc b.enc f.code + rm.code * 2 ^ 5 + sat.toNat * 2 ^ 4 + 2
  | .vma f rm sat d a b => encV 48 d.enc a.enc b.enc f.code + rm.code * 2 ^ 5 + sat.toNat * 2 ^ 4 + 3
  | .vmin f rm d a b => encV 48 d.enc a.enc b.enc f.code + rm.code * 2 ^ 5 + 4
  | .vmax f rm d a b => encV 48 d.enc a.enc b.enc f.code + rm.code * 2 ^ 5 + 5
  | .vand f d a b => encV 48 d.enc a.enc b.enc f.code + 6
  | .vor f d a b => encV 48 d.enc a.enc b.enc f.code + 7
  | .vxor f d a b => encV 48 d.enc a.enc b.enc f.code + 8
  | .vshl f d a b => encV 48 d.enc a.enc b.enc f.code + 9
  | .vshr f d a b => encV 48 d.enc a.enc b.enc f.code + 10
  | .vcmp p f d a b => encV 49 d.enc a.enc b.enc f.code + p.code
  | .vsel f d a b m => encV 50 d.enc a.enc b.enc f.code + m.inc.toNat * 2 ^ 3 + m.reg.val
  | .vcvt fd fs rm sat d a => encV 51 d.enc a.enc 0 fd.code + rm.code * 2 ^ 5 + sat.toNat * 2 ^ 4 + fs.code
  | .vred o f rm d a => encV 52 d.enc a.enc 0 f.code + rm.code * 2 ^ 5 + o.code
  | .vdot f rm d a b => encV 53 d.enc a.enc b.enc f.code + rm.code * 2 ^ 5
  | .vscan o f rm d a => encV 54 d.enc a.enc 0 f.code + rm.code * 2 ^ 5 + o.code
  | .vperm f d a b => encV 55 d.enc a.enc b.enc f.code
  | .vgath f d a b => encV 56 d.enc (a.val * 2) b.enc f.code
  | .vscat f d a b => encV 57 (d.val * 2) a.enc b.enc f.code
  | .vfill f d a => encV 58 d.enc a.enc 0 f.code
  | .vcopy f d a => encV 59 d.enc a.enc 0 f.code
  | .vclmul f d a b => encV 60 d.enc a.enc b.enc f.code
  | .vhash f d a b => encV 61 d.enc a.enc b.enc f.code
  | .vcmpb d a b => encV 62 d.enc a.enc b.enc 0
  | .vfindb d a b => encV 63 d.enc a.enc b.enc 0
  | .nop => 0
  | .fence c => 1 * 2 ^ 19 + c.code
  | .ifence => 2 * 2 ^ 19
  | .yield n => 3 * 2 ^ 19 + n.toNat
  | .done => 4 * 2 ^ 19
  | .doneNw => 5 * 2 ^ 19
  | .trap n a => 6 * 2 ^ 19 + encA a + n.toNat
  | .rtt => 7 * 2 ^ 19
  | .fold => 8 * 2 ^ 19
  | .swarm n => 9 * 2 ^ 19 + n.code
  | .unswarm => 10 * 2 ^ 19
  | .mfs d n => opC 1 + encD d + n.toNat
  | .mts n a => opC 2 + encA a + n.toNat
  | .pset p a => opC 3 + encA a + p.val
  | .pget d p => opC 4 + encD d + p.val
  | .setvl d a => opC 5 + encD d + encA a
  | .cinv a => opC 6 + encA a
  | .cflush a => opC 7 + encA a
  | .ld w o d a off la =>
      opC 8 + encD d + encA a + encF w 11 + o.toNat * 2 ^ 10 + off.toNat * 2 ^ 4 + la.val
  | .st w o d a off => opC 9 + encD d + encA a + encF w 11 + o.toNat * 2 ^ 10 + off.toNat
  | .ldx w o d a b la => opC 10 + encD d + encA a + encB b + encF w 6 + o.toNat * 2 ^ 5 + la.val
  | .stx w o d a b => opC 11 + encD d + encA a + encB b + encF w 6 + o.toNat * 2 ^ 5
  | .ldfe o d a off la => opC 12 + encD d + encA a + 3 * 2 ^ 11 + o.toNat * 2 ^ 10 + off.toNat * 2 ^ 4 + la.val
  | .ldff o d a off la => opC 13 + encD d + encA a + 3 * 2 ^ 11 + o.toNat * 2 ^ 10 + off.toNat * 2 ^ 4 + la.val
  | .stfe o d a off => opC 14 + encD d + encA a + 3 * 2 ^ 11 + o.toNat * 2 ^ 10 + off.toNat
  | .feq o d a off la => opC 15 + encD d + encA a + 3 * 2 ^ 11 + o.toNat * 2 ^ 10 + off.toNat * 2 ^ 4 + la.val
  | .amo op o d a b la => opC 16 + encD d + encA a + encB b + op.code * 2 ^ 5 + o.toNat * 2 ^ 4 + la.val
  | .amov op o a pa pb =>
      opC 17 + op.code * 2 ^ 20 + o.toNat * 2 ^ 19 + encA a + pa.enc * 2 ^ 10 + pb.enc * 2 ^ 6
  | .amocfg n a => opC 18 + encA a + n.val
  | .xamo op o d a b la => opC 19 + encD d + encA a + encB b + op.code * 2 ^ 5 + o.toNat * 2 ^ 4 + la.val
  | .xld w o d a off la =>
      opC 20 + encD d + encA a + encF w 11 + o.toNat * 2 ^ 10 + off.toNat * 2 ^ 4 + la.val
  | .xst w d a off => opC 21 + encD d + encA a + encF w 11 + off.toNat
  | .xam a => opC 22 + encA a
  | .xflag a b => opC 23 + encA a + encB b
  | .beq a b off => opC 24 + encA a + encB b + encOff off
  | .bne a b off => opC 25 + encA a + encB b + encOff off
  | .blt a b off => opC 26 + encA a + encB b + encOff off
  | .bge a b off => opC 27 + encA a + encB b + encOff off
  | .bltz a off => opC 28 + encA a + encOff off
  | .bgez a off => opC 29 + encA a + encOff off
  | .bcf off => opC 30 + encOff off
  | .bncf off => opC 31 + encOff off
  | .j off => opC 32 + off.toNat
  | .jl d off => opC 33 + encD d + off.toNat
  | .jr a => opC 34 + encA a
  | .jlr d a => opC 35 + encD d + encA a
  | .evsend d a b e => opC 36 + encD d + encA a + encB b + e.val
  | .evpop => opC 37
  | .evcnt d => opC 38 + encD d
  | .mbw n a => opC 39 + encA a + n.val
  | .sendm => opC 40
  | .sendmT => opC 40 + 1
  | .waitm d => opC 41 + encD d
  | .fork a slot => opC 42 + encA a + slot.val
  | .join d a => opC 43 + encD d + encA a
  | .arrive b => opC 44 + b.val
  | .arriveRemote b a => opC 44 + encA a + 8 + b.val
  | .arriveb b wb => opC 45 + encB wb + b.val
  | .arrivebRemote b wb a => opC 45 + encA a + encB wb + 8 + b.val
  | .waitb b => opC 46 + b.val
  | .waitbt b a => opC 47 + encA a + b.val
  | .bcfgSet b a => opC 48 + encA a + b.val
  | .bcfgGet b a => opC 48 + encA a + 8 + b.val
  | .cpass a b => opC 49 + encA a + encB b
  | .cqry d a => opC 49 + encD d + encA a + 1
  | .freeze a => opC 49 + encA a + 2
  | .land r a => opC 49 + encA a + r.code * 2 ^ 3 + 3
  | .publish a => opC 49 + encA a + 4
  | .push d a b bar => opC 50 + encD d + encA a + encB b + encBar bar
  | .pushx d a b bar => opC 51 + encD d + encA a + encB b + encBar bar
  | .sbind w s a b => opC 52 + encA a + encB b + encF w 2 + s.val
  | .sunbind s => opC 53 + s.val
  | .srd d s => opC 54 + encD d + s.val
  | .fact n a => opC 56 + encA a + n.val
  | .fconsA n => opC 57 + n.val
  | .fconsB n => opC 57 + 4 + n.val
  | .fconsM n a => opC 57 + encA a + 8 + n.val
  | .fwrite n a => opC 58 + encA a + n.val
  | .fpre n => opC 59 + n.val
  | .fstat d n => opC 60 + encD d + n.val
  | _ => 0

/-! ### The whole decoder -/

/-- The majors that versions 1 and 2 leave unallocated (R109). -/
def onlyVersion3 (w : Nat) : Bool :=
  let op := fld w 29 24
  if fld w 30 30 = 1 then op == 0x28 || op == 0x29 || op == 0x2A
  else op == 0x13 || (0x38 ≤ op && op ≤ 0x3C)

/-- The la field of a word of format CL, CX, CA, AL or AQ (R109). -/
def Instr.la : Instr → Nat
  | .div _ _ _ _ la | .divz _ _ _ _ la | .rem _ _ _ _ la | .remz _ _ _ _ la | .fdiv _ _ _ _ _ _ la
  | .fsqrt _ _ _ _ _ la | .ld _ _ _ _ _ la | .ldx _ _ _ _ _ la | .ldfe _ _ _ _ la | .ldff _ _ _ _ la
  | .feq _ _ _ _ la | .amo _ _ _ _ _ la | .xamo _ _ _ _ _ la | .xld _ _ _ _ _ la => la.val
  | _ => 0

/-- Sign extension of the low `n` bits of `x` to `m` bits, as a `Nat` below `2 ^ m`. -/
def sextNat (n m x : Nat) : Nat :=
  if x % 2 ^ n < 2 ^ (n - 1) then x % 2 ^ n else x % 2 ^ n + 2 ^ m - 2 ^ n

/-- A version 1 word as the version 3 word with the same offset: 12-bit CB and CJ offsets are sign-extended
into the fields of version 3, and the bits they leave are reserved (R109). -/
def fromVersion1 (w : Nat) : Except Reject Nat :=
  let op := fld w 29 24
  if fld w 30 30 = 0 && 0x18 ≤ op && op ≤ 0x1F then
    if fld w 23 22 = 0 then
      let off := sextNat 12 14 (fld w 21 19 * 2 ^ 9 + fld w 8 0)
      .ok (w - fld w 23 19 * 2 ^ 19 - fld w 8 0 + off / 2 ^ 9 * 2 ^ 19 + off % 2 ^ 9)
    else .error .reserved
  else if fld w 30 30 = 0 && (op = 0x20 || op = 0x21) then
    if fld w 18 12 = 0 then .ok (w - fld w 11 0 + sextNat 12 19 (fld w 11 0)) else .error .reserved
  else .ok w

/-- The word as encoding version 3 reads it, S cleared: what `decodeWord` accepts (R89). -/
def decode3 (w : Nat) : Except Reject Instr :=
  match (if fld w 30 30 = 1 then decodeA w else decodeC w) with
  | .error e => .error e
  | .ok i => if !i.wf then .error .field else if encode i = w then .ok i else .error .reserved

/-- The instruction of a 32-bit word under encoding version `encv` (R89, R109); bit 31, S, is the bundle's. -/
def decodeWord (encv : Nat) (w : Nat) : Except Reject Instr :=
  let w := w % 2 ^ 31
  if encv < 3 && onlyVersion3 w then .error .major
  else if encv < 2 then
    match fromVersion1 w with
    | .error e => .error e
    | .ok w' =>
      match decode3 w' with
      | .error e => .error e
      | .ok i => if i.la = 0 then .ok i else .error .reserved
  else decode3 w

/-- A word from its four bytes, lowest address first (R8, R85). -/
def wordOfBytes (b0 b1 b2 b3 : Byte) : Nat :=
  b0.toNat + b1.toNat * 2 ^ 8 + b2.toNat * 2 ^ 16 + b3.toNat * 2 ^ 24

/-- The decoder over a list of bytes: the instruction and the bytes after it. Fewer than four bytes are no
word. -/
def decodeBytes (encv : Nat) : List Byte → Option (Instr × List Byte)
  | b0 :: b1 :: b2 :: b3 :: rest =>
    match decodeWord encv (wordOfBytes b0 b1 b2 b3) with
    | .ok i => some (i, rest)
    | .error _ => none
  | _ => none

/-- Bytes of a word, lowest address first. -/
def bytesOfWord (w : Nat) : List Byte :=
  [BitVec.ofNat 8 w, BitVec.ofNat 8 (w / 2 ^ 8), BitVec.ofNat 8 (w / 2 ^ 16), BitVec.ofNat 8 (w / 2 ^ 24)]

/-- The instruction of a table row's bits: a 32-bit word under version 3. A happening has no bits. -/
def decodeTableWord (nbits w : Nat) : Option Instr :=
  if nbits = 32 then (decodeBytes 3 (bytesOfWord w)).map (·.1) else none

end Sys2Proof
end

