-- ==== Sys2Proof/Machine/State.lean ====
section
/-! DEFINITION. The state of the machine as plain data: strands, cells, combs, hives, jobs, memory, and the
happenings that are still to come. Every field's docstring names the rule that gives it. -/

namespace Sys2Proof.Machine

/-- The trap causes of R44, in code order from 0x01. -/
inductive Cause where
  | illegalInstruction | illegalBundle | privilege | misaligned | pageFault | access | crook | remoteReadLive
  | landingViolation | penBudget | sendFull | feTimeout | barrierOverrun | watchdog | fpException | frameNotOpen
  | frameLost | frameBank | engineFormat | permissionMask | uncorrectable | remoteOpUnsupported
  | reductionAborted | swarmBroken | publishConflict | orderedAmoAborted | software | streamUnbound
  | determinismCheck
  deriving DecidableEq, Repr

/-- What a trap writes beside TRAPPC (R43, R44). -/
structure Trap where
  cause : Cause
  val : Word
  aux : Word
  /-- ENG: 0 core, 1 VU, 2 SCE, 3 forager, 4 SDU -/
  eng : Nat := 0
  count : Nat := 0
  member : Nat := 0
  deriving DecidableEq, Repr

/-! ### Strands -/

/-- How a long-latency instruction's result comes about (R94). -/
inductive LongKind where
  /-- a division or square root: value and flags of the captured operands (R117, R123) -/
  | value (v : Word) (flags : BitVec 5)
  /-- `LD`, `LDX` and `XLD` of a page or of memory: width and address (R127, R246) -/
  | load (w : Fmt) (addr : Nat)
  /-- `XLD` of a result record at a local address (R246) -/
  | record (addr : Nat)
  /-- `XLD` of a page in another hive: width and virtual address (R246) -/
  | remote (w : Fmt) (addr : Nat)
  /-- `LDFE` (0), `LDFF` (1), `FEQ` (2) of a scratchpad word (R234) -/
  | fe (op : Fin 3) (addr : Nat)
  /-- `AMO`: operation, address, operand, compare value (R231) -/
  | amo (op : Aop) (addr : Nat) (x cmp : Word)
  /-- `XAMO`: it completes when its pen has accepted the operation (R244) -/
  | xamo (slot seq : Nat)
  deriving DecidableEq, Repr

/-- A result that has come back before its window has closed (R94, R96). -/
inductive LongResult where
  | value (v : Word) (flags : BitVec 5) (cf : Option Bool)
  | trap (t : Trap)
  deriving DecidableEq, Repr

/-- A long-latency instruction that is outstanding (R94-R97). -/
structure LongOp where
  seq : Nat
  pc : Nat
  instr : Instr
  /-- destination register; 0 when it has none -/
  dest : WReg
  /-- CF is a destination too -/
  destCf : Bool
  /-- window instructions still to issue -/
  left : Nat
  /-- window instructions that have retired -/
  slot : Nat
  /-- words of the whole window -/
  window : Nat
  /-- a window instruction has written the destination, so the late write is dropped -/
  dropD : Bool
  dropCf : Bool
  /-- `.a`: later accesses wait until it is performed (R131) -/
  acq : Bool
  /-- `.o`: later accesses wait until it is performed (R231) -/
  ord : Bool
  kind : LongKind
  /-- refusals by a full wait list, and the cycle of the last (R235) -/
  refusals : Nat
  refusedAt : Nat
  /-- its request waits at the bank (R235) -/
  atBank : Bool
  result : Option LongResult
  deriving DecidableEq, Repr

/-- The shadow of the strand's outstanding engine instruction (R153, R179). -/
structure Shadow where
  /-- the queue entry -/
  entry : Nat
  pc : Nat
  instr : Instr
  /-- shadow instructions that have retired -/
  slot : Nat
  /-- `p0`-`p7` when the instruction issued (R154) -/
  ptrs : Vector Word 8
  deriving DecidableEq, Repr

/-- A trap that is held until what precedes it has completed (R96, R153). -/
structure Held where
  trap : Trap
  pc : Nat
  deriving DecidableEq, Repr

/-- A resumption from the trap record (R96, R143, R155): the word at TRAPPC alone, then `thenPc`. -/
structure Replay where
  thenPc : Nat
  /-- LAW and SLOT of the record -/
  law : Bool
  slot : Nat
  deriving DecidableEq, Repr

/-- A member's part of a swarm (R171-R176). -/
structure SwarmInfo where
  leaderCell : CellId
  leaderStrand : StrandId
  /-- cells and strands of the members, leader first; followers not yet claimed are missing -/
  members : List (CellId × StrandId)
  size : SwarmSize
  deriving DecidableEq, Repr

/-- A firing (R54, R310): what it keeps from its descriptor and its inputs. -/
structure Firing where
  /-- number of the firing within its cell -/
  fid : Nat
  slot : Nat
  task : Bool
  encv : Nat
  /-- ENTRY, FEN and PRIO, read at the choice (R50) -/
  entry : Nat
  fen : Nat
  prio : Nat
  trapEnt : Nat
  rate : Nat
  /-- DEFDL (R35, R50) -/
  defdl : Nat
  /-- FORKMASK (R50, R227) -/
  forkmask : Nat
  /-- QBASE and QLOG: the ring that its reserved inputs lie in (R50, R306) -/
  qbase : Nat
  qlog : Nat
  /-- ring position of its first reserved input (R307) -/
  head : Nat
  /-- reserved inputs it has taken (R222, R307) -/
  taken : Nat
  /-- `FORK`s made (R227) -/
  spawned : Nat
  /-- children joined (R228) -/
  joined : Nat
  /-- pool workspace, which is also its join buffer (R314, R319) -/
  pool : Nat
  /-- it runs the handler entered by `WATCHDOG` (R42) -/
  wdog : Bool
  /-- cycle in which it last took a strand (R316) -/
  tookAt : Nat
  deriving DecidableEq, Repr

/-- What a strand does (R310, R311). -/
inductive Run where
  /-- FREE -/
  | free
  /-- STARTING or RESUMING: chosen, its workspace being bound (R315) -/
  | starting (resume : Bool)
  /-- ISSUING or HANDLER -/
  | issuing
  /-- PARKED at the instruction (R218) -/
  | parked (i : Instr)
  /-- FOLDED (R249) -/
  | folded
  /-- awaiting the drover's verb after a fault message of this kind (R42, R367) -/
  | awaiting (kind : Nat) (pending : Option Trap)
  /-- the drover has ended its firing, which waits as `DONE` waits (R368) -/
  | ending
  /-- LEAVING (R311) -/
  | leaving
  /-- CLAIMED by a swarm (R171) -/
  | claimed
  deriving DecidableEq, Repr

/-- A strand (R14). -/
structure Strand where
  run : Run
  firing : Option Firing
  /-- the program counter (R14) -/
  pc : Nat
  /-- WP (R27) -/
  wp : Nat
  /-- the register-file copy of the workspace, in the layout of R15 -/
  ws : Vector Word 64
  /-- the fetch buffer: bundle address and bundle (R140) -/
  buf : List (Nat × Word)
  longs : List LongOp
  shadow : Option Shadow
  held : Option Held
  replay : Option Replay
  swarm : Option SwarmInfo
  /-- cycle in which the strand parked, or the limit of a `WAITBT` counts from (R239) -/
  since : Nat
  /-- what a parked strand remembers: a barrier's completions so far -/
  note : Nat
  /-- next element of an `AMOV` that has applied some (R233, R252), and whether the strand is to apply only one -/
  amov : Option Nat
  oneElement : Bool
  /-- LEFT has run out while the strand is parked at a word that waits for a request at its bank (R218) -/
  stuck : Bool
  deriving DecidableEq, Repr

/-! ### Cells -/

/-- A barrier unit (R48, R236). -/
structure Barrier where
  nxt : Nat
  cur : Nat
  phase : Bool
  en : Bool
  target : Nat
  anxt : BitVec 16
  acur : BitVec 16
  mask : BitVec 16
  pend : Word
  /-- completions since reset: the moments that R239 speaks of -/
  completions : Nat
  deriving DecidableEq, Repr

/-- An entry of an engine queue (R151, R177): the operands as read at issue. -/
structure EngEntry where
  id : Nat
  strand : StrandId
  fid : Nat
  /-- actor slot of the firing, the cell of its actor, and FENABLE (R80, R214, R217) -/
  slot : Nat
  home : CellId
  fen : BitVec 5
  pc : Nat
  instr : Instr
  /-- values of the registers it names, in the order d, a, b -/
  regs : List Word
  /-- pointer words it names, in the order D, A, B, M -/
  ptrs : List Word
  vl : Nat
  /-- first element (R155, R179) -/
  st : Nat
  started : Bool
  /-- its place among the cell's Z accesses (R181) -/
  zseq : Option Nat
  /-- the SDU: elements scanned so far, the flags they raised, whether one was clamped (R215) -/
  done : Nat
  flags : BitVec 5
  clamped : Bool
  /-- the SDU waits for EV allowance (R217, R339) -/
  waits : Bool
  /-- STATUS that the firing had at its `DONE.nw` (R367) -/
  stat : Word
  /-- the VU: bytes that elements which count as done have still to write, by local address (R151) -/
  late : Option (List (Nat × Byte))
  deriving DecidableEq, Repr

/-- The states of a frame port, in code order (R193). -/
inductive PortState where
  | closed | opening | open | lost
  deriving DecidableEq, Repr

/-- A frame port (R193, R195, R200). -/
structure Port where
  state : PortState
  bank : Nat
  row : Nat
  guard : Nat
  dirty : Bool
  /-- the row as `FWRITE` left it; empty when it has not written since the activate (R197) -/
  data : List Byte
  /-- cycle of the last activate -/
  actAt : Nat
  deriving DecidableEq, Repr

/-- A stream context (R189, R326). -/
structure Stream where
  sid : Nat
  /-- firing and stream register it serves -/
  fid : Nat
  /-- next address to fetch, element width code, elements not fetched yet -/
  next : Nat
  ew : Nat
  left : Nat
  /-- elements that have arrived, oldest first, each with its address, or the fault it takes -/
  buffer : List (Nat × Except Trap Word)
  /-- the aligned 64-byte block that is being read, or was read last (R324, R339) -/
  block : Option Nat
  deriving DecidableEq, Repr

/-- An SDU channel: its copy of the 136 doublewords of the descriptor (R213, R214). -/
structure Channel where
  desc : List Word
  addr : Nat
  slot : Nat
  /-- cell of the configuring actor, whose production edges the channel sends on (R214, R215) -/
  home : CellId
  deriving DecidableEq, Repr

/-- The power state of a TCM bank (R271-R273). -/
inductive BankState where
  | on | drowsy | waking | gated | zeroing
  deriving DecidableEq, Repr

/-- A TCM bank (R270-R273). -/
structure Bank where
  state : BankState
  /-- last cycle in which it served an access -/
  lastUse : Nat
  deriving DecidableEq, Repr

/-- What the cell keeps of an actor slot beside its descriptor (R221, R242, R301, R314). -/
structure SlotDyn where
  slot : Nat
  edges : List EdgeRoute
  /-- SEQNO of each edge (R221) -/
  seqno : List (Nat × Nat)
  /-- sequence of the next stepped operation (R242) -/
  stepSeq : Nat
  forkTo : List (Nat × List CellId)
  /-- sources recorded for messages to the slot, one for each `SEQ` edge into it (R250) -/
  seqFrom : List (CellId × Nat)
  stateSize : Nat
  /-- cycle in which the actor became a candidate (R314) -/
  readyAt : Nat
  /-- ring positions that firings of a task actor have reserved, and those whose firing has ended while an
  earlier one runs on (R307) -/
  claimed : List Nat
  finished : List Nat
  /-- what the 32-byte ring entries do not hold: the meta data of each waiting input, by position -/
  waiting : List (Nat × Input × Nat)
  deriving DecidableEq, Repr

/-- A firing switched out at `YIELD` (R229, R310). -/
structure Switched where
  firing : Firing
  wp : Nat
  /-- cycle of the switch-out (R314) -/
  at_ : Nat
  deriving DecidableEq, Repr

/-- What waits for an acknowledgement and counts in PSTORE (R38, R132, R141, R243). -/
inductive StoreKind where
  /-- `size` bytes of `val` for virtual or window address `addr` -/
  | store (addr size : Nat) (val : Word)
  /-- `CINV` (`inv`) or `CFLUSH` of the line that holds `addr` (R141) -/
  | slice (addr : Nat) (inv : Bool)
  /-- an `XST` or `XFLAG` that its pen has not accepted (R243) -/
  | stepped (slot seq : Nat)
  deriving DecidableEq, Repr

/-- A pending store (R132): the firing it belongs to and its number in issue order. -/
structure PStore where
  seq : Nat
  strand : StrandId
  fid : Nat
  kind : StoreKind
  deriving DecidableEq, Repr

/-- A join buffer (R319): entries by spawn index, with the return when it has come. -/
structure JoinBuf where
  gen : Nat
  entries : List (Nat × Option TaskReturn)
  deriving DecidableEq, Repr

/-- A swarm claim that waits for a free strand (R171). -/
structure Claim where
  leaderCell : CellId
  leaderStrand : StrandId
  index : Nat
  deriving DecidableEq, Repr

/-- A cell (R13). -/
structure Cell where
  /-- the job that is placed on the cell (R28, R305) -/
  job : Option Nat
  strands : Vector Strand 4
  slots : List (Nat × SlotDyn)
  bars : Vector Barrier 8
  /-- the mailbox: 32 entries (R49) -/
  mailbox : List Word
  /-- ALLOW by network (R36) -/
  allowEv : Nat
  allowRq : Nat
  allowSv : Nat
  /-- PMASK (R37) -/
  pmask : Word
  /-- the engine queues (R151, R177) -/
  vuQ : List EngEntry
  sceQ : List EngEntry
  fgQ : List EngEntry
  sduQ : List EngEntry
  /-- places in the order of Z accesses: next to give, and those not retired (R181) -/
  zNext : Nat
  ports : Vector Port 4
  /-- the operand FIFOs (R202) -/
  fifoA : List Byte
  fifoB : List Byte
  streams : List Stream
  chans : List (Nat × Channel)
  /-- TCMPWR, SCHEDCFG, ENGCTR (R272, R313, R339) -/
  tcmpwr : Word
  schedcfg : Word
  engctr : Vector Word 8
  banks : Vector Bank 4
  /-- RRPTR and the issue pointer (R312, R314) -/
  rrptr : Nat
  issuePtr : Nat
  /-- pool workspaces in use (R314) -/
  poolUsed : List Nat
  switched : List Switched
  stores : List PStore
  joins : List (Nat × JoinBuf)
  /-- the forager's proxy list (R325): copy numbers -/
  proxies : List Nat
  claims : List Claim
  /-- pen allotment left in this step and its full size (R242) -/
  penLeft : Nat
  penAllot : Nat
  /-- numbers for entries, stores, firings and results -/
  nextId : Nat
  /-- the cell takes no part any more: it is fenced (R371, R372) -/
  fenced : Bool
  deriving DecidableEq, Repr

/-! ### Combs -/

/-- A request parked at a scratchpad bank (R235), in arrival order over the comb. -/
structure Waiter where
  cell : CellId
  strand : StrandId
  /-- number of the long-latency instruction or of the pending store -/
  seq : Nat
  /-- window offset of the word -/
  off : Nat
  deriving DecidableEq, Repr

/-- What waits in a comb spill queue (R49, R306, R346): an input or a copy completion of a cell. -/
inductive Spilled where
  | input (i : Input)
  | mail (g : CellId) (entry : Word)
  deriving DecidableEq, Repr

/-- The stages at which an input or completion waits (R306, R347, R351). -/
inductive Stage where
  /-- the comb spill queue -/
  | spill
  /-- a hold of the event slice -/
  | hold
  /-- the comb's reply overflow -/
  | overflow
  /-- not absorbed, in the lane of its cell -/
  | lane
  /-- not absorbed, in the service network's buffer -/
  | service
  deriving DecidableEq, Repr

/-- What waits, with its stage (R346-R348). -/
structure Waiting where
  stage : Stage
  item : Spilled
  deriving DecidableEq, Repr

/-- A frame bank's timing and row state (R192-R196, R287). -/
structure FrameBank where
  /-- cell to which the planner granted it -/
  grant : Option CellId
  /-- the job it was last granted to (R305) -/
  lastJob : Option Nat
  lastAct : Option Nat
  lastClose : Option Nat
  /-- end of the refresh in progress -/
  refreshEnd : Option Nat
  /-- the next refresh falls due (R287) -/
  refreshDue : Nat
  /-- next row to scrub (R287) -/
  scrubRow : Nat
  deriving DecidableEq, Repr

/-- A comb (R13). -/
structure Comb where
  /-- the update units' function slots (R232) -/
  fns : Vector Word 8
  /-- wait lists of the 64 banks (R235) -/
  waiters : List Waiter
  /-- page-state cache: the pages whose entries it holds, by job and first address (R284) -/
  cached : List (Nat × Nat)
  /-- frame banks that are not at their reset state -/
  banks : List (Nat × FrameBank)
  /-- cycles of the comb's latest activates, newest first (R194) -/
  activates : List Nat
  /-- rows of its super that slices have opened, by row number, with the cycle (R286) -/
  rows : List (Nat × Nat)
  deriving DecidableEq, Repr

/-! ### Copies -/

/-- Where a copy is (R184-R186, R325). -/
inductive CopyStage where
  /-- forwarded, not yet in the source cell's proxy list -/
  | forwarded
  /-- blocks are being read and written -/
  | moving
  /-- every byte is written; the completion is to be performed -/
  | written
  /-- the completion is performed; the acknowledgement returns to the issuer -/
  | completed
  deriving DecidableEq, Repr

/-- Where a copy writes (R183, R188). -/
inductive CopyDest where
  | tcm (g : CellId) (off : Nat)
  | fifoA
  | fifoB
  deriving DecidableEq, Repr

/-- A `PUSH` or `PUSHX` in progress (R182-R188, R325-R327). -/
structure Copy where
  id : Nat
  issuer : CellId
  /-- the queue entry that it occupies -/
  entry : Nat
  strand : StrandId
  /-- cell whose forager reads the source -/
  reader : CellId
  proxied : Bool
  /-- local offset in the reader's TCM, or a virtual address -/
  src : Nat
  dest : CopyDest
  len : Nat
  /-- copy word (R182) -/
  word : Word
  bar : Option (Fin 8)
  /-- bytes written so far -/
  pos : Nat
  /-- status of the completion: `ACCESS` when no byte is written (R184) -/
  refused : Bool
  stage : CopyStage
  deriving DecidableEq, Repr

/-! ### Jobs -/

/-- The phases of a step (R263, R264, R266, R358). -/
inductive Phase where
  | open | apply | applied | install | installed
  deriving DecidableEq, Repr

/-- A partial of a reduction (R360): where it is and what it covers. -/
structure Partial where
  hive : Nat
  target : Nat
  value : Word
  /-- lowest source hive that it covers -/
  low : Nat
  deriving DecidableEq, Repr

/-- The figures of the fold status block (R267) and what decides the open. -/
structure FoldFigures where
  failed : Nat
  conflicts : Nat
  caddr : Nat
  faddr : Nat
  applied : Nat
  penUsed : Nat
  redAborted : Bool
  deriving DecidableEq, Repr

/-- The result of an `XAMO` that the install writes (R244, R245, R266). -/
structure XamoResult where
  cell : CellId
  record : Nat
  first : Word
  status : Word
  deriving DecidableEq, Repr

/-- A job, or one replica of it (R13, R56, R263-R268, R379). -/
structure Job where
  /-- JOB of JOBCTL (R388) -/
  number : Nat
  asid : Nat
  hives : List Nat
  cells : List CellId
  /-- JOBRCB of the launch: what makes two launches launches of one job (R192, R298, R305) -/
  rcb : Nat
  /-- what the planner placed in each cell (R305, R373) -/
  plans : List CellPlan
  /-- pen bytes reserved in each hive (R295) -/
  penb : Nat
  /-- STEP (R28) -/
  step : Nat
  dchk : Bool
  phase : Phase
  /-- hives that have finished the apply or the install of the present fold -/
  doneHives : List Nat
  /-- sent and absorbed totals of the last gather, when every cell was quiet then (R357) -/
  gather : Option (Nat × Nat)
  pages : List Page
  /-- pen entries: hive whose pen holds it (R242, R295) -/
  pen : List (Nat × SteppedOp)
  /-- reduction entries: issuing hive (R359) -/
  redEntries : List (Nat × SteppedOp)
  partials : List Partial
  /-- cells with a fault message of kind 0 or 1, or fenced, in this step (R361) -/
  faultedCells : List CellId
  /-- cell and slot of each accepted reduction entry of the step (R361) -/
  redSlots : List (CellId × Nat)
  figures : FoldFigures
  xamoResults : List XamoResult
  /-- `XAM` deliveries of the apply, per hive in sort order (R264) -/
  xamList : List (Nat × SteppedOp)
  /-- pen entries that cannot be corrected, with their hive (R294) -/
  badPen : List (Nat × SteppedOp)
  /-- undo log: address, value and mark before the apply (R381, R382) -/
  undo : List (Nat × Word × Bool)
  /-- it halted or was fenced in this step: it counts as differing at the fold (R381) -/
  differed : Bool
  /-- replica group, 0 for a job without replicas, and place in it (R379) -/
  group : Nat
  replica : Nat
  /-- cell and hive digests of the fold: hive position, LCID or 4096 for the hive, digest -/
  digests : List (Nat × Nat × Nat)
  /-- roots whose digest has not come within its time -/
  lateRoots : List Nat
  /-- cycle in which the root had its own digest (R381) -/
  appliedAt : Nat
  /-- cycle since which the seal has stalled (R378) -/
  stallSince : Option Nat
  /-- the drovers have stopped it (R370) -/
  stopped : Bool
  /-- halt cause (R370, R388) -/
  halted : Option Nat
  /-- it has left the machine: ended, or fenced as a replica -/
  ended : Bool
  deriving DecidableEq, Repr

/-! ### Hives -/

/-- A sector of a slice line: 32 bytes held for the controllers (R278, R280, R281). -/
structure Sector where
  /-- location in physical memory, in units of 32 bytes -/
  loc : Nat
  /-- tag: address-space id and virtual address of the sector, in units of 32 bytes -/
  asid : Nat
  va : Nat
  dirty : Bool
  data : List Byte
  /-- marks of its four words (R293) -/
  marks : List Bool
  deriving DecidableEq, Repr

/-- A host ring descriptor that the bridge holds, or a transfer in progress (R363, R364). -/
structure HostJob where
  /-- 0 transfer in, 1 transfer out, 2 message -/
  kind : Nat
  hive : Nat
  d : List Word
  data : List Byte
  status : Nat
  deriving DecidableEq, Repr

/-- A completion record of the host's completion ring (R364), with the bytes of a transfer out. -/
structure HostRecord where
  tag : Word
  kind : Nat
  status : Nat
  fstep : Word
  fbits : Word
  data : List Byte
  deriving DecidableEq, Repr

/-- What a debugger access or a service write reports (R16, R271, R272, R313, R368): a service or window address, a
value, and 0 done, 1 `GATED`, 2 dropped, 3 a granule that a scrub found uncorrectable (R293). -/
structure Report where
  about : Nat
  value : Word
  status : Nat
  deriving DecidableEq, Repr

/-- A hive: its slices, I/O dies, drovers and management registers (R1, R278-R296, R343-R389). -/
structure Hive where
  /-- BOOTST (R388) -/
  stage : Nat
  code : Nat
  bootSlot : Nat
  svn : Nat
  /-- the running image (R385, R386) -/
  image : List Byte
  /-- its repair map, and what its repair and link maps say -/
  repair : List Byte
  maps : BootMaps
  /-- IDENT.REV (R388) -/
  rev : Nat
  /-- clock step, its neighbours in R387 and R384 -/
  clock : Nat
  lowPeriods : Nat
  stallUntil : Nat
  cap : Nat
  avgPower : Nat
  temp : Nat
  hot : Bool
  alarm : Bool
  powerDownAt : Option Nat
  /-- cycles of the last temperature sample and of the last end of a power period (R384, R387) -/
  sampledAt : Nat
  periodAt : Nat
  /-- T0 (R287) -/
  t0 : Nat
  /-- home-die table HD (R279) -/
  homeDie : List Nat
  absentCells : List Nat
  absentCombs : List Nat
  absentDies : List Nat
  bridgeColumn : Nat
  /-- spares still in brood: combs' cell spares used, dies' comb and slice spares used, bank spares used,
  link spares used (R373) -/
  sparesUsed : List (Faulty × Nat)
  fencedUnits : List Faulty
  /-- slices and controllers fenced for an error in their tags, whose data is not delivered (R292) -/
  mutes : List Faulty
  /-- ports whose links the drovers' route table takes as fenced (R354) -/
  offLinks : List Nat
  /-- hung cells that come back at the next launch (R376) -/
  returning : List Faulty
  /-- the hive is lost and fenced (R369) -/
  lost : Bool
  /-- the Apwauth links have trained; the bridge's host endpoint has (R362, R383, R385) -/
  linked : Bool
  endpoint : Bool
  /-- logical-to-physical tables: the units that a spare stands in for, with its number (R288, R373, R385) -/
  unitMap : List (Faulty × Nat)
  /-- units to be retired when the next launch begins (R376, R377) -/
  retiring : List Faulty
  /-- cells whose state was lost, by job and logical cell id, as the host has been told (R373) -/
  lostCells : List (Nat × Nat)
  /-- slices: sectors and remap filters (R278-R281) -/
  sectors : List Sector
  remap : List (Nat × Nat × Nat)
  /-- spill queues, slice holds, reply overflows, slice lanes and service buffers of the hive, in arrival order
  (R306, R346-R351) -/
  waiting : List Waiting
  /-- the sorted store (R352) -/
  sorted : List Input
  /-- inputs sent and absorbed by the cells of the hive, by cell (R357) -/
  sent : List (CellId × Nat)
  absorbed : List (CellId × Nat)
  /-- fault messages, eight doublewords each, newest first (R367) -/
  faults : List (List Word)
  reports : List Report
  /-- events counted against FLTPOL, by class and unit (R376): cycles -/
  events : List (Nat × Faulty × Nat)
  /-- FLTPOL entries of the classes 0-3 (R376) -/
  fltpol : List Word
  retlog : List (List Word)
  missedProbes : List (CellId × Nat)
  /-- host ring and completion ring (R363, R364, R388) -/
  hrtail : Word
  /-- next descriptor of the host ring to be read -/
  hrhead : Nat
  hrbase : Word
  hrsize : Word
  crbase : Word
  crsize : Word
  crhead : Word
  hostJobs : List HostJob
  records : List HostRecord
  /-- MSI-X vectors raised, newest first -/
  msix : List Nat
  /-- LAUNCH, JOBCTL, HALTST, HALTSTEP, APPLIED, REPLREP, ATTNONCE, ATTREP (R388) -/
  launch : List Word
  jobctlJob : Nat
  jobctlStatus : Nat
  /-- the verb that waits for its answer -/
  jobctlVerb : Nat
  /-- what the host's last read of BAR0 returned (R388) -/
  barData : Word
  haltst : Word
  haltstep : Word
  appliedMask : Word
  replrep : List Word
  attnonce : List Byte
  attrep : List Byte
  deriving DecidableEq, Repr

/-! ### The whole machine -/

/-- Which agent moves next (log entry 4). -/
inductive Choice where
  /-- the strand issues its next word -/
  | issue (g : CellId) (k : StrandId)
  /-- the n-th pending happening comes about -/
  | happen (n : Nat)
  /-- a happening that nothing in the machine sets going comes about: the host, a drover, the environment -/
  | outside (i : Instr)
  /-- pending barrier arrivals and copy completions come about in one cycle: each number names one of those that the ones
  before it have left (R328) -/
  | together (l : List Nat)
  /-- cycles pass -/
  | pass (n : Nat)
  /-- the strand reads its next bundle ahead; it reads `n` bundles ahead at an issue, and issues (R140) -/
  | prefetch (g : CellId) (k : StrandId)
  | ahead (g : CellId) (k : StrandId) (n : Nat)
  /-- the VU reads ahead of what it has still to write: the rest of its instruction, then an element of the next (R151) -/
  | vuRead (g : CellId)
  /-- a started engine instruction performs one element or 8-byte word (R148, R252) -/
  | work (g : CellId) (e : Eng)
  /-- a copy, or a stream, moves one 8-byte word (R252) -/
  | word (copy : Nat)
  | element (g : CellId) (sid : Nat)
  /-- the strand's `AMOV` applies one element (R233, R252) -/
  | amov (g : CellId) (k : StrandId)
  /-- a drover reads a service register of a hive's cells, or writes doublewords from one on (R389) -/
  | serviceRead (hive addr : Nat)
  | serviceWrite (hive addr : Nat) (l : List Word)
  /-- the drovers write their memory (R57), change a page entry of a stopped job (R284) or a policy entry (R376) -/
  | droverWrite (hive addr : Nat) (bytes : List Byte)
  | entry (job : Nat) (page : Page)
  | policy (hive cls : Nat) (v : Word)
  /-- a memory meets an error that it corrects, or one that it cannot correct in the word of a physical address; a slice or
  a controller meets one in its tags (R292, R375) -/
  | memoryError (u : Faulty) (word : Option Nat)
  | tagError (u : Faulty)
  /-- an entry of a hive's pen becomes uncorrectable (R294) -/
  | penError (job hive n : Nat)
  /-- the PERST# of one module (R383) -/
  | perst (hive : Nat)
  /-- the host reads or writes BAR0 of a bridge (R362, R388) -/
  | barRead (bridge addr : Nat)
  | barWrite (bridge addr : Nat) (v : Word)
  deriving DecidableEq, Repr

/-- The state of the machine. -/
structure State where
  /-- active combs of a die: 16 on the Merog 4096, 14 on the Merog 3584 (R1) -/
  combsPerDie : Nat
  /-- cycles since the machine was switched on -/
  now : Nat
  /-- cells, combs, hives and jobs that are not at their reset state, by number -/
  cells : List (Nat × Cell)
  combs : List (Nat × Comb)
  hives : List (Nat × Hive)
  jobs : List (Nat × Job)
  copies : List Copy
  /-- bytes of every memory by physical address (`Ops.lean`), in canonical form -/
  mem : List Host.Cell
  /-- shadow copies of shadowed pages: bytes written since the last `PUBLISH` (R261) -/
  shadow : List Host.Cell
  /-- words of shadow copies that a whole 8-byte write has replaced since the last `PUBLISH`, by key / 8: no mark of the
  published copy stands in them (R261, R292) -/
  shadowGood : List Nat
  /-- the drovers' memory, with the run tree and the actor images (R57, R108): bytes by hive × 2^48 + drover address, in
  canonical form -/
  drover : List Host.Cell
  /-- bytes of the flashes that have been written since the factory, by hive × 2^28 + offset (R383, R385) -/
  flash : List (Nat × Byte)
  /-- words that hold an uncorrectable error, by address / 8 (R292) -/
  marks : List Nat
  /-- scratchpad words with F = 1, by address / 8 (R234) -/
  full : List Nat
  /-- accumulators with ZOV = 1, by address / 8 (R47) -/
  zov : List Nat
  /-- happenings that have been set going, in that order (log entry 5) -/
  pending : List Instr
  /-- of the allowance returns among them, in that order: the cell that sends it, the cell that gets it, the network (R342,
  R349) -/
  returns : List (CellId × CellId × Net)
  oracle : List Choice
  /-- the strand that moves -/
  curCell : CellId
  curStrand : StrandId
  /-- number for copies and jobs -/
  nextId : Nat
  /-- the model's own counter of free values used (log entry 6) -/
  free : Nat
  deriving DecidableEq, Repr

/-- Why the machine stops with a fault. -/
inductive Fault where
  /-- raised by `step` when the schedule names a pending happening that is not there; no hardware does so (safe) -/
  | badSchedule
  deriving DecidableEq, Repr

/-- Why an instruction or happening has no meaning. -/
inductive Refusal where
  /-- raised by `exec` for a row whose meaning is not written yet (safe) -/
  | notModelled (mnemonic : String)
  /-- raised by `step` when the oracle's outside choice is an instruction word and no happening (safe) -/
  | notHappening
  deriving DecidableEq, Repr

/-! ### Reset -/

def Strand.reset : Strand where
  run := .free
  firing := none
  pc := 0
  wp := 0
  ws := Vector.replicate 64 0
  buf := []
  longs := []
  shadow := none
  held := none
  replay := none
  swarm := none
  since := 0
  note := 0
  amov := none
  oneElement := false
  stuck := false

/-- A barrier unit at reset (R48, R236). -/
def Barrier.reset : Barrier := ⟨0, 0, false, false, 0, 0, 0, 0, 0, 0⟩

/-- A frame port at cell reset (R193). Its AGE counts from cycle 0 (DESIGN CHOICE, log entry 7). -/
def Port.reset : Port := ⟨.closed, 0, 0, 0, false, [], 0⟩

/-- TCMPWR at reset: IDLE = 4,096, every mode 0 (R272). -/
def tcmpwrReset : Word := 0x10000000
/-- SCHEDCFG at reset: AGEP 12, QUANTL 12, NWS 4 (R313). -/
def schedcfgReset : Word := 0xCC0004

/-- A cell at cell reset. -/
def Cell.reset : Cell where
  job := none
  strands := Vector.replicate 4 Strand.reset
  slots := []
  bars := Vector.replicate 8 Barrier.reset
  mailbox := []
  allowEv := 0
  allowRq := 0
  allowSv := 0
  pmask := 0
  vuQ := []
  sceQ := []
  fgQ := []
  sduQ := []
  zNext := 0
  ports := Vector.replicate 4 Port.reset
  fifoA := []
  fifoB := []
  streams := []
  chans := []
  tcmpwr := tcmpwrReset
  schedcfg := schedcfgReset
  engctr := Vector.replicate 8 0
  banks := Vector.replicate 4 ⟨.on, 0⟩
  rrptr := 0
  issuePtr := 0
  poolUsed := []
  switched := []
  stores := []
  joins := []
  proxies := []
  claims := []
  penLeft := 0
  penAllot := 0
  nextId := 0
  fenced := false

/-- A comb at comb reset (R232, R277). -/
def Comb.reset : Comb := ⟨Vector.replicate 8 0, [], [], [], [], []⟩

/-- A frame bank at reset; bank b's first refresh falls due at T0 + 45b (R287). -/
def FrameBank.reset (t0 b : Nat) : FrameBank := ⟨none, none, none, none, none, t0 + 45 * b, 0⟩

/-- The FLTPOL entries of classes 0-3 at their defaults: WIN, LIMIT, EN = 1 (R376). -/
def fltpolReset : List Word :=
  [BitVec.ofNat 64 (24 * 2 ^ 40 + 8 * 2 ^ 32 + 1), BitVec.ofNat 64 (30 * 2 ^ 40 + 2 * 2 ^ 32 + 1),
   BitVec.ofNat 64 (20 * 2 ^ 40 + 64 * 2 ^ 32 + 1), BitVec.ofNat 64 (32 * 2 ^ 40 + 2 * 2 ^ 32 + 1)]

/-- A hive before power-on: BOOTST.STAGE 0, every management register at its reset value (R388). R388 gives none for HRTAIL,
HRBASE, HRSIZE, CRBASE, CRSIZE, CRHEAD, LAUNCH, HALTST, HALTSTEP, APPLIED, REPLREP, ATTNONCE, ATTREP and the fields of CLKST
that are measured; they are 0 here (DESIGN CHOICE, log entry 7). -/
def Hive.reset : Hive where
  stage := 0
  code := 0
  bootSlot := 0
  svn := 0
  image := []
  repair := []
  maps := ⟨false, [], [], [], [], 0⟩
  rev := 2
  clock := 0
  lowPeriods := 0
  stallUntil := 0
  cap := 1500
  avgPower := 0
  temp := 0
  hot := false
  alarm := false
  powerDownAt := none
  sampledAt := 0
  periodAt := 0
  t0 := 0
  homeDie := [0, 1, 2, 3, 4, 5, 6, 7, 8, 9, 10, 11, 12, 13, 14, 15]
  absentCells := []
  absentCombs := []
  absentDies := []
  bridgeColumn := 0
  sparesUsed := []
  fencedUnits := []
  mutes := []
  offLinks := []
  returning := []
  lost := false
  linked := false
  endpoint := false
  unitMap := []
  retiring := []
  lostCells := []
  sectors := []
  remap := []
  waiting := []
  sorted := []
  sent := []
  absorbed := []
  faults := []
  reports := []
  events := []
  fltpol := fltpolReset
  retlog := []
  missedProbes := []
  hrtail := 0
  hrhead := 0
  hrbase := 0
  hrsize := 0
  crbase := 0
  crsize := 0
  crhead := 0
  hostJobs := []
  records := []
  msix := []
  launch := [0, 0, 0, 0]
  jobctlJob := 0
  jobctlStatus := 0
  jobctlVerb := 0
  barData := 0
  haltst := 0
  haltstep := 0
  appliedMask := 0
  replrep := [0, 0, 0, 0, 0]
  attnonce := []
  attrep := []

/-- The machine right after reset: a Merog 4096 whose hives are off, with nothing placed, memory that lists
nothing and every register at the value its reset gives (log entries 1 and 2). -/
def State.reset : State where
  combsPerDie := 16
  now := 0
  cells := []
  combs := []
  hives := []
  jobs := []
  copies := []
  mem := []
  shadow := []
  shadowGood := []
  drover := []
  flash := []
  marks := []
  full := []
  zov := []
  pending := []
  returns := []
  oracle := []
  curCell := 0
  curStrand := 0
  nextId := 0
  free := 0

end Sys2Proof.Machine
end

