-- ==== Sys2Proof/Machine/Ops.lean ====
section
/-! DEFINITION. The named operations over the state: lists kept by key, memory, registers, retirement, taking a
trap and returning from one. -/

namespace Sys2Proof.Machine

/-! ### Lists kept by key -/

/-- The value kept under a key. -/
def look {α : Type} : List (Nat × α) → Nat → Option α
  | [], _ => none
  | (k, v) :: r, n => if k = n then some v else look r n

/-- Keep a value under a key; keys rise. -/
def put {α : Type} : List (Nat × α) → Nat → α → List (Nat × α)
  | [], n, a => [(n, a)]
  | (k, v) :: r, n, a => if k = n then (n, a) :: r else if n < k then (n, a) :: (k, v) :: r else (k, v) :: put r n a

/-- Drop a key. -/
def drop {α : Type} (l : List (Nat × α)) (n : Nat) : List (Nat × α) := l.filter fun p => p.1 != n

/-! ### Memory in canonical form (log entry 2) -/

/-- What a byte that nothing has written reads as (log entry 2). -/
def Memory.unlisted : Byte := 0

/-- Read one byte. -/
def Memory.get : List Host.Cell → Nat → Byte
  | [], _ => Memory.unlisted
  | (k, v) :: r, a => if k = a then v else Memory.get r a

/-- Write one byte; a byte equal to an unlisted one is not listed. -/
def Memory.set : List Host.Cell → Nat → Byte → List Host.Cell
  | [], a, b => if b = Memory.unlisted then [] else [(a, b)]
  | (k, v) :: r, a, b =>
    if a < k then (if b = Memory.unlisted then (k, v) :: r else (a, b) :: (k, v) :: r)
    else if a = k then (if b = Memory.unlisted then r else (a, b) :: r)
    else (k, v) :: Memory.set r a b

/-- The canonical form: addresses strictly rising from `lo`, no entry equal to an unlisted byte. -/
def Memory.wfFrom : Nat → List Host.Cell → Bool
  | _, [] => true
  | lo, (k, v) :: r => decide (lo ≤ k) && (v != Memory.unlisted) && Memory.wfFrom (k + 1) r

/-- The canonical form of a memory. -/
def Memory.wf (m : List Host.Cell) : Bool := Memory.wfFrom 0 m

/-- `n` bytes from `a`, lowest address first. -/
def Memory.bytes (m : List Host.Cell) (a : Nat) : Nat → List Byte
  | 0 => []
  | n + 1 => Memory.get m a :: Memory.bytes m (a + 1) n

/-- Write bytes from `a`, lowest address first. -/
def Memory.setBytes : List Host.Cell → Nat → List Byte → List Host.Cell
  | m, _, [] => m
  | m, a, b :: r => Memory.setBytes (Memory.set m a b) (a + 1) r

/-- The number that bytes spell, little-endian (R8). -/
def ofBytes : List Byte → Nat
  | [] => 0
  | b :: r => b.toNat + 256 * ofBytes r

/-- `n` bytes of a number, little-endian (R8). -/
def toBytes (v : Nat) : Nat → List Byte
  | 0 => []
  | n + 1 => BitVec.ofNat 8 v :: toBytes (v / 256) n

/-! ### Sets of word numbers -/

def ins (l : List Nat) (n : Nat) : List Nat := if n ∈ l then l else n :: l
def del (l : List Nat) (n : Nat) : List Nat := l.filter (· != n)

/-! ### Parts of the state -/

def hiveOf (g : CellId) : Nat := g / 4096
def lcidOf (g : CellId) : Nat := g % 4096
def dieOf (g : CellId) : Nat := g / 256 % 16
/-- Comb number over the apiary: hive × 256 + comb index (R7). -/
def combOf (g : CellId) : Nat := g / 16
def combIndex (g : CellId) : Nat := g / 16 % 256
/-- Cell number within its comb (R5). -/
def inComb (g : CellId) : Nat := g % 16

def State.cellAt (s : State) (g : CellId) : Cell := (look s.cells g).getD Cell.reset
def State.setCell (s : State) (g : CellId) (c : Cell) : State := { s with cells := put s.cells g c }
def State.combAt (s : State) (n : Nat) : Comb := (look s.combs n).getD Comb.reset
def State.setComb (s : State) (n : Nat) (c : Comb) : State := { s with combs := put s.combs n c }
def State.hiveAt (s : State) (n : Nat) : Hive := (look s.hives n).getD Hive.reset
def State.setHive (s : State) (n : Nat) (h : Hive) : State := { s with hives := put s.hives n h }
def State.jobAt (s : State) (n : Nat) : Option Job := look s.jobs n
def State.setJob (s : State) (n : Nat) (j : Job) : State := { s with jobs := put s.jobs n j }

def State.strandAt (s : State) (g : CellId) (k : StrandId) : Strand := (s.cellAt g).strands[k]
def Cell.setStrand (c : Cell) (k : StrandId) (t : Strand) : Cell := { c with strands := c.strands.set k t }
def State.setStrand (s : State) (g : CellId) (k : StrandId) (t : Strand) : State :=
  s.setCell g ((s.cellAt g).setStrand k t)

/-- The current cell, strand and comb. -/
def State.cell (s : State) : Cell := s.cellAt s.curCell
def State.setCur (s : State) (c : Cell) : State := s.setCell s.curCell c
def State.me (s : State) : Strand := s.strandAt s.curCell s.curStrand
def State.setMe (s : State) (t : Strand) : State := s.setStrand s.curCell s.curStrand t
def State.comb (s : State) : Comb := s.combAt (combOf s.curCell)
def State.hive (s : State) : Nat := hiveOf s.curCell

/-- The job placed on a cell, with its number in `jobs` (R28, R305). -/
def State.jobOf (s : State) (g : CellId) : Option (Nat × Job) :=
  (s.cellAt g).job.bind fun n => (s.jobAt n).map fun j => (n, j)

/-- Move another strand. -/
def State.at (s : State) (g : CellId) (k : StrandId) : State := { s with curCell := g, curStrand := k }

/-- Set a happening going. -/
def State.push (s : State) (i : Instr) : State := { s with pending := s.pending ++ [i] }

/-- Set a happening going unless it is already; one whose moment has not come stays set going. -/
def State.stillPending (s : State) (i : Instr) : State := if s.pending.contains i then s else s.push i

/-- A packet that is held up where it arrives stays ahead of those of its path that were sent after it (R258, R342). -/
def State.heldUp (s : State) (i : Instr) : State := { s with pending := i :: s.pending }

/-- The fold agents watch a job for a seal stall (R378). -/
def State.watchStall (s : State) (g : CellId) : State :=
  match (s.cellAt g).job with
  | some n => s.stillPending (.sealStall n (hiveOf g))
  | none => s

/-- A strand of a cell takes a firing or resumes one, so the job's seal does not stall (R378). -/
def State.unstall (s : State) (g : CellId) : State :=
  match s.jobOf g with
  | some (n, j) => if j.stallSince.isSome then s.setJob n { j with stallSince := none } else s
  | none => s

/-- Withdraw the happenings that satisfy `p`. -/
def State.withdraw (s : State) (p : Instr → Bool) : State :=
  { s with pending := s.pending.filter fun i => !p i
           returns := s.returns.filter fun x => !p (.allowanceReturn x.2.1 x.2.2) }

/-- A free value: a fresh index for `Config.freeWord` (log entry 6). -/
def State.takeFree (s : State) : Word × State := (Config.freeWord s.free, { s with free := s.free + 1 })

/-! ### Physical addresses: every location under its home (R251) -/

def tcmBase (g : CellId) : Nat := g * 2 ^ 19
/-- `Z[i]` of a cell. -/
def zAddr (g : CellId) (i : Nat) : Nat := 2 ^ 38 + g * 2 ^ 17 + 8 * i
/-- Offset `off` in the scratchpad of comb `n`, counted over the apiary. -/
def scratchAddr (n off : Nat) : Nat := 2 ^ 40 + n * 2 ^ 22 + off
/-- Location in the super of a hive, in the layout of R363. -/
def superAddr (hive loc : Nat) : Nat := 2 ^ 44 + hive * 2 ^ 39 + loc
def lpddrAddr (hive loc : Nat) : Nat := 2 ^ 46 + hive * 2 ^ 40 + loc

/-- The super location of a row's byte (R283, R363). -/
def rowLoc (die comb bank row byte : Nat) : Nat :=
  die * 2 ^ 35 + comb * 2 ^ 31 + bank * 2 ^ 24 + row * 2 ^ 10 + byte

/-- Memory code of R44 of a physical address: 0 TCM, 1 Z, 2 scratchpad, 4 super, 5 LPDDR6. -/
def memCode (a : Nat) : Nat :=
  if a < 2 ^ 38 then 0 else if a < 2 ^ 40 then 1 else if a < 2 ^ 44 then 2 else if a < 2 ^ 46 then 4 else 5

/-- The hive that a super or LPDDR6 address belongs to. -/
def hiveOfPhys (a : Nat) : Nat := if a < 2 ^ 46 then (a - 2 ^ 44) / 2 ^ 39 else (a - 2 ^ 46) / 2 ^ 40

/-! ### Bytes by physical address, past the slices -/

def State.byte (s : State) (a : Nat) : Byte := Memory.get s.mem a
def State.read (s : State) (a n : Nat) : Nat := ofBytes (Memory.bytes s.mem a n)
def State.marked (s : State) (a : Nat) : Bool := s.marks.contains (a / 8)

/-- Some byte of a range lies in a marked word (R292). -/
def State.rangeMarked (s : State) (a n : Nat) : Bool :=
  s.marks.any fun w => decide (w * 8 < a + n) && decide (a < w * 8 + 8)

/-- Words that a range covers whole lose their marks (R133, R292). -/
def State.clearMarks (s : State) (a n : Nat) : State :=
  { s with marks := s.marks.filter fun w => !(decide (a ≤ w * 8) && decide (w * 8 + 8 ≤ a + n)) }

/-- Write bytes at their home; whole words lose their marks (R133). -/
def State.writeBytes (s : State) (a : Nat) (l : List Byte) : State :=
  ({ s with mem := Memory.setBytes s.mem a l }).clearMarks a l.length

/-- Write an `n`-byte number at its home. -/
def State.write (s : State) (a n v : Nat) : State := s.writeBytes a (toBytes v n)

/-! ### Registers of the current strand -/

/-- Doubleword `n` of the register-file copy (R15). -/
def Strand.dw (t : Strand) (n : Fin 64) : Word := t.ws[n]
def Strand.setDw (t : Strand) (n : Fin 64) (v : Word) : Strand := { t with ws := t.ws.set n v }

/-- `w0` reads as zero (R18). -/
def Strand.w (t : Strand) (r : WReg) : Word := if r = 0 then 0 else t.ws[r.val]
def Strand.p (t : Strand) (r : PReg) : Word := t.ws[32 + r.val]
def Strand.setP (t : Strand) (r : PReg) (v : Word) : Strand := { t with ws := t.ws.set (32 + r.val) v }
def Strand.stream (t : Strand) (n : Fin 4) : Word := t.ws[40 + n.val]
def Strand.setStream (t : Strand) (n : Fin 4) (v : Word) : Strand := { t with ws := t.ws.set (40 + n.val) v }
def Strand.m (t : Strand) (n : Fin 5) : Word := t.ws[44 + n.val]
def Strand.status (t : Strand) : Word := t.ws[50]
def Strand.cf (t : Strand) : Bool := t.status.getLsbD 0
def Strand.sv (t : Strand) : Bool := t.status.getLsbD 1
def Strand.dchk (t : Strand) : Bool := t.status.getLsbD 2
def Strand.prio (t : Strand) : Nat := t.status.toNat / 16 % 4
def Strand.swm (t : Strand) : Bool := t.status.getLsbD 6
def Strand.swix (t : Strand) : Nat := t.status.toNat / 2 ^ 10 % 8
def Strand.fflags (t : Strand) : BitVec 5 := (t.ws[51]).truncate 5
def Strand.fenable (t : Strand) : BitVec 5 := (t.ws[52]).truncate 5
def Strand.vl (t : Strand) : Nat := (t.ws[53]).toNat
def Strand.deadline (t : Strand) : Nat := (t.ws[54]).toNat % 4096
def Strand.left (t : Strand) : Nat := (t.ws[54]).toNat / 2 ^ 16 % 2 ^ 24
def Strand.slotNo (t : Strand) : Nat := (t.ws[55]).toNat / 4 % 64
def Strand.pdepth (t : Strand) : Nat := (t.ws[55]).toNat / 2 ^ 12 % 16

/-- Replace one bit of a word. -/
def setBit (v : Word) (n : Nat) (b : Bool) : Word :=
  if b then v ||| (1 <<< n) else v &&& ~~~((1 : Word) <<< n)

/-- A late write to `d` is dropped where a window instruction writes `d` (R94). -/
def LongOp.dropOn (d : WReg) (o : LongOp) : LongOp := if o.dest = d then { o with dropD := true } else o

/-- A write of `wd`: `w0` discards it (R18), and a late write to the same register is dropped (R94). -/
def Strand.setW (t : Strand) (d : WReg) (v : Word) : Strand :=
  if d = 0 then t else { t with ws := t.ws.set d.val v, longs := t.longs.map (LongOp.dropOn d) }

/-- A write of `wd` by a late result: nothing else is dropped (R94). -/
def Strand.lateW (t : Strand) (d : WReg) (v : Word) : Strand :=
  if d = 0 then t else { t with ws := t.ws.set d.val v }

def Strand.setStatus (t : Strand) (v : Word) : Strand := { t with ws := t.ws.set 50 v }
def Strand.lateCf (t : Strand) (b : Bool) : Strand := t.setStatus (setBit t.status 0 b)

/-- A write of CF, which is never made through `wd` (R18). -/
def Strand.setCf (t : Strand) (b : Bool) : Strand :=
  { t.lateCf b with longs := t.longs.map fun o => if o.destCf then { o with dropCf := true } else o }

def Strand.setSv (t : Strand) (b : Bool) : Strand := t.setStatus (setBit t.status 1 b)

/-- OR raised flags into FFLAGS (R32). -/
def Strand.raiseFlags (t : Strand) (f : BitVec 5) : Strand :=
  { t with ws := t.ws.set 51 (t.ws[51] ||| f.zeroExtend 64) }

def Strand.setVl (t : Strand) (n : Nat) : Strand := { t with ws := t.ws.set 53 (BitVec.ofNat 64 n) }

/-- YLIMIT from DEADLINE and LEFT (R35). -/
def ylimit (deadline left : Nat) : Word := BitVec.ofNat 64 (deadline % 4096 + left % 2 ^ 24 * 2 ^ 16)
def Strand.setYlimit (t : Strand) (deadline left : Nat) : Strand := { t with ws := t.ws.set 54 (ylimit deadline left) }

/-- Registers of the current strand. -/
def State.w (s : State) (r : WReg) : Word := s.me.w r
def State.setW (s : State) (d : WReg) (v : Word) : State := s.setMe (s.me.setW d v)
def State.setCf (s : State) (b : Bool) : State := s.setMe (s.me.setCf b)

/-- The workspace is bound: the register-file copy is its value (R16). -/
def Strand.bound (t : Strand) : Bool :=
  match t.run with
  | .free | .starting _ | .leaving => false
  | .claimed => t.swarm.isSome
  | _ => true

/-- The strand owns the workspace at its WP, bound or being bound (R14). -/
def Strand.owns (t : Strand) : Bool :=
  match t.run with
  | .free | .leaving => false
  | _ => true

/-- The strand holds a firing (R311). -/
def Strand.held_ (t : Strand) : Bool :=
  match t.run with
  | .free | .leaving | .claimed => false
  | _ => true

/-! ### Banks that sleep (R273) -/

/-- The bank of a TCM offset. -/
def bankOf (off : Nat) : Fin 4 := Fin.ofNat 4 (off / 0x20000)

/-- An access reaches the bank of a TCM offset (R271-R273): a drowsy bank starts a wake, one that is on counts its idle
cycles anew, and a wake or a zeroing goes on as it was. The actor slot table has no drowsy state. -/
def State.touch (s : State) (g : CellId) (off : Nat) : State :=
  let c := s.cellAt g
  let b := c.banks[bankOf off]
  if 0x7F000 ≤ off then s
  else match b.state with
    | .drowsy =>
      (s.setCell g { c with banks := c.banks.set (bankOf off) ⟨.waking, s.now⟩ }).push (.bankWake g (bankOf off))
    | .on =>
      if b.lastUse = s.now then s
      else s.setCell g { c with banks := c.banks.set (bankOf off) { b with lastUse := s.now } }
    | _ => s

/-- An access reaches every bank that a TCM range meets. -/
def State.touchRange (s : State) (g : CellId) (off size : Nat) : State :=
  ((List.range 4).filter fun b => decide (off < (b + 1) * 0x20000) && decide (b * 0x20000 < off + size)).foldl
    (fun s b => s.touch g (max off (b * 0x20000))) s

/-- Write the register-file copy back to its workspace (R16). -/
def State.writeBack (s : State) (g : CellId) (t : Strand) : State :=
  (s.touch g t.wp).writeBytes (tcmBase g + t.wp) (t.ws.toList.flatMap fun v => toBytes v.toNat 8)

/-- Doubleword `k` of actor slot descriptor `n` of a cell (R50). -/
def descAddr (g : CellId) (n k : Nat) : Nat := tcmBase g + 0x7F000 + 64 * n + 8 * k
def State.desc (s : State) (g : CellId) (n k : Nat) : Nat := s.read (descAddr g n k) 8

/-! ### The instruction word of a trap -/

/-- A strand of a follower is a member of a swarm and not its leader: STATUS.SWM = 1 and SWL = 0 (R26). -/
def Strand.isFollower (t : Strand) : Bool := t.swm && !t.status.getLsbD 7

/-- The strand whose fetch buffer holds the word: the leader in a swarm (R173). -/
def State.fetcher (s : State) : Strand :=
  match s.me.swarm with
  | some w => if s.me.isFollower then s.strandAt w.leaderCell w.leaderStrand else s.me
  | none => s.me

/-- The cell whose actor runs the current firing: the leader's in a swarm. -/
def State.actorCell (s : State) : CellId :=
  match s.me.swarm with
  | some w => if s.me.isFollower then w.leaderCell else s.curCell
  | none => s.curCell

/-- The word that the strand issues, as the fetch buffer holds it. -/
def State.instrWord (s : State) (i : Instr) : Word :=
  let t := s.fetcher
  match t.buf.find? fun b => b.1 == t.pc / 8 * 8 with
  | some (_, b) => BitVec.ofNat 64 (if t.pc % 8 = 4 then b.toNat / 2 ^ 32 else b.toNat % 2 ^ 32)
  | none => BitVec.ofNat 64 (encode i)

/-! ### Fault messages (R367) -/

/-- The eight doublewords of a fault message. -/
def faultMessage (kind : Nat) (g : CellId) (slot : Nat) (k : StrandId) (rec : List Word) (stat : Word)
    (step : Nat) : List Word :=
  BitVec.ofNat 64 (kind * 2 ^ 60 + g * 2 ^ 42 + slot * 2 ^ 36 + k.val * 2 ^ 34) ::
    (rec.take 4 ++ [stat, BitVec.ofNat 64 step, 0])

/-- Send a fault message to the supervising drover; kinds 0 and 1 are remembered for the reductions of the step
(R361, R367). -/
def State.sendFault (s : State) (kind : Nat) (g : CellId) (slot : Nat) (k : StrandId) (rec : List Word)
    (stat : Word) : State :=
  let step := ((s.jobOf g).map fun j => j.2.step).getD 0
  let h := s.hiveAt (hiveOf g)
  let s := s.setHive (hiveOf g) { h with faults := faultMessage kind g slot k rec stat step :: h.faults }
  if kind ≤ 1 then
    match s.jobOf g with
    | some (n, j) => s.setJob n { j with faultedCells := ins j.faultedCells g }
    | none => s
  else s

/-! ### The host's side of the drovers (R362, R364, R370, R388) -/

/-- The bridge hive of a hive's row (R362). -/
def State.bridgeOf (s : State) (hive : Nat) : Nat := hive / 8 * 8 + (s.hiveAt hive).bridgeColumn

/-- Raise an MSI-X vector at the bridge of a hive's row. -/
def State.raiseMsix (s : State) (hive v : Nat) : State :=
  let b := s.bridgeOf hive
  s.setHive b { s.hiveAt b with msix := v :: (s.hiveAt b).msix }

/-- The head of the completion ring after one more record (R388). -/
def Hive.nextHead (h : Hive) : Word := if h.crsize = 0 then h.crhead else BitVec.ofNat 64 ((h.crhead.toNat + 1) % h.crsize.toNat)

/-- Write a record to the host's completion ring and raise vector 0 (R364). -/
def State.postRecord (s : State) (hive : Nat) (r : HostRecord) : State :=
  let b := s.bridgeOf hive
  let h := s.hiveAt b
  (s.setHive b { h with records := h.records ++ [r], crhead := h.nextHead }).raiseMsix hive 0

/-- The root of a job: its lowest-numbered hive (R356). -/
def Job.root (j : Job) : Nat := j.hives.foldl min 63

/-- A mask of hives. -/
def hiveMask (l : List Nat) : Word := BitVec.ofNat 64 ((List.range 64).foldl (fun m h => if l.contains h then m + 2 ^ h else m) 0)

/-- Hives whose apply of the present fold has completed (R371). -/
def Job.appliedHives (j : Job) : List Nat :=
  match j.phase with
  | .open => []
  | .apply => j.doneHives
  | _ => j.hives

/-- The halt registers of a hive of a job (R388). -/
def State.postHalt (s : State) (j : Job) (cause : Nat) (hive : Nat) : State :=
  s.setHive hive { s.hiveAt hive with
    haltst := BitVec.ofNat 64 (cause % 256 + j.number % 256 * 2 ^ 8), haltstep := BitVec.ofNat 64 j.step,
    appliedMask := hiveMask j.appliedHives }

/-- Halt a job (R370, R388): it is stopped, the cause and FSTEP are posted in the registers of its hives, and vector 1
is raised. Two halts keep the first cause. -/
def State.haltJob (s : State) (n : Nat) (cause : Nat) : State :=
  match s.jobAt n with
  | none => s
  | some j =>
    if j.halted.isSome || j.ended then s
    else
      let s := s.setJob n { j with halted := some cause, stopped := true, differed := true }
      (j.hives.foldl (fun s h => s.postHalt j cause h) s).raiseMsix j.root 1

/-- The state of an outcome; every meaning answers a next state. -/
def outState (s : State) : Host.Outcome State Fault Refusal → State
  | .next t => t
  | _ => s

/-! ### Traps -/

/-- The codes of R44. -/
def Cause.code : Cause → Nat
  | .illegalInstruction => 0x01 | .illegalBundle => 0x02 | .privilege => 0x03 | .misaligned => 0x04
  | .pageFault => 0x05 | .access => 0x06 | .crook => 0x07 | .remoteReadLive => 0x08 | .landingViolation => 0x09
  | .penBudget => 0x0A | .sendFull => 0x0B | .feTimeout => 0x0C | .barrierOverrun => 0x0D | .watchdog => 0x0E
  | .fpException => 0x0F | .frameNotOpen => 0x10 | .frameLost => 0x11 | .frameBank => 0x12
  | .engineFormat => 0x13 | .permissionMask => 0x14 | .uncorrectable => 0x15 | .remoteOpUnsupported => 0x16
  | .reductionAborted => 0x17 | .swarmBroken => 0x18 | .publishConflict => 0x19 | .orderedAmoAborted => 0x1A
  | .software => 0x1B | .streamUnbound => 0x1C | .determinismCheck => 0x1D

/-- TRAPCAUSE (R43); ESC is set by escalation. -/
def Trap.causeWord (t : Trap) (law : Bool) (slot : Nat) : Word :=
  BitVec.ofNat 64 (t.member % 16 * 2 ^ 48 + min t.count 65535 * 2 ^ 32 + t.eng * 2 ^ 13 + law.toNat * 2 ^ 12 +
    slot % 16 * 2 ^ 8 + t.cause.code)

/-- An access trap with its kind (R44). -/
def accessTrap (val : Word) (kind : Nat) (index : Nat := 0) : Trap :=
  ⟨.access, val, BitVec.ofNat 64 (kind * 2 ^ 32 + index), 0, 0, 0⟩

/-- The trap record of a strand (R15). -/
def Strand.record (t : Strand) : List Word := [t.ws[58], t.ws[59], t.ws[60], t.ws[61]]

/-- Write the trap record (R42, R44). -/
def Strand.setRecord (t : Strand) (cause pc val aux : Word) : Strand :=
  { t with ws := (((t.ws.set 58 cause).set 59 pc).set 60 val).set 61 aux }

/-- An entry stands in a queue of the cell (R151, R177). -/
def Cell.holdsEntry (c : Cell) (n : Nat) : Bool := (c.vuQ ++ c.sceQ ++ c.fgQ ++ c.sduQ).any fun e => e.id == n

/-- The engine instruction of the strand's shadow is still queued or performed. -/
def State.shadowBusy (s : State) : Bool := (s.me.shadow.map fun sh => s.cell.holdsEntry sh.entry).getD false

/-- The windows of all outstanding long-latency instructions close (R95, R96). -/
def Strand.closeWindows (t : Strand) : Strand := { t with longs := t.longs.map fun o => { o with left := 0 } }

/-- What trap entry ends in the strand: the fetch buffer is emptied (R140) and nothing is held. What is outstanding
ends too, but not at `WATCHDOG`, which strikes between instructions (R97) and leaves no window open in its handler. An engine instruction that goes on keeps its
shadow (R156). -/
def Strand.clearIssue (t : Strand) (c : Cause) (busy : Bool) : Strand :=
  { t with buf := [], longs := if c = .watchdog then t.closeWindows.longs else []
           shadow := if busy then t.shadow else none, held := none, replay := none, note := 0 }

/-- Escalation (R42): ESC and SV are set, a message of kind 0 goes out, and the strand waits for the drover. -/
def State.escalate (s : State) : State :=
  let t := (s.me.setSv true).setDw 58 (setBit (s.me.dw 58) 16 true)
  let s := s.setMe { t with run := .awaiting 0 none, since := s.now }
  (s.watchStall s.curCell).sendFault 0 s.curCell t.slotNo s.curStrand t.record t.status

/-- The part of a trap that follows the drover's answer or needs none (R42): the trap entry in supervisor mode,
or escalation. -/
def State.deliverTrap (s : State) (cause : Cause) : State :=
  let t := s.me
  let ent := (t.firing.map fun f => f.trapEnt).getD 0
  if ent = 0 || t.sv then s.escalate
  else
    let t := { t.setSv true with pc := ent, run := .issuing, buf := [] }
    if cause = .watchdog then
      s.setMe { t.setYlimit t.deadline 4096 with firing := t.firing.map fun f => { f with wdog := true } }
    else s.setMe t

/-- A trap in a strand that is alone (R42): the record is written; `FP_EXCEPTION` in user mode waits for the
drover, every other trap proceeds at once. -/
def State.takeTrapAlone (s : State) (tr : Trap) (pc : Nat) (law : Bool) (slot : Nat) : State :=
  let t := s.me.clearIssue tr.cause s.shadowBusy
  let t := t.setRecord (tr.causeWord law slot) (BitVec.ofNat 64 pc) tr.val tr.aux
  let s := s.setMe { t with run := .issuing }
  if tr.cause = .fpException && !t.sv then
    let s := s.setMe { t with run := .awaiting 1 (some tr), since := s.now }
    (s.watchStall s.curCell).sendFault 1 s.curCell t.slotNo s.curStrand t.record t.status
  else s.deliverTrap tr.cause

/-- Bits 12:6 of STATUS, the swarm fields, cleared (R26, R175). -/
def Strand.leaveSwarm (t : Strand) : Strand :=
  { t with swarm := none
           ws := t.ws.set 50 (BitVec.ofNat 64 (t.status.toNat % 2 ^ 6)) }

/-- A follower leaves a swarm (R175, R176): its streams are unbound (R190), its registers go back to its workspace,
which becomes unbound and returns to the pool, and its strand is free and is offered to its cell's choice. -/
def State.freeFollower (s : State) (g : CellId) (k : StrandId) : State :=
  let t := s.strandAt g k
  let s := s.writeBack g t
  let c := s.cellAt g
  let used := match t.firing with
    | some f => del c.poolUsed f.pool
    | none => c.poolUsed
  let streams := c.streams.filter fun x => some x.fid != t.firing.map fun f => f.fid
  let s := s.setCell g { c with poolUsed := used, streams := streams }
  (s.setStrand g k { Strand.reset with ws := t.ws }).push (.firingChoice g k)

/-- Words of a member that have retired in the window or the shadow of the instruction at `pc`, of at most `cap` words: its
own instruction there may have completed before (R96, R154, R175). -/
def Strand.retiredSlots (t : Strand) (pc cap : Nat) : Nat := min cap ((t.pc - pc) / 4 - 1)

/-- Each follower takes the record of a broken swarm and leaves it (R175); `slot` says how many words of each have
retired. -/
def State.breakFollowers (s : State) (tr : Trap) (pc : Nat) (law : Bool) (slot : CellId × StrandId → Nat) :
    List (CellId × StrandId) → State
  | [] => s
  | m :: r =>
    let t := (s.strandAt m.1 m.2).setRecord (tr.causeWord law (slot m)) (BitVec.ofNat 64 pc) tr.val tr.aux
    ((s.setStrand m.1 m.2 t).freeFollower m.1 m.2).breakFollowers tr pc law slot r

/-- The number of words that each member's record of a broken swarm gives as retired (R175). -/
def State.slotsOf (s : State) (pc : Nat) (law : Bool) (slot : Nat) (m : CellId × StrandId) : Nat :=
  if m = (s.curCell, s.curStrand) then slot
  else if law then
    (s.strandAt m.1 m.2).retiredSlots pc (((s.me.longs.find? fun o => o.pc == pc).map LongOp.window).getD 15)
  else 0

/-- A trap in a member of a swarm ends the swarm (R175). The results that the other members still await are dropped, and
the pointers that their V instructions have post-incremented stay as they are. What the members have in engine queues goes
on; the leader's keeps its shadow, so that its serialising words wait for it (R156) (DESIGN CHOICE, log entry 46). -/
def State.breakSwarm (s : State) (w : SwarmInfo) (tr : Trap) (pc : Nat) (law : Bool) (slot : Nat) : State :=
  let ix := s.me.swix
  let broken : Trap :=
    ⟨.swarmBroken, BitVec.ofNat 64 tr.cause.code, BitVec.ofNat 64 ix, tr.eng, 0, ix⟩
  let lead := (w.leaderCell, w.leaderStrand)
  let slots := s.slotsOf pc law slot
  let s := s.breakFollowers broken pc law slots (w.members.filter (· != lead))
  let s := s.at w.leaderCell w.leaderStrand
  (s.setMe (s.me.leaveSwarm)).takeTrapAlone broken pc law (slots lead)

/-- A strand claimed for a swarm that will not be formed returns to its cell's choice (R171). -/
def State.releaseClaimed (s : State) : List (CellId × StrandId) → State
  | [] => s
  | (g, k) :: r =>
    let t := s.strandAt g k
    let c := s.cellAt g
    let used := match t.firing with
      | some f => del c.poolUsed f.pool
      | none => c.poolUsed
    let s := s.setCell g { c with poolUsed := used }
    ((s.setStrand g k { Strand.reset with ws := t.ws }).push (.firingChoice g k)).releaseClaimed r

/-- A cell without the claims of one leader. -/
def dropClaims (w : SwarmInfo) : Nat × Cell → Nat × Cell
  | (n, c) => (n, { c with claims := c.claims.filter fun x =>
      !(x.leaderCell == w.leaderCell && x.leaderStrand == w.leaderStrand) })

/-- Withdraw every claim of the current strand, which is parked at `SWARM` (R171). -/
def State.withdrawClaims (s : State) (w : SwarmInfo) : State :=
  let s := { s with cells := s.cells.map (dropClaims w) }
  let s := s.releaseClaimed (w.members.filter (· != (w.leaderCell, w.leaderStrand)))
  s.setMe { s.me with swarm := none }

/-- Take a trap in the current strand (R42, R175); a leader that is still parked at `SWARM` traps alone (R171). -/
def State.takeTrap (s : State) (tr : Trap) (pc : Nat) (law : Bool) (slot : Nat) : State :=
  match s.me.swarm with
  | some w =>
    if s.me.swm then s.breakSwarm w tr pc law slot else (s.withdrawClaims w).takeTrapAlone tr pc law slot
  | none => s.takeTrapAlone tr pc law slot

/-! ### Long-latency results and held traps (R94-R97, R153) -/

/-- The late writes of the instructions before `o` to its destinations are dropped (R94). -/
def LongOp.dropBy (o p : LongOp) : LongOp :=
  if p.seq < o.seq then { p with dropD := p.dropD || p.dest == o.dest, dropCf := p.dropCf || (p.destCf && o.destCf) } else p

/-- Write the results that have come back and whose windows have closed; a late write of an earlier instruction, in whose
window this one stands, is dropped from now on (R94). -/
def Strand.commit (t : Strand) (o : LongOp) : Strand :=
  match o.result with
  | some (.value v fl cf) =>
    let t := if o.dropD then t else t.lateW o.dest v
    let t := t.raiseFlags fl
    let t := { t with longs := t.longs.map o.dropBy }
    match cf with
    | some b => if o.dropCf then t else t.lateCf b
    | none => t
  | _ => t

/-- The result can be written now. -/
def LongOp.ready (o : LongOp) : Bool :=
  o.left == 0 && match o.result with
    | some (.value ..) => true
    | _ => false

def Strand.commitAll (t : Strand) : Strand :=
  let t' := (t.longs.filter LongOp.ready).foldl Strand.commit t
  { t' with longs := t'.longs.filter fun o => !o.ready }

/-- A later long-latency instruction belongs to the window of an earlier one: window instructions lie at consecutive
word addresses (R95). -/
def LongOp.covers (o p : LongOp) : Bool := decide (o.pc < p.pc) && decide (p.pc ≤ o.pc + 4 * o.slot)

def LongOp.trap? (o : LongOp) : Option Trap :=
  match o.result with
  | some (.trap t) => some t
  | _ => none

/-- The earliest fault among the outstanding long-latency instructions, when it can be taken (R96): all before it
have completed, and so have those of its window, up to one that faults itself. The instructions whose results are
still to be written come with it, and the number of window instructions that count as retired. -/
def lateFaultFrom : List LongOp → Option (List LongOp × LongOp × Trap × Nat)
  | [] => none
  | o :: r =>
    match o.result with
    | none => none
    | some (.value ..) => (lateFaultFrom r).map fun x => (o :: x.1, x.2)
    | some (.trap t) =>
      let inner := r.filter o.covers
      match inner.find? fun p => p.trap?.isSome with
      | some p =>
        let before := inner.takeWhile fun q => q.seq != p.seq
        if before.all fun q => q.result.isSome then some (before, o, t, (p.pc - o.pc) / 4 - 1) else none
      | none => if o.left = 0 && inner.all (fun q => q.result.isSome) then some (inner, o, t, o.slot) else none

def Strand.lateFault (t : Strand) : Option (List LongOp × LongOp × Trap × Nat) := lateFaultFrom t.longs

/-- The flags of an instruction whose enabled flag traps reach FFLAGS when its trap is taken (R32, R96, R123). -/
def Strand.lateFlags (t : Strand) (tr : Trap) : Strand :=
  if tr.cause = .fpException then t.raiseFlags (tr.val.truncate 5) else t

/-- Bring the current strand up to date: write the late results that can be written, take the earliest fault
whose window has closed, else a held trap before which nothing is outstanding. -/
def State.settle (s : State) : State :=
  let t := s.me.commitAll
  let s := s.setMe t
  match t.lateFault with
  | some (before, o, tr, slot) => (s.setMe ((before.foldl Strand.commit t).lateFlags tr)).takeTrap tr o.pc true slot
  | none =>
    match t.held with
    | some h => if t.longs.isEmpty && t.shadow.isNone then (s.setMe (t.lateFlags h.trap)).takeTrap h.trap h.pc false 0 else s
    | none => s

/-- A window instruction or shadow instruction has retired (R94, R153). -/
def Strand.countRetired (t : Strand) : Strand :=
  { t with longs := t.longs.map fun o => if o.left = 0 then o else { o with left := o.left - 1, slot := o.slot + 1 }
           shadow := t.shadow.map fun sh => { sh with slot := sh.slot + 1 } }

/-- Where the strand goes after the word it is at: the next word, or past the words a replay skips (R87, R96). -/
def Strand.nextPc (t : Strand) : Nat :=
  match t.replay with
  | some r => r.thenPc
  | none => t.pc + 4

/-- Retire the word the current strand is at and go to `pc`. -/
def State.retireTo (s : State) (pc : Nat) : State :=
  (s.setMe { s.me.countRetired with pc := pc, replay := none, run := .issuing }).settle

/-- Retire the word the current strand is at, in word order (R87). -/
def State.retire (s : State) : State := s.retireTo s.me.nextPc

/-- A taken branch or jump: the fetch buffer is emptied (R140). -/
def State.retireJump (s : State) (pc : Nat) : State := (s.setMe { s.me with buf := [] }).retireTo pc

/-- A trap that the word at the pc raises at issue (R88, R96, R153): held while an earlier long-latency or engine
instruction is outstanding, else taken, with the flags of an `FP_EXCEPTION`. A word that a replay re-executes keeps the record's LAW and SLOT (log
entry 12). -/
def State.raise (s : State) (tr : Trap) : State :=
  let t := s.me
  if t.longs.isEmpty && t.shadow.isNone then
    let s := s.setMe (t.lateFlags tr)
    match t.replay with
    | some r => s.takeTrap tr t.pc r.law (if r.law then r.slot else 0)
    | none => s.takeTrap tr t.pc false 0
  else (s.setMe { t.closeWindows with held := some ⟨tr, t.pc⟩, run := .issuing }).settle

/-- Carry on with the value of a check, or raise its trap. -/
def State.orRaise {α : Type} (s : State) (r : Except Trap α) (k : α → State) : State :=
  match r with
  | .ok a => k a
  | .error tr => s.raise tr

/-! ### Returning from a trap (R96, R143) -/

/-- Where the record sends the strand (R96). -/
def Strand.replayOf (t : Strand) : Replay :=
  let cause := (t.dw 58).toNat
  let pc := (t.dw 59).toNat % 2 ^ 19
  if cause / 2 ^ 12 % 2 = 1 then ⟨(pc + 4 * (cause / 2 ^ 8 % 16 + 1)) % 2 ^ 19, true, cause / 2 ^ 8 % 16⟩
  else ⟨pc + 4, false, 0⟩

/-- Resume the current strand from its trap record: user mode, an empty fetch buffer, the word at TRAPPC alone
when LAW is 1 (R96, R143). The record is left as it stands. -/
def State.resumeRecord (s : State) : State :=
  let t := s.me
  s.setMe { t.setSv false with pc := (t.dw 59).toNat % 2 ^ 19, buf := [], replay := some t.replayOf, run := .issuing }

/-- First element of an engine instruction that the strand issues (R155, R179): TRAPAUX, where the record names the
engine `eng`, the word at TRAPPC is executed alone and the instruction is resumable. -/
def Strand.replaySt (t : Strand) (eng : Nat) (resumable : Bool) : Nat :=
  match t.replay with
  | none => 0
  | some r =>
    let cause := (t.dw 58).toNat
    if r.law && resumable && cause / 2 ^ 13 % 8 = eng && (cause % 64 = 0x0F || cause % 64 = 0x06) then
      (t.dw 61).toNat % 2 ^ 32
    else 0

/-- First element of an `AMOV` that `RTT` re-executes, from its trap record (R233). -/
def Strand.replayAmov (t : Strand) : Nat :=
  let cause := (t.dw 58).toNat
  let code := cause % 64
  if t.replay.isNone then 0
  else if code = 0x05 || code = 0x06 then (t.dw 61).toNat % 2 ^ 32
  else if code = 0x07 || code = 0x09 || code = 0x15 then cause / 2 ^ 32 % 2 ^ 16
  else 0

end Sys2Proof.Machine
end

