-- ==== Sys2Proof/Machine/Memory.lean ====
section
/-! DEFINITION. Addresses, pages, slices, the checks of R129, and the performing of loads and stores at their home. -/

namespace Sys2Proof.Machine

/-! ### Units that exist -/

/-- A comb position whose cells and scratchpad are active (R1, R2, R341, R374). -/
def State.combExists (s : State) (hive index : Nat) : Bool :=
  let h := s.hiveAt hive
  decide (index % 16 < s.combsPerDie) && !h.absentCombs.contains index && !h.absentDies.contains (index / 16)

/-- An LCID names a working cell of the hive (R6, R374). -/
def State.cellExists (s : State) (g : CellId) : Bool :=
  s.combExists (hiveOf g) (combIndex g) && !(s.hiveAt (hiveOf g)).absentCells.contains (lcidOf g)

/-- The strand's workspace is bound and meets the TCM range `[off, off + size)` (R16). -/
def Strand.overlaps (t : Strand) (off size : Nat) : Bool :=
  t.bound && decide (off < t.wp + 512) && decide (t.wp < off + size)

/-- Some byte of a TCM range lies in a bound workspace of the cell (R16). -/
def Cell.meetsBound (c : Cell) (off size : Nat) : Bool := c.strands.toList.any fun t => t.overlaps off size

/-- Some byte of a TCM range lies in a gated bank (R47, R271). -/
def Cell.meetsGated (c : Cell) (off size : Nat) : Bool :=
  (c.banks[0].state == .gated && decide (off < 0x20000)) ||
  (c.banks[1].state == .gated && decide (off < 0x40000) && decide (0x20000 < off + size)) ||
  (c.banks[2].state == .gated && decide (off < 0x60000) && decide (0x40000 < off + size))

/-- Some byte of a TCM range lies in a bank that is being zeroed (R272). -/
def Cell.meetsZeroing (c : Cell) (off size : Nat) : Bool :=
  (List.finRange 4).any fun b => c.banks[b].state == .zeroing && decide (off < (b.val + 1) * 0x20000) &&
    decide (b.val * 0x20000 < off + size)

/-- A TCM range that engines and cores may not touch. -/
def Cell.closed (c : Cell) (off size : Nat) : Bool := c.meetsBound off size || c.meetsGated off size

/-! ### Pages (R51, R282, R283) -/

/-- Physical address of byte `off` of a page with entry `d0` homed in `hive` (R282, R283). -/
def entryAddr (hive d0 off : Nat) : Nat :=
  if d0 / 2 ^ 60 % 4 = 0 then
    let bank := d0 / 2 ^ 33 % 2 ^ 7 + off / 2 ^ 16
    superAddr hive (rowLoc (d0 / 2 ^ 44 % 16) (d0 / 2 ^ 40 % 16) bank
      (64 * (d0 / 2 ^ 25 % 2 ^ 8) + off / 2 ^ 10 % 64) (off % 2 ^ 10))
  else lpddrAddr hive (2 ^ 16 * (d0 % 2 ^ 24) + off)

end Sys2Proof.Machine

namespace Sys2Proof

open Machine

def Page.size (p : Page) : Nat := if p.big then 2 ^ 21 else 2 ^ 16

/-- The page holds the address; a scratchpad page only in its own hive. -/
def Page.covers (p : Page) (hive addr : Nat) : Bool :=
  decide (p.base ≤ addr) && decide (addr < p.base + p.size) &&
    (decide (addr < 2 ^ 57) || p.homes.any fun h => h.1 == hive)

/-- The page's home hive for an access from `hive`: `hive` itself when it is one of them (R267). -/
def Page.homeFor (p : Page) (hive : Nat) : Nat :=
  if p.homes.any (fun h => h.1 == hive) then hive else (p.homes.head?.map (·.1)).getD hive

/-- Physical address of a virtual address in the copy of home hive `hive`. -/
def Page.addr (p : Page) (hive va : Nat) : Nat :=
  let d0 := (look p.homes hive).getD 0
  entryAddr hive d0.toNat (va - p.base)

/-- HOLDER in bits 11:0 and the state in bits 13:12 (R44). -/
def PageState.code : PageState → Nat
  | .live => 0 | .frozen => 1 | .landing => 2 | .shadowed => 3

end Sys2Proof

namespace Sys2Proof.Machine

/-- The record of `CROOK` (R44, R53): no holder is named for a frozen or landing page. -/
def crookTrap (addr : Nat) (p : Page) : Trap :=
  let holder := match p.state with
    | .live | .shadowed => p.holder % 4096
    | _ => 0
  ⟨.crook, BitVec.ofNat 64 addr, BitVec.ofNat 64 (holder + p.state.code * 4096), 0, 0, 0⟩

def landingTrap (addr kind : Nat) : Trap := ⟨.landingViolation, BitVec.ofNat 64 addr, BitVec.ofNat 64 kind, 0, 0, 0⟩

end Sys2Proof.Machine

namespace Sys2Proof

open Machine

/-- The cell holds the page's crook (R51). -/
def Page.heldBy (p : Page) (g : CellId) : Bool :=
  p.holder == lcidOf g && p.homes.any (fun h => h.1 == hiveOf g)

/-- Step 5 of R129: the page state allows a store (R51). -/
def Page.storeCheck (p : Page) (g : CellId) (addr kind : Nat) : Except Trap Unit :=
  match p.state with
  | .landing => .error (landingTrap addr kind)
  | .frozen => .error (crookTrap addr p)
  | .live | .shadowed => if p.heldBy g then .ok () else .error (crookTrap addr p)

end Sys2Proof

namespace Sys2Proof.Machine


/-- First window address of comb scratchpads and of TCMs (R7). -/
def scratchWindow : Nat := 0x7E00000000000000
def tcmWindow : Nat := 0x7F00000000000000

def Job.page (j : Job) (hive addr : Nat) : Option Page := j.pages.find? fun p => p.covers hive addr

/-- Replace the page with the same first address and homes. -/
def Job.setPage (j : Job) (p : Page) : Job :=
  { j with pages := j.pages.map fun q => if q.base = p.base && q.homes == p.homes then p else q }

/-- Where an address leads for a cell (R45, R46, R7, R251). -/
inductive Place where
  /-- TCM of the cell or of another cell, by offset -/
  | tcm (g : CellId) (off : Nat)
  /-- the Z window of the issuing cell, byte offset -/
  | z (off : Nat)
  /-- scratchpad of comb `n` of the apiary, on a page that the job declares -/
  | scratch (n off : Nat) (page : Page)
  /-- a page homed in the issuing hive, with its physical address -/
  | virt (va loc : Nat) (page : Page)
  /-- a page whose home is another hive -/
  | away (va : Nat) (page : Page)
  /-- a virtual address without a mapping -/
  | unmapped (va : Nat)
  /-- nothing that an access may name -/
  | nowhere
  deriving DecidableEq, Repr

def State.place (s : State) (g : CellId) (addr : Nat) : Place :=
  if addr < 0x80000 then .tcm g addr
  else if addr < 0xA0000 then .z (addr - 0x80000)
  else if addr < 2 ^ 20 then .nowhere
  else
    let page := (s.jobOf g).bind fun j => j.2.page (hiveOf g) addr
    if addr < 2 ^ 57 then
      match page with
      | some p =>
        if !p.mapped then .unmapped addr
        else if p.homes.any (fun h => h.1 == hiveOf g) then .virt addr (p.addr (hiveOf g) addr) p
        else .away addr p
      | none => .unmapped addr
    else if scratchWindow ≤ addr && addr < scratchWindow + 2 ^ 31 then
      let o := addr - scratchWindow
      match page with
      | some p => if o % 2 ^ 23 < 2 ^ 22 && s.combExists (hiveOf g) (o / 2 ^ 23) then
          .scratch (hiveOf g * 256 + o / 2 ^ 23) (o % 2 ^ 23) p else .nowhere
      | none => .nowhere
    else if tcmWindow ≤ addr && addr < tcmWindow + 2 ^ 32 then
      let o := addr - tcmWindow
      let d := hiveOf g * 4096 + o / 2 ^ 20
      if o % 2 ^ 20 < 2 ^ 19 && s.cellExists d then .tcm d (o % 2 ^ 20) else .nowhere
    else .nowhere

/-- The address needs a page-state cache entry (R129, R284). -/
def isPaged (addr : Nat) : Bool :=
  (decide (2 ^ 20 ≤ addr) && decide (addr < 2 ^ 57)) ||
  (decide (scratchWindow ≤ addr) && decide (addr < scratchWindow + 2 ^ 31))

/-- The key of an address in a page-state cache: the job and the first 64 KiB of its page, which has one entry (R282,
R284). -/
def State.entryKey (s : State) (job hive addr : Nat) : Nat × Nat :=
  (job, (((s.jobAt job).bind fun j => j.page hive addr).map fun p => p.base / 2 ^ 16).getD (addr / 2 ^ 16))

/-- The key of an address for a cell. -/
def State.pageKey (s : State) (g : CellId) (addr : Nat) : Nat × Nat :=
  s.entryKey (((s.cellAt g).job).getD 0) (hiveOf g) addr

/-- The comb's page-state cache misses (R284). -/
def State.misses (s : State) (g : CellId) (addr : Nat) : Bool :=
  isPaged addr && !(s.combAt (combOf g)).cached.contains (s.pageKey g addr)

/-- Set the fill of the missing entry going; the instruction stalls meanwhile (R129, R284). -/
def State.askFill (s : State) (g : CellId) (addr : Nat) : State :=
  let i := Instr.pageStateCacheFill (hiveOf g) (combIndex g) (addr / 2 ^ 16)
  if s.pending.contains i then s else s.push i

/-! ### The checks of R129 -/

/-- Steps 2 and 3 of R129 for a TCM offset (R16, R45-R47). -/
def State.tcmCheck (s : State) (g d : CellId) (sv : Bool) (iw : Word) (addr off size kind : Nat) :
    Except Trap Unit :=
  let c := s.cellAt d
  if d = g then
    if 0x7F000 ≤ off && !sv then .error ⟨.privilege, iw, 0, 0, 0, 0⟩
    else if c.closed off size then .error (accessTrap (BitVec.ofNat 64 addr) kind)
    else .ok ()
  else if kind != 0 || 0x7F000 ≤ off || c.fenced || c.closed off size then
    .error (accessTrap (BitVec.ofNat 64 addr) kind)
  else .ok ()

/-- Steps 1 to 5 of R129 in order: kind 0 load, 1 store, 2 atomic. -/
def State.check (s : State) (g : CellId) (sv : Bool) (iw : Word) (addr size kind : Nat) : Except Trap Place :=
  if addr % size != 0 then .error ⟨.misaligned, BitVec.ofNat 64 addr, BitVec.ofNat 64 size, 0, 0, 0⟩
  else
    match s.place g addr with
    | .tcm d off =>
      match s.tcmCheck g d sv iw addr off size kind with
      | .ok _ => .ok (.tcm d off)
      | .error e => .error e
    | .z off => if kind = 0 then .ok (.z off) else .error (accessTrap (BitVec.ofNat 64 addr) kind)
    | .scratch n off p =>
      if kind = 0 then .ok (.scratch n off p)
      else match p.storeCheck g addr kind with
        | .ok _ => .ok (.scratch n off p)
        | .error e => .error e
    | .virt va loc p =>
      if kind = 0 then .ok (.virt va loc p)
      else match p.storeCheck g addr kind with
        | .ok _ => .ok (.virt va loc p)
        | .error e => .error e
    | .away .. | .nowhere => .error (accessTrap (BitVec.ofNat 64 addr) kind)
    | .unmapped _ => .error ⟨.pageFault, BitVec.ofNat 64 addr, BitVec.ofNat 64 (kind * 2 ^ 32), 0, 0, 0⟩

/-! ### Slices (R278-R281, R293) -/

/-- The hash of R169, which also chooses the set of a held event (R347). -/
def vecHash (f : Fmt) (x : Nat) : Nat :=
  if f = .int32 then
    let x := Nat.xor x (x / 2 ^ 16)
    let x := x * 0x85EBCA6B % 2 ^ 32
    let x := Nat.xor x (x / 2 ^ 13)
    let x := x * 0xC2B2AE35 % 2 ^ 32
    Nat.xor x (x / 2 ^ 16)
  else
    let x := Nat.xor x (x / 2 ^ 33)
    let x := x * 0xFF51AFD7ED558CCD % 2 ^ 64
    let x := Nat.xor x (x / 2 ^ 33)
    let x := x * 0xC4CEB9FE1A85EC53 % 2 ^ 64
    Nat.xor x (x / 2 ^ 33)

def Waiting.input? (x : Waiting) : Option Input :=
  match x.item with
  | .input i => some i
  | .mail .. => none

/-- The set of its event slice that an input may be held in (R278, R347): slice and set of its hash. -/
def holdSet (i : Input) : Nat × Nat :=
  let ix := if i.kind = .event then i.w1.toNat else i.w1.toNat % 2 ^ 32
  (i.dst / 256 % 16 * 16 + i.dst % 16, vecHash .int64 (lcidOf i.dst * 2 ^ 38 + i.slot * 2 ^ 32 + ix) % 1024)

/-- The sector of a location, whatever its tag (R281). -/
def Hive.sector (h : Hive) (loc : Nat) : Option Sector := h.sectors.find? fun x => x.loc == loc / 32

/-- Home slice of a virtual address, as die × 16 + slice (R279). -/
def homeSlice (h : Hive) (va : Nat) : Nat :=
  let x := Nat.xor (Nat.xor (Nat.xor (va / 2 ^ 8 % 256) (va / 2 ^ 16 % 256))
      (Nat.xor (va / 2 ^ 24 % 256) (va / 2 ^ 32 % 256)))
    (Nat.xor (Nat.xor (va / 2 ^ 40 % 256) (va / 2 ^ 48 % 256)) (va / 2 ^ 56 % 2))
  (h.homeDie[x / 16]?).getD (x / 16) * 16 + x % 16

/-- The unit of a hive's slice number, die * 16 + slice. -/
def sliceUnit (hive n : Nat) : Faulty := .slice hive (n / 16) (n % 16)

/-- The controller of a super or LPDDR6 location delivers no data: its line tags have failed (R292). -/
def State.silent (s : State) (loc : Nat) : Bool :=
  let hv := hiveOfPhys loc
  let l := (s.hiveAt hv).mutes
  !l.isEmpty && (if loc < 2 ^ 46 then l.contains (.comb hv ((loc - 2 ^ 44) / 2 ^ 31 % 256))
    else l.contains (.channel hv (loc / 2 ^ 8 % 32)))

/-- The slice that holds a sector delivers no data: its tags have failed (R292). -/
def Hive.sectorMute (h : Hive) (hive : Nat) (x : Sector) : Bool :=
  !h.mutes.isEmpty && h.mutes.contains (sliceUnit hive (homeSlice h (x.va * 32)))

/-- Write a dirty sector back to its controller with its marks (R280, R293); a slice that delivers no data gives none of its
words, and they are marked (R292; log entry 69). -/
def State.sectorBack (s : State) (x : Sector) : State :=
  let hive := hiveOfPhys (x.loc * 32)
  if !x.dirty then s
  else if (s.hiveAt hive).sectorMute hive x then
    { s with marks := [0, 1, 2, 3].foldl (fun m k => ins m (x.loc * 4 + k)) s.marks }
  else
    let s := s.writeBytes (x.loc * 32) x.data
    let bad := (List.range 4).filter fun k => (x.marks[k]?).getD false
    { s with marks := bad.foldl (fun m k => ins m (x.loc * 4 + k)) s.marks }

/-- Comb of the apiary whose super holds a location. -/
def combOfPhys (loc : Nat) : Nat := hiveOfPhys loc * 256 + (loc - 2 ^ 44) / 2 ^ 31 % 256

/-- Frame bank `b` of comb `n` of the apiary. -/
def State.frameBank (s : State) (n b : Nat) : FrameBank :=
  (look (s.combAt n).banks b).getD (FrameBank.reset (s.hiveAt (n / 256)).t0 b)

/-- The refresh time that comes after a cycle, of a bank whose next known one is `due` (R287). -/
def refreshAfter (due now : Nat) : Nat := if now < due then due else due + ((now - due) / 5850 + 1) * 5850

/-- A refresh of a bank that is no open frame is in progress: the one last performed, or the one last due (R287). -/
def State.bankRefreshes (s : State) (n b : Nat) : Bool :=
  let f := s.frameBank n b
  (f.refreshEnd.map fun e => decide (s.now < e)).getD false ||
    (decide (f.refreshDue ≤ s.now) && decide (s.now < refreshAfter f.refreshDue s.now - 5850 + 120))

/-- Number of a row of 1,024 bytes among all the rows of the supers. -/
def rowNumber (loc : Nat) : Nat := loc / 1024

/-- A row that a slice has opened is open for 45 cycles (R194, R286). -/
def Comb.rowOpen (c : Comb) (now row : Nat) : Bool := c.rows.any fun r => r.1 == row && decide (now < r.2 + 45)

/-- A bank takes its next activate 68 cycles after its last (R194). -/
def Comb.bankBusy (c : Comb) (now row : Nat) : Bool :=
  c.rows.any fun r => r.1 / 2 ^ 14 == row / 2 ^ 14 && decide (now < r.2 + 68)

/-- Activates of the comb in the last 64 cycles (R194). -/
def Comb.activated (c : Comb) (now : Nat) : Nat := (c.activates.filter fun t => decide (now < t + 64)).length

/-- A sector access of a slice needs an activate of its own: its row is not open (R286). A sector request that is performed
while its row is open is taken to have waited when the row opened (DESIGN CHOICE, log entry 62). -/
def State.needsRow (s : State) (loc : Nat) : Bool :=
  memCode loc == 4 && !(s.combAt (combOfPhys loc)).rowOpen s.now (rowNumber loc)

/-- A sector access of a slice waits: for its bank's row cycle, for a refresh, or for the comb's budget of 16 activates in 64
cycles, of which `extra` are spoken for (R194, R286). -/
def State.rowWaits (s : State) (loc extra : Nat) : Bool :=
  let n := combOfPhys loc
  let c := s.combAt n
  s.needsRow loc && (c.bankBusy s.now (rowNumber loc) || s.bankRefreshes n (loc / 2 ^ 24 % 128) ||
    decide (16 ≤ c.activated s.now + extra))

/-- A row of a super is activated for page traffic, if it is not open, which counts in its comb's budget (R194, R286). -/
def State.pageActivate (s : State) (loc : Nat) : State :=
  if s.needsRow loc then
    let c := s.combAt (combOfPhys loc)
    s.setComb (combOfPhys loc) { c with activates := s.now :: c.activates.filter fun t => decide (s.now < t + 64)
                                        rows := (rowNumber loc, s.now) :: c.rows.filter fun r => decide (s.now < r.2 + 68) }
  else s

/-- The write-back of a line must wait (R286). -/
def State.lineWaits (s : State) (l : List Sector) (extra : Nat) : Bool :=
  match l.find? fun x => x.dirty with
  | some x => s.rowWaits (x.loc * 32) extra
  | none => false

/-- Write back the dirty sectors of a line under one activate (R280, R286). -/
def State.lineBack (s : State) (l : List Sector) : State :=
  let s := match l.find? fun x => x.dirty with
    | some x => s.pageActivate (x.loc * 32)
    | none => s
  l.foldl State.sectorBack s

/-- The sectors that a hive's slices hold of a line. -/
def Hive.lineSectors (h : Hive) (line : Nat) : List Sector := h.sectors.filter fun x => x.loc / 8 == line

/-- Evict a line: its dirty sectors are written back (R280). -/
def State.evict (s : State) (hive line : Nat) : State :=
  let s := s.lineBack ((s.hiveAt hive).lineSectors line)
  s.setHive hive { s.hiveAt hive with sectors := (s.hiveAt hive).sectors.filter fun x => x.loc / 8 != line }

/-- The slice, and the set of it, that hold the line of a virtual address (R278, R279). -/
def setOf (h : Hive) (va : Nat) : Nat × Nat := (homeSlice h va, Config.sliceSet (va / 256) % 1024)

/-- The lines that a set holds, by location / 256. -/
def Hive.linesIn (h : Hive) (st : Nat × Nat) : List Nat :=
  ((h.sectors.filter fun x => setOf h (x.va * 32) == st).map fun x => x.loc / 8).eraseDups

/-- Ways of a set that held events take, eight to a way (R278, R347). -/
def Hive.eventWays (h : Hive) (st : Nat × Nat) : Nat :=
  ((h.waiting.filter fun x => x.stage == .hold && (x.input?.map fun i => decide (holdSet i = st)).getD false).length + 7) / 8

/-- A set has as many lines as its 16 ways leave for data (R278). -/
def Hive.setFull (h : Hive) (st : Nat × Nat) : Bool := decide (16 - h.eventWays st ≤ (h.linesIn st).length)

/-- The line that a set gives up: which one is not defined, so a free value chooses (R280, log entry 42). -/
def State.victim (s : State) (hive : Nat) (st : Nat × Nat) : Option Nat :=
  let l := (s.hiveAt hive).linesIn st
  l[s.takeFree.1.toNat % l.length]?

/-- A set gives up one of its lines. -/
def State.evictOne (s : State) (hive : Nat) (st : Nat × Nat) : State :=
  match s.victim hive st with
  | some line => s.takeFree.2.evict hive line
  | none => s

/-- A line comes into a set: a full one gives up another (R278, R280). -/
def State.makeWay (s : State) (hive : Nat) (st : Nat × Nat) : State :=
  if (s.hiveAt hive).setFull st then s.evictOne hive st else s

/-- A held event has come into a set: a way that events take holds no data (R278). -/
def State.dropWay (s : State) (hive : Nat) (st : Nat × Nat) : State :=
  let h := s.hiveAt hive
  if 16 - h.eventWays st < (h.linesIn st).length then s.evictOne hive st else s

/-- The tag of a line: address-space id and virtual address (R280). -/
def tagOf (asid va : Nat) : Nat := asid * 2 ^ 57 + va / 256 * 256

/-- Enter a pair (own tag, holding tag) in the remap filter of the slice that has missed, which holds 256 (R281). -/
def State.addRemap (s : State) (hive va tag held : Nat) : State :=
  let h := s.hiveAt hive
  let pair := (homeSlice h va, tag, held)
  if h.remap.contains pair then s
  else
    let own := h.remap.filter fun q => q.1 == pair.1
    let rest := h.remap.filter fun q => q.1 != pair.1
    s.setHive hive { h with remap := pair :: (own.take 255 ++ rest) }

/-- The tag under which a line that no slice holds is filled: the accessor's, or the one that its remap filter names
(R281). -/
def Hive.fillTag (h : Hive) (asid va loc : Nat) : Nat × Nat :=
  match h.remap.find? fun q => q.1 == homeSlice h va && q.2.1 == tagOf asid va with
  | some q => (q.2.2 / 2 ^ 57, q.2.2 % 2 ^ 57 + loc % 256)
  | none => (asid, va)

/-- The write-back of the line that a full set gives up must wait, behind `extra` activates of the same access (R280,
R286). -/
def State.wayWaits (s : State) (hive : Nat) (st : Nat × Nat) (loc : Nat) : Bool :=
  (s.hiveAt hive).setFull st && match s.victim hive st with
    | some line => s.lineWaits ((s.hiveAt hive).lineSectors line)
        (if s.needsRow loc && combOfPhys loc == combOfPhys (line * 256) then 1 else 0)
    | none => false

/-- An access that its slice must fetch a sector for waits: for the sector's row, or for the write-back that makes way
(R280, R286). -/
def State.fillWaits (s : State) (hive asid va loc : Nat) : Bool :=
  let h := s.hiveAt hive
  if (h.sector loc).isSome then false
  else s.rowWaits loc 0 ||
    (!(h.sectors.any fun x => x.loc / 8 == loc / 256) && s.wayWaits hive (setOf h (h.fillTag asid va loc).2) loc)

/-- Bring the sector of a location from its controller into its line, under a tag (R280, R286, R293). A controller whose data
is not delivered gives none of its words (R292; log entry 69). -/
def State.bringSector (s : State) (hive asid va loc : Nat) : State :=
  let s := s.pageActivate loc
  let a := loc / 32 * 32
  let ms := [0, 8, 16, 24].map fun k => s.marked (a + k) || s.silent loc
  let h := s.hiveAt hive
  s.setHive hive { h with
    sectors := ⟨loc / 32, asid, va / 32, false, Memory.bytes s.mem a 32, ms⟩ :: h.sectors }

/-- An access by address-space id and virtual address reaches the sector of a location (R280, R281). A line that a slice
holds is reached under its holding tag, and the slice that misses under another tag enters the pair in its remap filter; a
line that no slice holds is filled under the accessor's tag, or under the holding tag that the filter names. -/
def State.fill (s : State) (hive asid va loc : Nat) : State :=
  let h := s.hiveAt hive
  let tag := tagOf asid va
  match h.sectors.find? fun x => x.loc / 8 == loc / 256 with
  | some y =>
    let held := tagOf y.asid (y.va * 32)
    let s := if held = tag then s else s.addRemap hive va tag held
    if (h.sector loc).isSome then s else s.bringSector hive y.asid (y.va / 8 * 256 + loc % 256) loc
  | none =>
    let q := h.fillTag asid va loc
    (s.makeWay hive (setOf h q.2)).bringSector hive q.1 q.2 loc

/-- Replace the sector of a location. -/
def Hive.setSector (h : Hive) (x : Sector) : Hive :=
  { h with sectors := h.sectors.map fun y => if y.loc = x.loc then x else y }

/-- Byte of a location in the super or LPDDR6 as the hive's agents see it: a slice copy if there is one. -/
def State.cached (s : State) (loc : Nat) : Byte :=
  match (s.hiveAt (hiveOfPhys loc)).sector loc with
  | some x => (x.data[loc % 32]?).getD 0
  | none => s.byte loc

def State.cachedMark (s : State) (loc : Nat) : Bool :=
  match (s.hiveAt (hiveOfPhys loc)).sector loc with
  | some x => (x.marks[loc % 32 / 8]?).getD false
  | none => s.marked loc

/-- The word of a location cannot be read: it is marked, or what holds it delivers no data (R292; log entry 69). -/
def State.unreadable (s : State) (loc : Nat) : Bool :=
  let hv := hiveOfPhys loc
  s.cachedMark loc || match (s.hiveAt hv).sector loc with
    | some x => (s.hiveAt hv).sectorMute hv x
    | none => s.silent loc

def State.cachedBytes (s : State) (loc : Nat) : Nat → List Byte
  | 0 => []
  | n + 1 => s.cached loc :: s.cachedBytes (loc + 1) n

/-- Replace bytes of a list from position `k`. -/
def overwrite (l : List Byte) (k : Nat) (d : List Byte) : List Byte := l.take k ++ d ++ l.drop (k + d.length)

/-- Write bytes of one sector at the place that holds its value: the slice copy, else the controller. -/
def State.cachedWrite (s : State) (loc : Nat) (d : List Byte) : State :=
  let hv := hiveOfPhys loc
  match (s.hiveAt hv).sector loc with
  | some x =>
    let k := loc % 32
    let ms := (List.range 4).map fun j =>
      (x.marks[j]?).getD false && !(decide (k ≤ 8 * j) && decide (8 * j + 8 ≤ k + d.length))
    s.setHive hv ((s.hiveAt hv).setSector { x with data := overwrite x.data k d, marks := ms, dirty := true })
  | none => s.writeBytes loc d

/-- Mark the doubleword of a location where its value is held. -/
def State.markAt (s : State) (loc : Nat) : State :=
  let hv := hiveOfPhys loc
  match (s.hiveAt hv).sector loc with
  | some x => s.setHive hv ((s.hiveAt hv).setSector { x with marks := x.marks.set (loc % 32 / 8) true })
  | none => { s with marks := ins s.marks (loc / 8) }

/-! ### Shadow copies (R261) -/

/-- Key of a shadow byte: job, hive, address. -/
def shadowKey (job hive addr : Nat) : Nat := (job * 64 + hive) * 2 ^ 64 + addr

/-- The bytes of a page as a cell of its hive reads them: the holder of a shadowed page sees its shadow (R130,
R261). -/
def State.pageBytes (s : State) (g : CellId) (p : Page) (addr : Nat) (published : Nat → Byte) :
    Nat → Nat → List Byte
  | _, 0 => []
  | k, n + 1 =>
    let b := if p.state == .shadowed && p.heldBy g then
        (look s.shadow (shadowKey (((s.cellAt g).job).getD 0) (hiveOf g) (addr + k))).getD (published k)
      else published k
    b :: s.pageBytes g p addr published (k + 1) n

/-- A word that is marked where it is published is marked for a reader: not for the holder of a shadowed page that has
replaced it in the shadow (R261, R292). -/
def State.marksFor (s : State) (g : CellId) (p : Page) (addr : Nat) (published : Bool) : Bool :=
  published && !(p.state == .shadowed && p.heldBy g &&
    s.shadowGood.contains (shadowKey (((s.cellAt g).job).getD 0) (hiveOf g) addr / 8))

/-- Write bytes of a shadowed page into the shadow and note that it has been written (R240, R261). -/
def State.shadowWrite (s : State) (g : CellId) (p : Page) (addr : Nat) (d : List Byte) : State :=
  match s.jobOf g with
  | none => s
  | some (n, j) =>
    let rec go (m : List Host.Cell) (k : Nat) : List Byte → List Host.Cell
      | [] => m
      | b :: r => go (put m (shadowKey n (hiveOf g) (addr + k)) b) (k + 1) r
    let good := if d.length = 8 then ins s.shadowGood (shadowKey n (hiveOf g) addr / 8) else s.shadowGood
    ({ s with shadow := go s.shadow 0 d, shadowGood := good }).setJob n (j.setPage { p with dirty := true })

/-! ### Actor slot descriptors (R50) -/

def State.slotValid (s : State) (g : CellId) (n : Nat) : Bool := s.desc g n 0 / 2 ^ 63 == 1
def State.slotEncv (s : State) (g : CellId) (n : Nat) : Nat := s.desc g n 0 / 2 ^ 61 % 4
def State.slotPrio (s : State) (g : CellId) (n : Nat) : Nat := s.desc g n 0 / 2 ^ 59 % 4
def State.slotKind (s : State) (g : CellId) (n : Nat) : Nat := s.desc g n 0 / 2 ^ 57 % 4
def State.slotTrapEnt (s : State) (g : CellId) (n : Nat) : Nat := s.desc g n 0 / 2 ^ 19 % 2 ^ 19
def State.slotEntry (s : State) (g : CellId) (n : Nat) : Nat := s.desc g n 0 % 2 ^ 19
def State.slotRate (s : State) (g : CellId) (n : Nat) : Nat := s.desc g n 1 / 2 ^ 48
def State.slotDefdl (s : State) (g : CellId) (n : Nat) : Nat := s.desc g n 1 / 2 ^ 32 % 2 ^ 12
def State.slotFen (s : State) (g : CellId) (n : Nat) : Nat := s.desc g n 1 % 32
def State.slotQbase (s : State) (g : CellId) (n : Nat) : Nat := s.desc g n 2 % 2 ^ 19
def State.slotQlog (s : State) (g : CellId) (n : Nat) : Nat := s.desc g n 2 / 2 ^ 20 % 16
def State.slotHead (s : State) (g : CellId) (n : Nat) : Nat := s.desc g n 3 % 2 ^ 32
def State.slotTail (s : State) (g : CellId) (n : Nat) : Nat := s.desc g n 3 / 2 ^ 32
def State.setQptr (s : State) (g : CellId) (n head tail : Nat) : State :=
  s.write (descAddr g n 3) 8 (head % 2 ^ 32 + tail % 2 ^ 32 * 2 ^ 32)

/-- Entries between the head and the tail of a ring, counted modulo 2^32 (R50, R306). -/
def State.ringCount (s : State) (g : CellId) (n : Nat) : Nat :=
  (s.slotTail g n + 2 ^ 32 - s.slotHead g n) % 2 ^ 32

def State.ringFull (s : State) (g : CellId) (n : Nat) : Bool := decide (2 ^ s.slotQlog g n ≤ s.ringCount g n)

/-- Address of the ring entry at a position (R306). -/
def State.ringAddr (s : State) (g : CellId) (n pos : Nat) : Nat :=
  tcmBase g + s.slotQbase g n + 32 * (pos % 2 ^ s.slotQlog g n)

def SlotDyn.empty (n : Nat) : SlotDyn := ⟨n, [], [], 0, [], [], 0, 0, [], [], []⟩
def Cell.slotDyn (c : Cell) (n : Nat) : SlotDyn := (look c.slots n).getD (SlotDyn.empty n)
def State.setSlotDyn (s : State) (g : CellId) (n : Nat) (d : SlotDyn) : State :=
  s.setCell g { s.cellAt g with slots := put (s.cellAt g).slots n d }

/-- The strand runs a firing of its cell: it is not part of another cell's swarm. -/
def Strand.ownFiring (t : Strand) : Option Firing := if t.run = .claimed || t.isFollower then none else t.firing

/-- The firings of a cell, on strands and switched out. -/
def Cell.firings (c : Cell) : List Firing :=
  (c.strands.toList.filterMap Strand.ownFiring) ++ c.switched.map fun w => w.firing

/-- The firing of a slot's ordinary actor (R308). -/
def Cell.firingOf (c : Cell) (n : Nat) : Option Firing := c.firings.find? fun f => f.slot == n && !f.task
def Cell.hasFiring (c : Cell) (n : Nat) : Bool := (c.firingOf n).isSome

/-- Inputs of a slot in its ring that no firing has reserved (R307): a firing keeps the RATE it started with (R50). -/
def State.unreserved (s : State) (g : CellId) (n : Nat) : Nat :=
  let d := (s.cellAt g).slotDyn n
  match (s.cellAt g).firingOf n with
  | some f => s.ringCount g n - f.rate
  | none => s.ringCount g n - (d.claimed.length + d.finished.length)

/-- What waits is an input of the slot. -/
def Waiting.forSlot (x : Waiting) (g : CellId) (n : Nat) : Bool :=
  match x.item with
  | .input i => i.dst == g && i.slot == n
  | .mail .. => false

/-- Inputs of a slot that wait in the comb spill queue. -/
def State.spilled (s : State) (g : CellId) (n : Nat) : Nat :=
  ((s.hiveAt (hiveOf g)).waiting.filter fun x => x.stage == .spill && x.forSlot g n).length

/-- EVCOUNT of the current firing's slot (R34, R307). For a follower of a swarm that is the slot of the same number in its own
cell, and not the leader's (R173; DESIGN CHOICE, log entry 25). -/
def State.evcount (s : State) : Nat :=
  s.unreserved s.curCell s.me.slotNo + s.spilled s.curCell s.me.slotNo

/-- A slot's ordinary actor is READY (R308). -/
def State.ready (s : State) (g : CellId) (n : Nat) : Bool :=
  s.slotValid g n && s.slotKind g n != 2 && !(s.cellAt g).hasFiring n && decide (s.slotRate g n ≤ s.ringCount g n)
    && decide (0 < s.slotRate g n)

/-- Offer the free strands of a cell to the firing choice (R311, R314). -/
def State.offer (s : State) (g : CellId) : State :=
  let free := [0, 1, 2, 3].filter fun k : StrandId => (s.strandAt g k).run == .free
  if free.isEmpty then s.watchStall g
  else free.foldl (fun s k => if s.pending.contains (.firingChoice g k) then s else s.push (.firingChoice g k)) s

/-- A slot has changed: an actor that has become READY is a candidate from now on (R309, R314). -/
def State.noteReady (s : State) (g : CellId) (n : Nat) (was : Bool) : State :=
  if !was && s.ready g n then s.setSlotDyn g n { (s.cellAt g).slotDyn n with readyAt := s.now } else s

/-! ### The actor slot table (R9, R50) -/

/-- The writable bits of doubleword `k` of a slot descriptor: QPTR is read-only and every other bit of no field is
reserved (R9, R50). -/
def slotMask (k : Nat) : Nat :=
  match k with
  | 0 => 0xFE00003FFFFFFFFF
  | 1 => 0xFFFF0FFF0000001F
  | 2 => 0xF7FFFF
  | 4 => 0x7FFFF
  | 5 => 0xFFFFFFFFFFFFFFFF
  | _ => 0

/-- What a store of `v` to `size` bytes at offset `off` of the slot table leaves there, given what stood there. -/
def slotStore (off size old v : Nat) : Nat :=
  let m := slotMask (off / 8 % 8) / 2 ^ (8 * (off % 8)) % 2 ^ (8 * size)
  Nat.lor (Nat.land v m) (Nat.land old (2 ^ (8 * size) - 1 - m))

/-- Store to TCM: in the slot table only the writable bits change, and an actor that becomes READY is a candidate (R9, R50,
R314). -/
def State.writeTcm (s : State) (d : CellId) (off size v : Nat) : State :=
  if 0x7F000 ≤ off then
    let n := off / 64 % 64
    ((s.write (tcmBase d + off) size (slotStore off size (s.read (tcmBase d + off) size) v)).noteReady d n (s.ready d n)).offer d
  else s.write (tcmBase d + off) size v

/-- Store doublewords to TCM, one after another. -/
def State.writeTcmWords (s : State) (d : CellId) (off : Nat) : List Word → State
  | [] => s
  | v :: r => (s.writeTcm d off 8 v.toNat).writeTcmWords d (off + 8) r

/-! ### Performing at the home (R251, R252) -/

/-- Read `size` bytes at a place for a cell: the value, or `UNCORRECTABLE` with the memory code (R129 step 6). -/
def State.performRead (s : State) (g : CellId) (pl : Place) (addr size : Nat) : Except Trap Nat × State :=
  let bad (code : Nat) : Except Trap Nat := .error ⟨.uncorrectable, BitVec.ofNat 64 addr, BitVec.ofNat 64 code, 0, 0, 0⟩
  match pl with
  | .tcm d off =>
    let s := s.touch d off
    (if s.rangeMarked (tcmBase d + off) size then bad 0 else .ok (s.read (tcmBase d + off) size), s)
  | .z off =>
    let a := zAddr g 0 + off
    (if s.rangeMarked a size then bad 1 else .ok (s.read a size), s)
  | .scratch n off p =>
    let a := scratchAddr n off
    (if s.marksFor g p addr (s.rangeMarked a size) then bad 2
     else .ok (ofBytes (s.pageBytes g p addr (fun k => s.byte (a + k)) 0 size)), s)
  | .virt va loc p =>
    let hv := hiveOfPhys loc
    let present := ((s.hiveAt hv).sector loc).isSome
    let s := s.fill hv (((s.jobOf g).map fun j => j.2.asid).getD 0) va loc
    (if s.marksFor g p addr (s.unreadable loc) then bad (if present then 3 else memCode loc)
     else .ok (ofBytes (s.pageBytes g p addr (fun k => s.cached (loc + k)) 0 size)), s)
  | _ => (.ok 0, s)

/-- Write `size` bytes at a place for a cell (R130, R252). -/
def State.performWrite (s : State) (g : CellId) (pl : Place) (addr size v : Nat) : State :=
  match pl with
  | .tcm d off => (s.touch d off).writeTcm d off size v
  | .scratch n off p =>
    if p.state = .shadowed then s.shadowWrite g p addr (toBytes v size) else s.write (scratchAddr n off) size v
  | .virt va loc p =>
    if p.state = .shadowed then s.shadowWrite g p addr (toBytes v size)
    else
      let s := s.fill (hiveOfPhys loc) (((s.jobOf g).map fun j => j.2.asid).getD 0) va loc
      s.cachedWrite loc (toBytes v size)
  | _ => s

/-- The value of the sub-word that an earlier store of the strand, not yet performed, gives to a byte (R131,
R252). -/
def Cell.forwarded (c : Cell) (fid : Nat) (before : Nat) (a : Nat) (b : Byte) : Byte :=
  c.stores.foldl (fun b st =>
    match st.kind with
    | .store addr size v =>
      if st.fid = fid && st.seq < before && addr ≤ a && a < addr + size then
        BitVec.ofNat 8 (v.toNat / 2 ^ (8 * (a - addr)))
      else b
    | _ => b) b

/-- Bytes from `addr + k` with the strand's earlier stores over them (R131). -/
def Cell.forwardAll (c : Cell) (fid before addr : Nat) : Nat → List Byte → List Byte
  | _, [] => []
  | k, b :: r => c.forwarded fid before (addr + k) b :: c.forwardAll fid before addr (k + 1) r

/-- An earlier store of the strand, not yet performed, replaces the whole 8-byte word of an address, so that no byte of a
load comes from what the word holds (R131, R133). -/
def Cell.replaces (c : Cell) (fid before addr : Nat) : Bool :=
  c.stores.any fun st =>
    match st.kind with
    | .store a size _ => st.fid == fid && decide (st.seq < before) && size == 8 && a / 8 == addr / 8
    | _ => false

/-- A core load of the current strand: at the home, with the strand's own earlier stores over it (R131). -/
def State.loadValue (s : State) (fid before addr size : Nat) : Except Trap Nat × State :=
  let g := s.curCell
  let own (v : Nat) : Nat := ofBytes ((s.cellAt g).forwardAll fid before addr 0 (toBytes v size))
  match s.performRead g (s.place g addr) addr size with
  | (.error e, s') => (if (s.cellAt g).replaces fid before addr then .ok (own 0) else .error e, s')
  | (.ok v, s') => (.ok (own v), s')

/-- Extend a loaded number by its width code (R127). -/
def extendLoad (w : Fmt) (v : Nat) : Word :=
  match w with
  | .int8 => (BitVec.ofNat 8 v).signExtend 64
  | .int16 => (BitVec.ofNat 16 v).signExtend 64
  | .int32 => (BitVec.ofNat 32 v).signExtend 64
  | .uint8 => (BitVec.ofNat 8 v).zeroExtend 64
  | .uint16 => (BitVec.ofNat 16 v).zeroExtend 64
  | .uint32 => (BitVec.ofNat 32 v).zeroExtend 64
  | _ => BitVec.ofNat 64 v

/-- Bytes of an integer width code: 1, 2, 4, 8 (R127). -/
def widthBytes (w : Fmt) : Nat := 2 ^ (w.code % 4)

end Sys2Proof.Machine
end

