-- ==== Sys2Proof/Machine/Operands.lean ====
section
/-! DEFINITION. Operand forms: integer widths and extension (R113), immediates and offsets (R93, R118), effective
addresses (R127, R128), and the elements of pointer operands (R21, R60, R146). -/

namespace Sys2Proof.Machine

/-! ### Integers of n bits (R113) -/

/-- Width in bits of an integer format code: 8, 16, 32, 64, whatever its sign (R116, R118). -/
def intBits (f : Fmt) : Nat := 8 * 2 ^ (f.code % 4)

/-- The low n bits of a register. -/
def lowBits (n : Nat) (v : Word) : Nat := v.toNat % 2 ^ n

/-- The signed value of n bits. -/
def toSigned (n x : Nat) : Int := if x % 2 ^ n < 2 ^ (n - 1) then (x % 2 ^ n : Nat) else (x % 2 ^ n : Nat) - (2 ^ n : Nat)

/-- The n-bit pattern of an integer. -/
def ofInt (n : Nat) (x : Int) : Nat := (x % (2 ^ n : Nat)).toNat

/-- Sign-extend n bits to 64 (R11, R113). -/
def sext (n x : Nat) : Word := BitVec.ofInt 64 (toSigned n x)
/-- Zero-extend n bits to 64. -/
def zext (n x : Nat) : Word := BitVec.ofNat 64 (x % 2 ^ n)

/-- Codes 0x4-0x7 are unsigned (R59, R118). -/
def isUnsignedInt (f : Fmt) : Bool := 4 ≤ f.code && f.code < 8

/-- Extension of a result by the format's sign (R118). -/
def extendBy (f : Fmt) (x : Nat) : Word := if isUnsignedInt f then zext (intBits f) x else sext (intBits f) x

/-- An IMM11 as n bits: sign-extended for codes 0x0-0x3, zero-extended for 0x4-0x6 (R93, R118). -/
def immBits (f : Fmt) (imm : BitVec 11) : Nat :=
  if isUnsignedInt f then imm.toNat % 2 ^ intBits f else ofInt (intBits f) imm.toInt

/-- An IMM11 that is always zero-extended (R72, R118). -/
def immZero (f : Fmt) (imm : BitVec 11) : Nat := imm.toNat % 2 ^ intBits f

/-! ### The integer operations on n-bit patterns (R116, R117); results are taken modulo 2^n -/

/-- The shift amount of an n-bit operation (R116). -/
def shAmt (n b : Nat) : Nat := b % n

def intAdd (n a b : Nat) : Nat := (a + b) % 2 ^ n
def intSub (n a b : Nat) : Nat := (a + 2 ^ n - b % 2 ^ n) % 2 ^ n
def intShl (n a b : Nat) : Nat := a * 2 ^ shAmt n b % 2 ^ n
def intShr (n a b : Nat) : Nat := a / 2 ^ shAmt n b
def intSha (n a b : Nat) : Nat := ofInt n (toSigned n a / (2 ^ shAmt n b : Nat))
def intRot (n a b : Nat) : Nat := Nat.lor (a * 2 ^ shAmt n b % 2 ^ n) (a / 2 ^ ((n - shAmt n b) % n))
def intLt (n a b : Nat) : Bool := decide (toSigned n a < toSigned n b)
def intMin (n a b : Nat) : Nat := if toSigned n a ≤ toSigned n b then a else b
def intMax (n a b : Nat) : Nat := if toSigned n a ≤ toSigned n b then b else a
def intMul (n a b : Nat) : Nat := a * b % 2 ^ n
def intMulh (n a b : Nat) : Nat := ofInt n (toSigned n a * toSigned n b / (2 ^ n : Nat))
def intMulhz (n a b : Nat) : Nat := a * b / 2 ^ n % 2 ^ n

/-- Leading zeros of an n-bit pattern. -/
def clz : Nat → Nat → Nat
  | 0, _ => 0
  | n + 1, a => if a / 2 ^ n % 2 = 1 then 0 else 1 + clz n a

/-- Trailing zeros of an n-bit pattern. -/
def ctz : Nat → Nat → Nat
  | 0, _ => 0
  | n + 1, a => if a % 2 = 1 then 0 else 1 + ctz n (a / 2)

/-- One bits of an n-bit pattern. -/
def popc : Nat → Nat → Nat
  | 0, _ => 0
  | n + 1, a => a % 2 + popc n (a / 2)

/-- The n/8 bytes in reverse order. -/
def bswap (n a : Nat) : Nat := ofBytes (toBytes a (n / 8)).reverse

/-- `DIV`: truncated toward zero; by zero -1; the one overflow wraps (R117). -/
def intDiv (n a b : Nat) : Nat :=
  if b % 2 ^ n = 0 then 2 ^ n - 1 else ofInt n ((toSigned n a).tdiv (toSigned n b))
/-- `REM`: the sign of the dividend; by zero the dividend (R117). -/
def intRem (n a b : Nat) : Nat :=
  if b % 2 ^ n = 0 then a % 2 ^ n else ofInt n ((toSigned n a).tmod (toSigned n b))
def intDivz (n a b : Nat) : Nat := if b = 0 then 2 ^ n - 1 else a / b
def intRemz (_n a b : Nat) : Nat := if b = 0 then a else a % b

/-! ### Bit fields (R120) -/

/-- The width of a field after the cut at bit 63. -/
def fieldWidth (wid off : Nat) : Nat := min wid (64 - off)
def bext (v : Word) (wid off : Nat) : Word :=
  let w := fieldWidth wid off
  if w = 0 then 0 else sext w (v.toNat / 2 ^ off)
def bextz (v : Word) (wid off : Nat) : Word := zext (fieldWidth wid off) (v.toNat / 2 ^ off)
def bins (d v : Word) (wid off : Nat) : Word :=
  let w := fieldWidth wid off
  BitVec.ofNat 64 (d.toNat % 2 ^ off + v.toNat % 2 ^ w * 2 ^ off + d.toNat / 2 ^ (off + w) * 2 ^ (off + w))

/-! ### Effective addresses (R127, R128) -/

/-- Base plus a signed offset in elements of `size` bytes, modulo 2^64. -/
def effAddr (base : Word) (off : Int) (size : Nat) : Nat := ofInt 64 (base.toNat + off * size)

/-- Base plus an index in elements, modulo 2^64 (R128). -/
def effIndexed (base index : Word) (size : Nat) : Nat := (base.toNat + index.toNat * size) % 2 ^ 64

/-- Target of a PC-relative branch or jump: the address of its bundle plus 8 × offset, modulo 2^19 (R87, R134). -/
def branchTarget (pc : Nat) (off : Int) : Nat := ofInt 19 (((pc / 8 * 8 : Nat) : Int) + 8 * off)

/-! ### Pointers (R20, R21) -/

def ptrAddr (p : Word) : Nat := p.toNat % 2 ^ 19
def ptrStride (p : Word) : Int := toSigned 20 (p.toNat / 2 ^ 20)
def ptrMode (p : Word) : Nat := p.toNat / 2 ^ 58 % 4
def ptrRing (p : Word) : Nat := p.toNat / 2 ^ 60 % 16

/-- MODE 3, RING above 13 or a reserved bit (R21). -/
def ptrMalformed (p : Word) : Bool :=
  ptrMode p == 3 || decide (13 < ptrRing p) || p.toNat / 2 ^ 40 % 2 ^ 18 != 0 || p.toNat / 2 ^ 19 % 2 != 0

/-- Address of element k of e bytes (R21). -/
def elemAddr (p : Word) (e : Nat) (k : Nat) : Nat :=
  let d : Int := if ptrMode p = 0 then e else ptrStride p
  if ptrMode p = 2 then
    let size := 2 ^ (ptrRing p + 6)
    let base := ptrAddr p / size * size
    (base + (((ptrAddr p - base : Nat) : Int) + k * d).emod size).toNat % 2 ^ 19
  else ofInt 19 (ptrAddr p + k * d)

/-- The pointer with ADDR replaced. -/
def ptrAt' (p : Word) (a : Nat) : Word := BitVec.ofNat 64 (p.toNat - ptrAddr p + a % 2 ^ 19)

/-- An operand: how many elements, and their size in half bytes (R60, R146). -/
structure Operand where
  n : Nat
  /-- size of an element in half bytes: 1 for INT4 and UINT4 -/
  half : Nat
  deriving DecidableEq, Repr

/-- ADDR after post-increment (R21, R146). -/
def ptrAfter (p : Word) (o : Operand) : Word :=
  if o.half = 1 then ptrAt' p (ptrAddr p + (o.n + 1) / 2) else ptrAt' p (elemAddr p (o.half / 2) o.n)

/-- Byte address of element k. -/
def operandAddr (p : Word) (half k : Nat) : Nat :=
  if half = 1 then (ptrAddr p + k / 2) % 2 ^ 19 else elemAddr p (half / 2) k

/-- The first misaligned element address among n elements of e bytes (R147). Element addresses repeat their
residues modulo e after at most e elements. -/
def firstMisaligned (p : Word) (e : Nat) : Nat → Nat → Option Nat
  | _, 0 => none
  | k, n + 1 => if elemAddr p e k % e != 0 then some (elemAddr p e k) else firstMisaligned p e (k + 1) n

/-- Check 2 of R147 for one pointer word. -/
def checkForm (p : Word) (o : Operand) : Except Trap Unit :=
  if ptrMalformed p || (o.half = 1 && ptrMode p != 0) then .error (accessTrap p 0) else .ok ()

/-- Check 3 of R147 for one pointer word. -/
def checkAlign (p : Word) (o : Operand) : Except Trap Unit :=
  if o.half ≤ 2 then .ok ()
  else
    let e := o.half / 2
    match firstMisaligned p e 0 (min o.n e) with
    | some a => .error ⟨.misaligned, BitVec.ofNat 64 a, BitVec.ofNat 64 e, 0, 0, 0⟩
    | none => .ok ()

/-- The first check of a list that fails. -/
def firstError : List (Except Trap Unit) → Except Trap Unit
  | [] => .ok ()
  | .ok _ :: r => firstError r
  | .error t :: _ => .error t

/-- Checks 2 and 3 of R147, each over the operands in the order D, A, B, M; which operand comes first the rule does not say
(DESIGN CHOICE, log entry 80). -/
def checkPtrs (l : List (Word × Operand)) : Except Trap Unit :=
  firstError ((l.map fun x => checkForm x.1 x.2) ++ l.map fun x => checkAlign x.1 x.2)

end Sys2Proof.Machine
end

