-- ==== Sys2Proof/Machine/Float.lean ====
section
/-! DEFINITION. Floating-point arithmetic (R58-R71, R73, R77-R79): exact values, one rounding by R67, flags by R79. -/

namespace Sys2Proof.Machine

/-- The parameters of R61: exponent and fraction bits. -/
def expBits (f : Fmt) : Nat :=
  match f with
  | .e4m3 => 4 | .e5m2 => 5 | .bf16 => 8 | .fp16 => 5 | .fp32 => 8 | _ => 11
def fracBits (f : Fmt) : Nat :=
  match f with
  | .e4m3 => 3 | .e5m2 => 2 | .bf16 => 7 | .fp16 => 10 | .fp32 => 23 | _ => 52
def fpBits (f : Fmt) : Nat := 1 + expBits f + fracBits f
def bias (f : Fmt) : Nat := 2 ^ (expBits f - 1) - 1

/-- The positive canonical NaN (R61). -/
def canonicalNan (f : Fmt) : Nat :=
  if f = .e4m3 then 0x7F else (2 ^ expBits f - 1) * 2 ^ fracBits f + 2 ^ (fracBits f - 1)

/-- Infinity of a format that has one (R61). -/
def infBits (f : Fmt) (neg : Bool) : Nat := neg.toNat * 2 ^ (fpBits f - 1) + (2 ^ expBits f - 1) * 2 ^ fracBits f

/-- Largest finite value (R61). -/
def maxBits (f : Fmt) (neg : Bool) : Nat :=
  neg.toNat * 2 ^ (fpBits f - 1) +
    (if f = .e4m3 then 0x7E else (2 ^ expBits f - 1) * 2 ^ fracBits f - 1)

def zeroBits (f : Fmt) (neg : Bool) : Nat := neg.toNat * 2 ^ (fpBits f - 1)

/-- What a pattern stands for: a NaN (signalling or not), an infinity, or (-1)^neg × m × 2^e (R61, R62). -/
inductive FVal where
  | nan (signalling : Bool)
  | inf (neg : Bool)
  | fin (neg : Bool) (m : Nat) (e : Int)
  deriving DecidableEq, Repr

def unpack (f : Fmt) (x : Nat) : FVal :=
  let neg := x / 2 ^ (fpBits f - 1) % 2 == 1
  let ex := x / 2 ^ fracBits f % 2 ^ expBits f
  let fr := x % 2 ^ fracBits f
  if f = .e4m3 && ex = 15 && fr = 7 then .nan false
  else if f != .e4m3 && ex = 2 ^ expBits f - 1 then
    if fr = 0 then .inf neg else .nan (fr < 2 ^ (fracBits f - 1))
  else if ex = 0 then .fin neg fr (1 - (bias f : Int) - fracBits f)
  else .fin neg (2 ^ fracBits f + fr) ((ex : Int) - bias f - fracBits f)

/-- The flags of R32. -/
abbrev Flags := BitVec 5
def flagNV : Flags := 16
def flagDZ : Flags := 8
def flagOF : Flags := 4
def flagUF : Flags := 2
def flagNX : Flags := 1

/-- Bits needed to write `m`. -/
def bitLen (m : Nat) : Nat := if m = 0 then 0 else Nat.log2 m + 1

/-- Does rounding move the magnitude up, given the kept part and what is cut off against its half (R66)? -/
def roundsUp (rm : Rm) (neg : Bool) (odd : Bool) (inexact : Bool) (half : Ordering) : Bool :=
  match rm with
  | .rne => half == .gt || (half == .eq && odd)
  | .rtz => false
  | .rup => inexact && !neg
  | .rdn => inexact && neg
  | .rna => half != .lt

/-- Round (m + ε) × 2^e, ε in (0,1) when `sticky`, to a multiple of 2^q: the multiple and whether it is inexact. -/
def roundAt (rm : Rm) (neg : Bool) (m : Nat) (e : Int) (sticky : Bool) (q : Int) : Nat × Bool :=
  if q ≤ e then (m * 2 ^ (e - q).toNat, sticky)
  else
    let sh := (q - e).toNat
    let kept := m / 2 ^ sh
    let cut := m % 2 ^ sh
    let inexact := cut != 0 || sticky
    let half := if 2 * cut < 2 ^ sh then Ordering.lt
      else if 2 * cut = 2 ^ sh then (if sticky then .gt else .eq) else .gt
    (kept + (roundsUp rm neg (kept % 2 == 1) inexact half).toNat, inexact)

/-- Overflow by the rounding mode and the saturation form (R67). -/
def overflow (f : Fmt) (rm : Rm) (sat neg : Bool) : Nat :=
  let toInf := match rm with
    | .rne | .rna => true
    | .rtz => false
    | .rup => !neg
    | .rdn => neg
  if sat || !toInf then maxBits f neg
  else if f = .e4m3 then canonicalNan f
  else infBits f neg

/-- Round a non-zero exact value by R67: the pattern and the flags of R79. -/
def roundTo (f : Fmt) (rm : Rm) (sat neg : Bool) (m : Nat) (e : Int) (sticky : Bool) : Nat × Flags :=
  let p := fracBits f + 1
  let sign := neg.toNat * 2 ^ (fpBits f - 1)
  let q := e + bitLen m - p
  let (r, nx) := roundAt rm neg m e sticky q
  let (r, q) := if r = 2 ^ p then (2 ^ (p - 1), q + 1) else (r, q)
  let top : Int := q + p - 1
  let emax : Int := if f = .e4m3 then 8 else bias f
  let emin : Int := 1 - (bias f : Int)
  if emax < top || (f = .e4m3 && top = 8 && r = 15) then (overflow f rm sat neg, flagOF ||| flagNX)
  else if top < emin then
    let (r, nx) := roundAt rm neg m e sticky (emin - (p - 1))
    (sign + r, if nx then flagUF ||| flagNX else 0)
  else (sign + (top - emin + 1).toNat * 2 ^ (p - 1) + (r - 2 ^ (p - 1)), if nx then flagNX else 0)

/-- A NaN result with the flag of a signalling operand (R64). -/
def nanResult (f : Fmt) (signalling : Bool) : Nat × Flags := (canonicalNan f, if signalling then flagNV else 0)

def FVal.isNan : FVal → Bool
  | .nan _ => true
  | _ => false
def FVal.isSnan : FVal → Bool
  | .nan b => b
  | _ => false
def FVal.neg : FVal → FVal
  | .nan b => .nan b
  | .inf n => .inf !n
  | .fin n m e => .fin (!n) m e

/-- An infinite result: an infinity, which E4M3 does not have (R67). -/
def infResult (f : Fmt) (neg : Bool) : Nat × Flags :=
  if f = .e4m3 then (canonicalNan f, 0) else (infBits f neg, 0)

/-- Round an exact signed sum of units of 2^e; an exact zero has the sign given (R64, R67). -/
def roundInt (f : Fmt) (rm : Rm) (sat : Bool) (v : Int) (e : Int) (zeroNeg : Bool) : Nat × Flags :=
  if v = 0 then (zeroBits f zeroNeg, 0) else roundTo f rm sat (v < 0) v.natAbs e false

def signedInt (neg : Bool) (m : Nat) : Int := if neg then -(m : Int) else m

/-- The exact sum of two values, rounded once (R64, R67). -/
def addVal (f : Fmt) (rm : Rm) (sat : Bool) (a b : FVal) : Nat × Flags :=
  match a, b with
  | .nan x, y => nanResult f (x || y.isSnan)
  | _, .nan y => nanResult f y
  | .inf x, .inf y => if x = y then infResult f x else (canonicalNan f, flagNV)
  | .inf x, .fin .. => infResult f x
  | .fin .., .inf y => infResult f y
  | .fin na ma ea, .fin nb mb eb =>
    let e := min ea eb
    let v := signedInt na (ma * 2 ^ (ea - e).toNat) + signedInt nb (mb * 2 ^ (eb - e).toNat)
    roundInt f rm sat v e (if ma = 0 && mb = 0 && na = nb then na else rm == .rdn)

/-- The exact product as a value; `none` for 0 × ∞. -/
def mulVal (a b : FVal) : Option FVal :=
  match a, b with
  | .nan x, y => some (.nan (x || y.isSnan))
  | x, .nan y => some (.nan (y || x.isSnan))
  | .inf x, .inf y => some (.inf (x != y))
  | .inf x, .fin y m _ => if m = 0 then none else some (.inf (x != y))
  | .fin x m _, .inf y => if m = 0 then none else some (.inf (x != y))
  | .fin x m e, .fin y m' e' => some (.fin (x != y) (m * m') (e + e'))

/-- Deliver a value rounded once. -/
def deliver (f : Fmt) (rm : Rm) (sat : Bool) (v : FVal) : Nat × Flags :=
  match v with
  | .nan b => nanResult f b
  | .inf n => infResult f n
  | .fin n m e => if m = 0 then (zeroBits f n, 0) else roundTo f rm sat n m e false

def mulRound (f : Fmt) (rm : Rm) (sat : Bool) (a b : FVal) : Nat × Flags :=
  match mulVal a b with
  | none => (canonicalNan f, flagNV)
  | some v => deliver f rm sat v

/-- a × b + c rounded once; 0 × ∞ raises NV whatever the addend (R79). -/
def fmaRound (f : Fmt) (rm : Rm) (sat : Bool) (a b c : FVal) : Nat × Flags :=
  match mulVal a b with
  | none => (canonicalNan f, flagNV)
  | some v => addVal f rm sat v c

def divRound (f : Fmt) (rm : Rm) (sat : Bool) (a b : FVal) : Nat × Flags :=
  match a, b with
  | .nan x, y => nanResult f (x || y.isSnan)
  | _, .nan y => nanResult f y
  | .inf _, .inf _ => (canonicalNan f, flagNV)
  | .inf x, .fin y _ _ => infResult f (x != y)
  | .fin x _ _, .inf y => (zeroBits f (x != y), 0)
  | .fin x m e, .fin y m' e' =>
    if m' = 0 then (if m = 0 then (canonicalNan f, flagNV) else (infBits f (x != y), flagDZ))
    else if m = 0 then (zeroBits f (x != y), 0)
    else roundTo f rm sat (x != y) (m * 2 ^ 120 / m') (e - e' - 120) (m * 2 ^ 120 % m' != 0)

/-- Integer square root by bits from 2^k down. -/
def isqrt (n : Nat) : Nat → Nat → Nat
  | 0, r => r
  | k + 1, r => if (r + 2 ^ k) * (r + 2 ^ k) ≤ n then isqrt n k (r + 2 ^ k) else isqrt n k r

def sqrtRound (f : Fmt) (rm : Rm) (sat : Bool) (a : FVal) : Nat × Flags :=
  match a with
  | .nan x => nanResult f x
  | .inf neg => if neg then (canonicalNan f, flagNV) else infResult f false
  | .fin neg m e =>
    if m = 0 then (zeroBits f neg, 0)
    else if neg then (canonicalNan f, flagNV)
    else
      let (m, e) := if e % 2 = 0 then (m, e) else (2 * m, e - 1)
      let n := m * 2 ^ 120
      let r := isqrt n 88 0
      roundTo f rm sat false r (e / 2 - 60) (r * r != n)

/-! ### Comparison, minimum and maximum (R78, R124) -/

/-- Order of two values neither of which is a NaN; -0 and +0 are equal. -/
def cmpVal (a b : FVal) : Ordering :=
  let key (v : FVal) (e : Int) : Int := match v with
    | .fin n m e' => signedInt n (m * 2 ^ (e' - e).toNat)
    | _ => 0
  match a, b with
  | .inf x, .inf y => if x = y then .eq else if x then .lt else .gt
  | .inf x, _ => if x then .lt else .gt
  | _, .inf y => if y then .gt else .lt
  | .fin _ _ ea, .fin _ _ eb => compare (key a (min ea eb)) (key b (min ea eb))
  | _, _ => .eq

def FVal.sign : FVal → Bool
  | .nan _ => false
  | .inf n => n
  | .fin n _ _ => n

/-- Minimum (`mx` false) or maximum of two patterns (R78): the other operand of a single NaN, -0 below +0. -/
def minMax (f : Fmt) (mx : Bool) (x y : Nat) : Nat × Flags :=
  let a := unpack f x
  let b := unpack f y
  let fl := if a.isSnan || b.isSnan then flagNV else 0
  if a.isNan && b.isNan then (canonicalNan f, fl)
  else if a.isNan then (y, fl)
  else if b.isNan then (x, fl)
  else
    let less := match cmpVal a b with
      | .lt => true
      | .gt => false
      | .eq => a.sign && !b.sign
    (if less != mx then x else y, fl)

/-- The predicates of R124 with their NV. -/
def fpPred (p : Pred) (a b : FVal) : Bool × Flags :=
  let nan := a.isNan || b.isNan
  let snan := if a.isSnan || b.isSnan then flagNV else 0
  let any := if nan then flagNV else 0
  match p with
  | .eq => (!nan && cmpVal a b == .eq, snan)
  | .ne => (nan || cmpVal a b != .eq, snan)
  | .lt => (!nan && cmpVal a b == .lt, any)
  | .le => (!nan && cmpVal a b != .gt, any)
  | .un => (nan, snan)

/-- The mask of `FCLASS` (R124). -/
def fpClass (f : Fmt) (x : Nat) : Nat :=
  match unpack f x with
  | .nan s => if s then 2 ^ 8 else 2 ^ 9
  | .inf n => if n then 2 ^ 0 else 2 ^ 7
  | .fin n m _ =>
    let normal := x / 2 ^ fracBits f % 2 ^ expBits f != 0
    if m = 0 then (if n then 2 ^ 3 else 2 ^ 4)
    else if normal then (if n then 2 ^ 1 else 2 ^ 6)
    else (if n then 2 ^ 2 else 2 ^ 5)

/-! ### Conversions (R68-R71, R73) -/

/-- Floating point to floating point (R69). -/
def cvtFF (fd fs : Fmt) (rm : Rm) (sat : Bool) (x : Nat) : Nat × Flags :=
  match unpack fs x with
  | .nan s => nanResult fd s
  | .inf n =>
    if fd = .e4m3 then (if sat then (maxBits fd n, flagOF) else (canonicalNan fd, flagNV)) else (infBits fd n, 0)
  | v => deliver fd rm sat v

/-- Bits of an integer code, 4 for INT4 and UINT4 (R59). -/
def intWidth (f : Fmt) : Nat := if f = .int4 || f = .uint4 then 4 else intBits f
def intUnsigned (f : Fmt) : Bool := f == .uint4 || isUnsignedInt f
def intLow (f : Fmt) : Int := if intUnsigned f then 0 else -(2 ^ (intWidth f - 1) : Nat)
def intHigh (f : Fmt) : Int := if intUnsigned f then (2 ^ intWidth f : Nat) - 1 else (2 ^ (intWidth f - 1) : Nat) - 1
/-- The value of an integer pattern. -/
def intVal (f : Fmt) (x : Nat) : Int :=
  if intUnsigned f then (x % 2 ^ intWidth f : Nat) else toSigned (intWidth f) x

def clampInt (f : Fmt) (v : Int) : Int := if v < intLow f then intLow f else if intHigh f < v then intHigh f else v

/-- An exact value rounded to an integer; `rm` as R66. -/
def roundToInt (rm : Rm) (neg : Bool) (m : Nat) (e : Int) : Int × Bool :=
  let (r, nx) := roundAt rm neg m e false 0
  (signedInt neg r, nx)

/-- A value to an integer format (R70). -/
def valToInt (fd : Fmt) (rm : Rm) (sat : Bool) (v : FVal) : Nat × Flags :=
  let n := intWidth fd
  match v with
  | .nan _ => (0, flagNV)
  | .inf neg => (if sat then ofInt n (if neg then intLow fd else intHigh fd) else 0, flagNV)
  | .fin neg m e =>
    let (r, nx) := roundToInt rm neg m e
    if r < intLow fd || intHigh fd < r then (ofInt n (if sat then clampInt fd r else r), flagNV)
    else (ofInt n r, if nx then flagNX else 0)

/-- An integer to a floating-point format (R71). -/
def intToFp (fd : Fmt) (rm : Rm) (sat : Bool) (v : Int) : Nat × Flags := roundInt fd rm sat v 0 false

/-- Any conversion between element formats (R68-R71). -/
def convert (fd fs : Fmt) (rm : Rm) (sat : Bool) (x : Nat) : Nat × Flags :=
  if fs.isFp then (if fd.isFp then cvtFF fd fs rm sat x else valToInt fd rm sat (unpack fs x))
  else if fd.isFp then intToFp fd rm sat (intVal fs x)
  else (ofInt (intWidth fd) (if sat then clampInt fd (intVal fs x) else intVal fs x), 0)

/-- A BF16 immediate in the format of the operation, mode 0 (R73, R126). -/
def fpImm (f : Fmt) (imm : Nat) : Nat × Flags :=
  match unpack .bf16 imm with
  | .nan _ => (canonicalNan f, 0)
  | _ => if f = .bf16 then (imm, 0) else cvtFF f .bf16 .rne false imm

/-! ### Fixed trees (R77) -/

/-- One round of Tree: neighbours combined, an absent one passed through. -/
def treePairs {α : Type} (op : α → α → α) : List (Option α) → List (Option α)
  | a :: b :: r =>
    (match a, b with
      | none, b => b
      | a, none => a
      | some a, some b => some (op a b)) :: treePairs op r
  | l => l

/-- Tree over at most 2^k leaves (R77). -/
def tree {α : Type} (op : α → α → α) : Nat → List (Option α) → Option α
  | 0, l => (l.head?).getD none
  | k + 1, l => tree op k (treePairs op l)

end Sys2Proof.Machine
end

