-- ==== Sys2Proof/Machine/Flags.lean ====
section
/-! DEFINITION. How results, CF and the floating-point flags of R32 leave a core instruction. -/

namespace Sys2Proof.Machine

/-- Write `wd` and retire: an integer result (R113). -/
def State.result (s : State) (d : WReg) (v : Word) : State := (s.setW d v).retire

/-- Write `wd` and CF and retire (R116, R118). -/
def State.resultCf (s : State) (d : WReg) (v : Word) (cf : Bool) : State := ((s.setW d v).setCf cf).retire

/-- A raised flag is enabled (R32). -/
def Strand.fpTraps (t : Strand) (fl : Flags) : Bool := (fl &&& t.fenable) != 0

/-- The trap of an enabled flag (R32, R121). -/
def fpTrap (fl : Flags) (index : Nat) (eng : Nat) : Trap :=
  ⟨.fpException, fl.zeroExtend 64, BitVec.ofNat 64 index, eng, 0, 0⟩

/-- Flags of a core instruction: ORed into FFLAGS; an enabled one traps and the rest of the instruction is not
done (R32, R121). Those of a trap that is held come with it (R96). -/
def State.withFlags (s : State) (fl : Flags) (k : State → State) : State :=
  if s.me.fpTraps fl then s.raise (fpTrap fl 0 0) else k (s.setMe (s.me.raiseFlags fl))

/-- Write a floating-point result, zero above its width, with its flags (R113, R121). -/
def State.fpResult (s : State) (d : WReg) (r : Nat × Flags) : State :=
  s.withFlags r.2 fun s => s.result d (BitVec.ofNat 64 r.1)

end Sys2Proof.Machine
end

