-- ==== Sys2Proof/Machine/Integer.lean ====
section
/-! DEFINITION. The integer group, its long-latency part, immediates and bit fields (R116-R120). Every meaning is
total: the group neither raises flags nor traps after decode. -/

namespace Sys2Proof.Machine

/-- The n-bit operands of an AR instruction (R116). -/
def State.intArgs (s : State) (f : Fmt) (a b : WReg) : Nat × Nat := (lowBits (intBits f) (s.w a), lowBits (intBits f) (s.w b))

/-- An AR instruction with a sign-extended result (R113, R116). -/
def State.intOp (s : State) (f : Fmt) (d a b : WReg) (op : Nat → Nat → Nat → Nat) : State :=
  s.result d (sext (intBits f) (op (intBits f) (s.intArgs f a b).1 (s.intArgs f a b).2))

/-- An AR instruction with a zero-extended result (R113, R116). -/
def State.intOpZ (s : State) (f : Fmt) (d a b : WReg) (op : Nat → Nat → Nat → Nat) : State :=
  s.result d (zext (intBits f) (op (intBits f) (s.intArgs f a b).1 (s.intArgs f a b).2))

/-- A comparison: 1 or 0 in `wd` and CF (R116). -/
def State.intCmp (s : State) (d : WReg) (c : Bool) : State := s.resultCf d (BitVec.ofNat 64 c.toNat) c

/-- A unary AR instruction (R116). -/
def State.intUn (s : State) (f : Fmt) (d a : WReg) (op : Nat → Nat → Nat) : State :=
  s.result d (sext (intBits f) (op (intBits f) (lowBits (intBits f) (s.w a))))

/-- `ADD` (R116). -/
def execAdd (f : Fmt) (d a b : WReg) (s : State) : Host.Outcome State Fault Refusal :=
  .next (s.intOp f d a b intAdd)

/-- `SUB` (R116). -/
def execSub (f : Fmt) (d a b : WReg) (s : State) : Host.Outcome State Fault Refusal :=
  .next (s.intOp f d a b intSub)

/-- `AND` (R116). -/
def execAnd (f : Fmt) (d a b : WReg) (s : State) : Host.Outcome State Fault Refusal :=
  .next (s.intOp f d a b (fun _ x y => Nat.land x y))

/-- `OR` (R116). -/
def execOr (f : Fmt) (d a b : WReg) (s : State) : Host.Outcome State Fault Refusal :=
  .next (s.intOp f d a b (fun _ x y => Nat.lor x y))

/-- `XOR` (R116). -/
def execXor (f : Fmt) (d a b : WReg) (s : State) : Host.Outcome State Fault Refusal :=
  .next (s.intOp f d a b (fun _ x y => Nat.xor x y))

/-- `SHL` (R116). -/
def execShl (f : Fmt) (d a b : WReg) (s : State) : Host.Outcome State Fault Refusal :=
  .next (s.intOp f d a b intShl)

/-- `SHR` (R116): zero-extending. -/
def execShr (f : Fmt) (d a b : WReg) (s : State) : Host.Outcome State Fault Refusal :=
  .next (s.intOpZ f d a b intShr)

/-- `SHA` (R116): arithmetic shift right. -/
def execSha (f : Fmt) (d a b : WReg) (s : State) : Host.Outcome State Fault Refusal :=
  .next (s.intOp f d a b intSha)

/-- `ROT` (R116): rotate left. -/
def execRot (f : Fmt) (d a b : WReg) (s : State) : Host.Outcome State Fault Refusal :=
  .next (s.intOp f d a b intRot)

/-- `SLT` (R116): signed; CF is written whatever `wd` names. -/
def execSlt (f : Fmt) (d a b : WReg) (s : State) : Host.Outcome State Fault Refusal :=
  .next (s.intCmp d (intLt (intBits f) (s.intArgs f a b).1 (s.intArgs f a b).2))

/-- `SLTZ` (R116): unsigned; CF is written whatever `wd` names. -/
def execSltz (f : Fmt) (d a b : WReg) (s : State) : Host.Outcome State Fault Refusal :=
  .next (s.intCmp d (decide ((s.intArgs f a b).1 < (s.intArgs f a b).2)))

/-- `MIN` (R116): signed. -/
def execMin (f : Fmt) (d a b : WReg) (s : State) : Host.Outcome State Fault Refusal :=
  .next (s.intOp f d a b intMin)

/-- `MAX` (R116): signed. -/
def execMax (f : Fmt) (d a b : WReg) (s : State) : Host.Outcome State Fault Refusal :=
  .next (s.intOp f d a b intMax)

/-- `MINZ` (R116): unsigned, zero-extending. -/
def execMinz (f : Fmt) (d a b : WReg) (s : State) : Host.Outcome State Fault Refusal :=
  .next (s.intOpZ f d a b (fun _ x y => min x y))

/-- `MAXZ` (R116): unsigned, zero-extending. -/
def execMaxz (f : Fmt) (d a b : WReg) (s : State) : Host.Outcome State Fault Refusal :=
  .next (s.intOpZ f d a b (fun _ x y => max x y))

/-- `SEL` (R116): a when CF is 1, else b. -/
def execSel (f : Fmt) (d a b : WReg) (s : State) : Host.Outcome State Fault Refusal :=
  .next (s.intOp f d a b (fun _ x y => if s.me.cf then x else y))

/-- `MUL` (R116). -/
def execMul (f : Fmt) (d a b : WReg) (s : State) : Host.Outcome State Fault Refusal :=
  .next (s.intOp f d a b intMul)

/-- `MULH` (R116): high half of the signed product. -/
def execMulh (f : Fmt) (d a b : WReg) (s : State) : Host.Outcome State Fault Refusal :=
  .next (s.intOp f d a b intMulh)

/-- `MULHZ` (R116): high half of the unsigned product, zero-extending. -/
def execMulhz (f : Fmt) (d a b : WReg) (s : State) : Host.Outcome State Fault Refusal :=
  .next (s.intOpZ f d a b intMulhz)

/-- `CLZ` (R116). -/
def execClz (f : Fmt) (d a : WReg) (s : State) : Host.Outcome State Fault Refusal :=
  .next (s.intUn f d a clz)

/-- `CTZ` (R116). -/
def execCtz (f : Fmt) (d a : WReg) (s : State) : Host.Outcome State Fault Refusal :=
  .next (s.intUn f d a ctz)

/-- `POPC` (R116). -/
def execPopc (f : Fmt) (d a : WReg) (s : State) : Host.Outcome State Fault Refusal :=
  .next (s.intUn f d a popc)

/-- `BSWAP` (R116). -/
def execBswap (f : Fmt) (d a : WReg) (s : State) : Host.Outcome State Fault Refusal :=
  .next (s.intUn f d a bswap)

/-! ### Long-latency instructions (R94) -/

/-- Issue a long-latency instruction: the word retires, and the instruction stands outstanding with its window, or
with none left when a replay re-executes it (R94, R96). The result of a replay is written although a word of the window has
written the destination before (DESIGN CHOICE, log entry 77). -/
def State.issueLong (s : State) (i : Instr) (dest : WReg) (destCf : Bool) (la : Nat) (acq ord : Bool)
    (kind : LongKind) : State :=
  let t := s.me
  let c := s.cell
  let seq := c.nextId
  let (left, slot) := match t.replay with
    | some r => if r.law then (0, r.slot) else (la, 0)
    | none => (la, 0)
  let o : LongOp := ⟨seq, t.pc, i, dest, destCf, left, slot, left + slot, false, false, acq, ord, kind, 0, 0, false, none⟩
  let s := s.setCur { c with nextId := seq + 1 }
  let t := { s.me.countRetired with pc := s.me.nextPc, replay := none, run := .issuing }
  ((s.setMe { t with longs := t.longs ++ [o] }).push (.longLatencyResult s.curCell s.curStrand seq)).settle

/-- The window of an instruction with lookahead `la`: a partner in the same pair always belongs to it (R94, R109). -/
def State.windowOf (s : State) (la : Fin 16) : Nat :=
  let t := s.fetcher
  match t.buf.find? fun b => b.1 == t.pc / 8 * 8 with
  | some (_, b) => if t.pc % 8 = 0 && b.toNat / 2 ^ 31 % 2 = 0 then max la.val 1 else la.val
  | none => la.val

/-- A division: the result is a function of the operands read at issue (R117). -/
def State.issueDiv (s : State) (i : Instr) (d : WReg) (v : Word) (la : Fin 16) : State :=
  s.issueLong i d false (s.windowOf la) false false (.value v 0)

/-- `DIV` (R117). -/
def execDiv (f : Fmt) (d a b : WReg) (la : Fin 16) (s : State) : Host.Outcome State Fault Refusal :=
  .next (s.issueDiv (.div f d a b la) d (sext (intBits f) (intDiv (intBits f) (s.intArgs f a b).1 (s.intArgs f a b).2)) la)

/-- `DIVZ` (R117): unsigned, zero-extending. -/
def execDivz (f : Fmt) (d a b : WReg) (la : Fin 16) (s : State) : Host.Outcome State Fault Refusal :=
  .next (s.issueDiv (.divz f d a b la) d (zext (intBits f) (intDivz (intBits f) (s.intArgs f a b).1 (s.intArgs f a b).2)) la)

/-- `REM` (R117). -/
def execRem (f : Fmt) (d a b : WReg) (la : Fin 16) (s : State) : Host.Outcome State Fault Refusal :=
  .next (s.issueDiv (.rem f d a b la) d (sext (intBits f) (intRem (intBits f) (s.intArgs f a b).1 (s.intArgs f a b).2)) la)

/-- `REMZ` (R117): unsigned, zero-extending. -/
def execRemz (f : Fmt) (d a b : WReg) (la : Fin 16) (s : State) : Host.Outcome State Fault Refusal :=
  .next (s.issueDiv (.remz f d a b la) d (zext (intBits f) (intRemz (intBits f) (s.intArgs f a b).1 (s.intArgs f a b).2)) la)

/-! ### Immediates and bit fields (R118-R120) -/

/-- `LI` (R119). -/
def execLi (d : WReg) (imm : BitVec 19) (s : State) : Host.Outcome State Fault Refusal :=
  .next (s.result d (imm.signExtend 64))

/-- `LIH` (R119): halfword `h` of `wd` is replaced, the other 48 bits stay. -/
def execLih (d : WReg) (h : Fin 4) (imm : BitVec 16) (s : State) : Host.Outcome State Fault Refusal :=
  .next (s.result d (bins (s.w d) (imm.zeroExtend 64) 16 (16 * h.val)))

/-- An AI instruction (R118): n-bit operation on the register and the immediate, extended by the format. -/
def State.immOp (s : State) (f : Fmt) (d a : WReg) (imm : Nat) (op : Nat → Nat → Nat → Nat) : State :=
  s.result d (extendBy f (op (intBits f) (lowBits (intBits f) (s.w a)) imm))

/-- `ADDI` (R118). -/
def execAddi (f : Fmt) (d a : WReg) (imm : BitVec 11) (s : State) : Host.Outcome State Fault Refusal :=
  .next (s.immOp f d a (immBits f imm) intAdd)

/-- `ANDI` (R118): the immediate is always zero-extended. -/
def execAndi (f : Fmt) (d a : WReg) (imm : BitVec 11) (s : State) : Host.Outcome State Fault Refusal :=
  .next (s.immOp f d a (immZero f imm) (fun _ x y => Nat.land x y))

/-- `ORI` (R118): the immediate is always zero-extended. -/
def execOri (f : Fmt) (d a : WReg) (imm : BitVec 11) (s : State) : Host.Outcome State Fault Refusal :=
  .next (s.immOp f d a (immZero f imm) (fun _ x y => Nat.lor x y))

/-- `XORI` (R118): the immediate is always zero-extended. -/
def execXori (f : Fmt) (d a : WReg) (imm : BitVec 11) (s : State) : Host.Outcome State Fault Refusal :=
  .next (s.immOp f d a (immZero f imm) (fun _ x y => Nat.xor x y))

/-- `SHLI` (R118). -/
def execShli (f : Fmt) (d a : WReg) (imm : BitVec 11) (s : State) : Host.Outcome State Fault Refusal :=
  .next (s.immOp f d a imm.toNat intShl)

/-- `SHRI` (R118): zero-extending. -/
def execShri (f : Fmt) (d a : WReg) (imm : BitVec 11) (s : State) : Host.Outcome State Fault Refusal :=
  .next (s.result d (zext (intBits f) (intShr (intBits f) (lowBits (intBits f) (s.w a)) imm.toNat)))

/-- `SHAI` (R118). -/
def execShai (f : Fmt) (d a : WReg) (imm : BitVec 11) (s : State) : Host.Outcome State Fault Refusal :=
  .next (s.immOp f d a imm.toNat intSha)

/-- `ROTI` (R118). -/
def execRoti (f : Fmt) (d a : WReg) (imm : BitVec 11) (s : State) : Host.Outcome State Fault Refusal :=
  .next (s.immOp f d a imm.toNat intRot)

/-- a < imm, signed for codes 0x0-0x3 and unsigned for 0x4-0x6 (R118). -/
def ltImm (f : Fmt) (x imm : Nat) : Bool :=
  if isUnsignedInt f then decide (x < imm) else intLt (intBits f) x imm

/-- `SLTI` (R118): 1 or 0 in `wd` and CF. -/
def execSlti (f : Fmt) (d a : WReg) (imm : BitVec 11) (s : State) : Host.Outcome State Fault Refusal :=
  .next (s.intCmp d (ltImm f (lowBits (intBits f) (s.w a)) (immBits f imm)))

/-- `BEXT` (R120). -/
def execBext (d a : WReg) (wid : Fin 128) (off : Fin 64) (s : State) : Host.Outcome State Fault Refusal :=
  .next (s.result d (bext (s.w a) wid.val off.val))

/-- `BEXTZ` (R120). -/
def execBextz (d a : WReg) (wid : Fin 128) (off : Fin 64) (s : State) : Host.Outcome State Fault Refusal :=
  .next (s.result d (bextz (s.w a) wid.val off.val))

/-- `BINS` (R120). -/
def execBins (d a : WReg) (wid : Fin 128) (off : Fin 64) (s : State) : Host.Outcome State Fault Refusal :=
  .next (s.result d (bins (s.w d) (s.w a) wid.val off.val))

end Sys2Proof.Machine
end

