-- ==== Sys2Proof/Machine/FloatOps.lean ====
section
/-! DEFINITION. Scalar floating point (R121-R126). An instruction whose raised flag is enabled traps
`FP_EXCEPTION` and writes neither `wd` nor CF (R32, R121). -/

namespace Sys2Proof.Machine

/-- The operand's bits and its value (R113). -/
def fpBitsOf (f : Fmt) (v : Word) : Nat := v.toNat % 2 ^ fpBits f
def fpValOf (f : Fmt) (v : Word) : FVal := unpack f (fpBitsOf f v)

/-- `FADD` (R122): a + b, rounded once. -/
def execFadd (f : Fmt) (rm : Rm) (sat : Bool) (d a b : WReg) (s : State) :
    Host.Outcome State Fault Refusal :=
  .next (s.fpResult d (addVal f rm sat (fpValOf f (s.w a)) (fpValOf f (s.w b))))

/-- `FSUB` (R122): a - b, rounded once. -/
def execFsub (f : Fmt) (rm : Rm) (sat : Bool) (d a b : WReg) (s : State) :
    Host.Outcome State Fault Refusal :=
  .next (s.fpResult d (addVal f rm sat (fpValOf f (s.w a)) (fpValOf f (s.w b)).neg))

/-- `FMUL` (R122): a × b, rounded once. -/
def execFmul (f : Fmt) (rm : Rm) (sat : Bool) (d a b : WReg) (s : State) :
    Host.Outcome State Fault Refusal :=
  .next (s.fpResult d (mulRound f rm sat (fpValOf f (s.w a)) (fpValOf f (s.w b))))

/-- `FMA` (R122): a × b + d, the product not rounded, rounded once. -/
def execFma (f : Fmt) (rm : Rm) (sat : Bool) (d a b : WReg) (s : State) :
    Host.Outcome State Fault Refusal :=
  .next (s.fpResult d (fmaRound f rm sat (fpValOf f (s.w a)) (fpValOf f (s.w b)) (fpValOf f (s.w d))))

/-- `FMS` (R122): a × b - d, rounded once. -/
def execFms (f : Fmt) (rm : Rm) (sat : Bool) (d a b : WReg) (s : State) :
    Host.Outcome State Fault Refusal :=
  .next (s.fpResult d (fmaRound f rm sat (fpValOf f (s.w a)) (fpValOf f (s.w b)) (fpValOf f (s.w d)).neg))

/-- `FNMA` (R122): -(a × b) + d, rounded once. -/
def execFnma (f : Fmt) (rm : Rm) (sat : Bool) (d a b : WReg) (s : State) :
    Host.Outcome State Fault Refusal :=
  .next (s.fpResult d (fmaRound f rm sat (fpValOf f (s.w a)).neg (fpValOf f (s.w b)) (fpValOf f (s.w d))))

/-- The format of AQ (R123). -/
def aqFmt (dbl : Bool) : Fmt := if dbl then .fp64 else .fp32

/-- Issue `FDIV` or `FSQRT`: value and flags of the operands read at issue; the flags are raised when the result
is written (R123). -/
def State.issueFp (s : State) (i : Instr) (d : WReg) (r : Nat × Flags) (la : Fin 16) : State :=
  s.issueLong i d false (s.windowOf la) false false (.value (BitVec.ofNat 64 r.1) r.2)

/-- `FDIV` (R123). -/
def execFdiv (dbl : Bool) (rm : Rm) (sat : Bool) (d a b : WReg) (la : Fin 16) (s : State) :
    Host.Outcome State Fault Refusal :=
  .next (s.issueFp (.fdiv dbl rm sat d a b la) d
    (divRound (aqFmt dbl) rm sat (fpValOf (aqFmt dbl) (s.w a)) (fpValOf (aqFmt dbl) (s.w b))) la)

/-- `FSQRT` (R123). -/
def execFsqrt (dbl : Bool) (rm : Rm) (sat : Bool) (d a : WReg) (la : Fin 16) (s : State) :
    Host.Outcome State Fault Refusal :=
  .next (s.issueFp (.fsqrt dbl rm sat d a la) d (sqrtRound (aqFmt dbl) rm sat (fpValOf (aqFmt dbl) (s.w a))) la)

/-- `FMIN` (R78, R124). -/
def execFmin (f : Fmt) (d a b : WReg) (s : State) : Host.Outcome State Fault Refusal :=
  .next (s.fpResult d (minMax f false (fpBitsOf f (s.w a)) (fpBitsOf f (s.w b))))

/-- `FMAX` (R78, R124). -/
def execFmax (f : Fmt) (d a b : WReg) (s : State) : Host.Outcome State Fault Refusal :=
  .next (s.fpResult d (minMax f true (fpBitsOf f (s.w a)) (fpBitsOf f (s.w b))))

/-- `FCMP` (R124): 1 or 0 in `wd` and CF. -/
def execFcmp (p : Pred) (f : Fmt) (d a b : WReg) (s : State) : Host.Outcome State Fault Refusal :=
  .next (s.withFlags (fpPred p (fpValOf f (s.w a)) (fpValOf f (s.w b))).2 fun t =>
    t.intCmp d (fpPred p (fpValOf f (s.w a)) (fpValOf f (s.w b))).1)

/-- `FCLASS` (R124). -/
def execFclass (f : Fmt) (d a : WReg) (s : State) : Host.Outcome State Fault Refusal :=
  .next (s.result d (BitVec.ofNat 64 (fpClass f (fpBitsOf f (s.w a)))))

/-- The sign bit that `FSGN` writes (R124). -/
def sgnBit (o : SgnOp) (f : Fmt) (x y : Nat) : Bool :=
  let sa := x / 2 ^ (fpBits f - 1) % 2 == 1
  let sb := y / 2 ^ (fpBits f - 1) % 2 == 1
  match o with
  | .cpy => sb
  | .neg => !sb
  | .xor => sa != sb

/-- `FSGN` (R124): bits are moved only. -/
def execFsgn (o : SgnOp) (f : Fmt) (d a b : WReg) (s : State) : Host.Outcome State Fault Refusal :=
  .next (s.result d (BitVec.ofNat 64 (fpBitsOf f (s.w a) % 2 ^ (fpBits f - 1) +
    (sgnBit o f (fpBitsOf f (s.w a)) (fpBitsOf f (s.w b))).toNat * 2 ^ (fpBits f - 1))))

/-- `FCVT` (R69, R125). -/
def execFcvt (fd fs : Fmt) (rm : Rm) (sat : Bool) (d a : WReg) (s : State) : Host.Outcome State Fault Refusal :=
  .next (s.fpResult d (convert fd fs rm sat (fpBitsOf fs (s.w a))))

/-- `FCVTI` (R70, R125): the integer is extended by its sign. -/
def execFcvti (fd fs : Fmt) (rm : Rm) (sat : Bool) (d a : WReg) (s : State) : Host.Outcome State Fault Refusal :=
  .next (s.withFlags (convert fd fs rm sat (fpBitsOf fs (s.w a))).2 fun t =>
    t.result d (extendBy fd (convert fd fs rm sat (fpBitsOf fs (s.w a))).1))

/-- `ICVTF` (R71, R125). -/
def execIcvtf (fd fs : Fmt) (rm : Rm) (sat : Bool) (d a : WReg) (s : State) : Host.Outcome State Fault Refusal :=
  .next (s.fpResult d (convert fd fs rm sat (s.w a).toNat))

/-- `FMVI` (R73, R126). -/
def execFmvi (f : Fmt) (d : WReg) (imm : BitVec 16) (s : State) : Host.Outcome State Fault Refusal :=
  .next (s.fpResult d (fpImm f imm.toNat))

end Sys2Proof.Machine
end

