-- ==== Sys2Proof/Machine/Access.lean ====
section
/-! DEFINITION. Loads, stores, atomics and full/empty access (R127-R133, R231-R235), and the results and
acknowledgements that come back to a strand (R94, R132). -/

namespace Sys2Proof.Machine

/-! ### Order within a strand (R131, R254) -/

/-- The same byte of the own TCM has one address (R46). -/
def ownAddr (g : CellId) (a : Nat) : Nat :=
  let base := tcmWindow + lcidOf g * 2 ^ 20
  if base ≤ a && a < base + 2 ^ 20 then a - base else a

/-- The bytes that a long-latency instruction accesses: address and size. -/
def LongKind.range? : LongKind → Option (Nat × Nat)
  | .load w a | .remote w a => some (a, widthBytes w)
  | .record a => some (a, 16)
  | .fe _ a | .amo _ a _ _ => some (a, 8)
  | .value .. | .xamo .. => none

/-- It accesses memory and has not been performed. -/
def LongOp.unperformed (o : LongOp) : Bool := o.kind.range?.isSome && o.result.isNone

/-- Two ranges share a byte in the cell's view. -/
def overlap (g : CellId) (a n b m : Nat) : Bool :=
  decide (ownAddr g a < ownAddr g b + m) && decide (ownAddr g b < ownAddr g a + n)

/-- An earlier long-latency access of the strand to a byte of the range is still to be performed. -/
def Strand.olderLoad (t : Strand) (g : CellId) (seq addr size : Nat) : Bool :=
  t.longs.any fun o => o.unperformed && decide (o.seq < seq) &&
    (o.kind.range?.map fun x => overlap g addr size x.1 x.2).getD false

/-- An earlier store of the firing to a byte of the range is still to be performed. -/
def Cell.olderStore (c : Cell) (g : CellId) (fid seq addr size : Nat) : Bool :=
  c.stores.any fun p =>
    match p.kind with
    | .store a n _ => p.fid == fid && decide (p.seq < seq) && overlap g addr size a n
    | _ => false

/-- The firing that a strand holds. -/
def Strand.fid (t : Strand) : Nat := (t.firing.map fun f => f.fid).getD 0

/-- An earlier access of the current strand to a byte of the range is still to be performed. -/
def State.olderAccess (s : State) (seq addr size : Nat) : Bool :=
  s.me.olderLoad s.curCell seq addr size ||
    s.cell.olderStore s.curCell s.me.fid seq addr size

/-- Stores of the current strand that are not acknowledged: ENGPEND.PSTORE (R38). -/
def State.pstore (s : State) : Nat := (s.cell.stores.filter fun p => p.strand == s.curStrand).length

/-- A store of the current strand, or one that its firing issued on another strand before a `YIELD`, is not
acknowledged (R139, R229, R230). -/
def State.storesOut (s : State) : Bool := s.cell.stores.any fun p => p.strand == s.curStrand || p.fid == s.me.fid

/-- Every earlier core access of the strand has been performed (R131): loads returned, stores acknowledged. -/
def State.performedAll (s : State) : Bool :=
  s.me.longs.all (fun o => !o.unperformed) &&
    s.cell.stores.all fun p => p.fid != s.me.fid || (match p.kind with
      | .store .. => false
      | _ => true)

/-- A later access must wait: an earlier `.a` or `.o` is still to be performed (R131, R231). -/
def State.acquireWaits (s : State) : Bool := s.me.longs.any fun o => o.unperformed && (o.acq || o.ord)

/-- The accesses of the word at the pc may be issued: no `.a` or `.o` before it waits, and for `.l` and `.o` every
earlier access is performed (R131). -/
def State.accessWaits (s : State) (rel : Bool) : Bool := s.acquireWaits || (rel && !s.performedAll)

/-- An access to TCM waits for a bank that is being zeroed (R272). -/
def State.zeroHeld (s : State) (g : CellId) (addr size : Nat) : Bool :=
  match s.place g addr with
  | .tcm d off => (s.cellAt d).meetsZeroing off size
  | _ => false

/-- Check an access of the current strand and carry on with its place. An unfilled page-state cache entry stalls
it (R129, R284), and so does a bank that is being zeroed (R272). -/
def State.withAccess (s : State) (i : Instr) (addr size kind : Nat) (k : Place → State) : State :=
  if s.misses s.curCell addr then s.askFill s.curCell addr
  else if s.zeroHeld s.curCell addr size then s
  else s.orRaise (s.check s.curCell s.me.sv (s.instrWord i) addr size kind) k

/-- An accepted access of a cell waits where what it reaches cannot serve it yet: a TCM bank that is being zeroed (R272), or a
page's home slice that must reach its super (R286). -/
def State.memoryWaits (s : State) (g : CellId) (addr : Nat) : Bool :=
  let asid := ((s.jobOf g).map fun j => j.2.asid).getD 0
  match s.place g addr with
  | .tcm d off => (s.cellAt d).meetsZeroing off 1
  | .virt va loc _ => s.fillWaits (hiveOfPhys loc) asid va loc
  | .away va p => let hv := p.homeFor (hiveOf g); s.fillWaits hv asid va (p.addr hv va)
  | _ => false

/-- One of `n` accesses of `e` bytes that read upwards from `a`, one after another, must wait. -/
def State.readsWait (s : State) (g : CellId) (e a : Nat) : Nat → Bool
  | 0 => false
  | n + 1 => s.memoryWaits g a || (s.performRead g (s.place g a) a e).2.readsWait g e (a + e) n

/-! ### Loads and stores (R127, R128) -/

/-- Issue a load (R127, R129). -/
def State.issueLoad (s : State) (i : Instr) (w : Fmt) (acq : Bool) (d : WReg) (addr : Nat) (la : Fin 16) : State :=
  if s.acquireWaits then s
  else s.withAccess i addr (widthBytes w) 0 fun _ =>
    s.issueLong i d false (s.windowOf la) acq false (.load w addr)

/-- Issue a store (R127, R132): one to the own TCM is performed at issue, any other waits for its
acknowledgement. -/
def State.issueStore (s : State) (i : Instr) (size : Nat) (rel : Bool) (v : Word) (addr : Nat) : State :=
  if s.accessWaits rel then s
  else s.withAccess i addr size 1 fun pl =>
    match pl with
    | .tcm _ _ =>
      if s.me.olderLoad s.curCell s.cell.nextId addr size then s
      else (s.performWrite s.curCell pl addr size v.toNat).retire
    | _ =>
      let c := s.cell
      let st : PStore := ⟨c.nextId, s.curStrand, s.me.fid, .store addr size v⟩
      ((s.setCur { c with nextId := c.nextId + 1, stores := c.stores ++ [st] }).push
        (.storeAcknowledgement s.curCell s.curStrand c.nextId)).retire

/-- `LD` (R127). -/
def execLd (w : Fmt) (acq : Bool) (d a : WReg) (off : BitVec 6) (la : Fin 16) (s : State) :
    Host.Outcome State Fault Refusal :=
  .next (s.issueLoad (.ld w acq d a off la) w acq d (effAddr (s.w a) off.toInt (widthBytes w)) la)

/-- `ST` (R127). -/
def execSt (w : Fmt) (rel : Bool) (d a : WReg) (off : BitVec 10) (s : State) : Host.Outcome State Fault Refusal :=
  .next (s.issueStore (.st w rel d a off) (widthBytes w) rel (s.w d) (effAddr (s.w a) off.toInt (widthBytes w)))

/-- `LDX` (R128). -/
def execLdx (w : Fmt) (acq : Bool) (d a b : WReg) (la : Fin 16) (s : State) : Host.Outcome State Fault Refusal :=
  .next (s.issueLoad (.ldx w acq d a b la) w acq d (effIndexed (s.w a) (s.w b) (widthBytes w)) la)

/-- `STX` (R128). -/
def execStx (w : Fmt) (rel : Bool) (d a b : WReg) (s : State) : Host.Outcome State Fault Refusal :=
  .next (s.issueStore (.stx w rel d a b) (widthBytes w) rel (s.w d)
    (effIndexed (s.w a) (s.w b) (widthBytes w)))

/-! ### Atomic operations (R231, R232) -/

/-- One lane of an update function (R232). -/
def fnLane (op : Nat) (sgn : Bool) (n x y : Nat) : Nat :=
  match op with
  | 0 => intAdd n x y
  | 1 => intSub n x y
  | 2 => Nat.land x y
  | 3 => Nat.lor x y
  | 4 => Nat.xor x y
  | 5 => if sgn then intMin n x y else min x y
  | 6 => if sgn then intMax n x y else max x y
  | 7 => y
  | _ =>
    if sgn then
      let v := toSigned n x + toSigned n y
      ofInt n (if v < -(2 ^ (n - 1) : Nat) then -(2 ^ (n - 1) : Nat)
        else if ((2 ^ (n - 1) : Nat) : Int) - 1 < v then (2 ^ (n - 1) : Nat) - 1 else v)
    else min (x + y) (2 ^ n - 1)

/-- The lanes of a doubleword, each updated on its own (R232). -/
def fnLanes (op : Nat) (sgn : Bool) (n x y : Nat) : Nat → Nat
  | 0 => 0
  | k + 1 =>
    fnLanes op sgn n x y k + fnLane op sgn n (x / 2 ^ (n * k) % 2 ^ n) (y / 2 ^ (n * k) % 2 ^ n) * 2 ^ (n * k)

/-- The value that function word `fw` gives (R232). -/
def fnApply (fw : Word) (x y : Nat) : Nat :=
  let n := 8 * 2 ^ (fw.toNat / 2 ^ 4 % 4)
  fnLanes (fw.toNat % 16) (fw.getLsbD 6) n x y (64 / n)

/-- A function word that `AMOCFG` refuses (R232). -/
def fnBad (fw : Word) : Bool :=
  decide (2 ^ 10 ≤ fw.toNat) || fw.toNat / 2 ^ 7 % 4 == 3 || decide (8 < fw.toNat % 16)

/-- New value of an atomic, given the function word of its bank (R231). -/
def aopNew (op : Aop) (fw : Word) (old x cmp : Nat) : Nat :=
  match op with
  | .swap => x
  | .add => intAdd 64 old x
  | .and => Nat.land old x
  | .or => Nat.lor old x
  | .xor => Nat.xor old x
  | .min => intMin 64 old x
  | .max => intMax 64 old x
  | .cas => if old = cmp then x else old
  | .fn _ => fnApply fw old x

/-- The function word of an atomic at a place (R232). -/
def State.fnWord (s : State) (pl : Place) (op : Aop) : Word :=
  match pl, op with
  | .scratch n _ _, .fn k => (s.combAt n).fns[k]
  | _, _ => 0

/-! ### Full/empty words (R234, R235) -/

/-- F of the scratchpad word at offset `off` of comb `n`. -/
def State.fullAt (s : State) (n off : Nat) : Bool := s.full.contains (scratchAddr n off / 8)
def State.setFull (s : State) (n off : Nat) (b : Bool) : State :=
  { s with full := if b then ins s.full (scratchAddr n off / 8) else del s.full (scratchAddr n off / 8) }

/-- Give a long-latency instruction of a strand its result. -/
def Strand.complete (t : Strand) (seq : Nat) (r : LongResult) : Strand :=
  { t with longs := t.longs.map fun o => if o.seq = seq then { o with result := some r, atBank := false } else o }

/-- Act as another strand, then come back. -/
def State.on (s : State) (g : CellId) (k : StrandId) (f : State → State) : State :=
  (f (s.at g k)).at s.curCell s.curStrand

/-- A full/empty request (0 `LDFE`, 1 `LDFF`, 2 `FEQ`) of a long-latency instruction is applied at its bank: the
word is read, and `LDFE` empties it (R234). -/
def State.applyFe (s : State) (g : CellId) (k : StrandId) (seq : Nat) (op : Fin 3) (addr n off : Nat) : State :=
  let pl := s.place g addr
  let f := s.fullAt n off
  let (r, s) := s.performRead g pl addr 8
  let res := match r with
    | .ok v => LongResult.value (BitVec.ofNat 64 v) 0 (if op = 2 then some f else none)
    | .error e => .trap e
  let s := match op, r with
    | 0, .ok _ => s.setFull n off false
    | _, _ => s
  (s.setStrand g k ((s.strandAt g k).complete seq res)).on g k State.settle

/-- The strand is parked at an `STFE` that waits at its bank. -/
def Strand.stfeOf (t : Strand) : Option (WReg × WReg × BitVec 10) :=
  match t.run with
  | .parked (.stfe _ d a off) => some (d, a, off)
  | _ => none

/-- Apply one waiting request if it can proceed now; answers whether it did (R235). -/
def State.tryWaiter (s : State) (n : Nat) (w : Waiter) : Option State :=
  let t := s.strandAt w.cell w.strand
  match t.stfeOf with
  | some (d, a, off) =>
    if t.note != w.seq then some s
    else if s.fullAt n w.off then none
    else
      let addr := effAddr (t.w a) off.toInt 8
      let s := s.performWrite w.cell (s.place w.cell addr) addr 8 (t.w d).toNat
      let s := s.setFull n w.off true
      some ((s.setStrand w.cell w.strand { s.strandAt w.cell w.strand with note := 0 }).push
        (.parkedStrandResume w.cell w.strand))
  | none =>
    match t.longs.find? fun o => o.seq == w.seq with
    | some o =>
      match o.kind with
      | .fe op addr => if s.fullAt n w.off then some (s.applyFe w.cell w.strand w.seq op addr n w.off) else none
      | _ => some s
    | none => some s

/-- Re-examine the parked requests for a word in arrival order; each that can proceed is applied (R235). -/
def State.wake (s : State) (n off : Nat) : List Waiter → List Waiter → State × List Waiter
  | kept, [] => (s, kept.reverse)
  | kept, w :: r =>
    if w.off = off then
      match s.tryWaiter n w with
      | some s' => s'.wake n off kept r
      | none => s.wake n off (w :: kept) r
    else s.wake n off (w :: kept) r

/-- When F of a word has changed, its bank looks at the wait list again (R235); a released `LDFE` empties the word
and a released `STFE` fills it, so the list is gone through again, at most as often as it is long. -/
def State.wakeAll (s : State) (n off : Nat) : Nat → State
  | 0 => s
  | fuel + 1 =>
    let c := s.combAt n
    let before := s.fullAt n off
    let (s', kept) := s.wake n off [] c.waiters
    let s' := s'.setComb n { s'.combAt n with waiters := kept }
    if s'.fullAt n off = before then s' else s'.wakeAll n off fuel

/-- F of a word changes, and what waits for it proceeds (R235). -/
def State.changeFull (s : State) (n off : Nat) (b : Bool) : State :=
  if s.fullAt n off = b then s else (s.setFull n off b).wakeAll n off 17

/-- Bank of a scratchpad word (R274). -/
def bankOfWord (off : Nat) : Nat := off / 8 % 64

/-- The wait list of the word's bank is full: 16 entries (R235). -/
def Comb.listFull (c : Comb) (off : Nat) : Bool :=
  decide (16 ≤ (c.waiters.filter fun w => bankOfWord w.off == bankOfWord off).length)

/-- Apply an atomic at its place: the result, CF of `.cas`, and the state (R231). -/
def State.applyAmo (s : State) (g : CellId) (pl : Place) (op : Aop) (addr : Nat) (x cmp : Word) :
    LongResult × State :=
  let (r, s) := s.performRead g pl addr 8
  match r with
  | .error e => (.trap e, s)
  | .ok old =>
    let fw := s.fnWord pl op
    let new := aopNew op fw old x.toNat cmp.toNat
    let s := s.performWrite g pl addr 8 new
    let s := match pl, op with
      | .scratch n off _, .fn _ =>
        match fw.toNat / 2 ^ 7 % 4 with
        | 1 => s.changeFull n off true
        | 2 => s.changeFull n off false
        | _ => s
      | _, _ => s
    let ret := match op with
      | .fn _ => if fw.getLsbD 9 then new else old
      | _ => old
    let cf := match op with
      | .cas => some (decide (old = cmp.toNat))
      | _ => none
    (.value (BitVec.ofNat 64 ret) 0 cf, s)

/-- The checks of R231 beyond R129: the slot table, and `.fN` away from a scratchpad. -/
def amoCheck (op : Aop) (addr : Nat) (pl : Place) : Except Trap Unit :=
  match pl, op with
  | .scratch .., _ => .ok ()
  | .tcm _ off, op => if 0x7F000 ≤ off || op.isFn then .error (accessTrap (BitVec.ofNat 64 addr) 2) else .ok ()
  | .virt .., op => if op.isFn then .error (accessTrap (BitVec.ofNat 64 addr) 2) else .ok ()
  | _, _ => .error (accessTrap (BitVec.ofNat 64 addr) 2)

/-- `AMO` (R231). -/
def execAmo (op : Aop) (ord : Bool) (d a b : WReg) (la : Fin 16) (s : State) :
    Host.Outcome State Fault Refusal :=
  .next (if s.accessWaits ord then s
    else s.withAccess (.amo op ord d a b la) (s.w a).toNat 8 2 fun pl =>
      s.orRaise (amoCheck op (s.w a).toNat pl) fun _ =>
        s.issueLong (.amo op ord d a b la) d (op == .cas) (s.windowOf la) false ord
          (.amo op (s.w a).toNat (s.w b) (s.w d)))

/-- `AMOCFG` (R232): the function word goes to slot n of every update unit of the comb. -/
def execAmocfg (n : Fin 8) (a : WReg) (s : State) : Host.Outcome State Fault Refusal :=
  .next (if fnBad (s.w a) then s.raise (accessTrap (s.w a) 0)
    else (s.setComb (combOf s.curCell) { s.comb with fns := s.comb.fns.set n (s.w a) }).retire)

/-! ### `AMOV` (R233) -/

/-- The record of an element trap: its index in TRAPAUX or, where TRAPAUX is fixed otherwise, in COUNT (R233). -/
def Trap.atElement (t : Trap) (k : Nat) : Trap :=
  match t.cause with
  | .pageFault | .access => { t with aux := BitVec.ofNat 64 (t.aux.toNat / 2 ^ 32 * 2 ^ 32 + k) }
  | .crook | .landingViolation | .uncorrectable => { t with count := k }
  | _ => t

/-- Read an element of an operand of `AMOV` in the own TCM: it traps where no core may read, and on a marked word (R148,
R292). -/
def State.amovRead (s : State) (a size : Nat) : Except Trap Nat :=
  let at_ := tcmBase s.curCell + a
  if 0x7F000 < a + size || s.cell.closed a size then .error (accessTrap (BitVec.ofNat 64 a) 0)
  else if s.rangeMarked at_ size then .error ⟨.uncorrectable, BitVec.ofNat 64 a, 0, 0, 0, 0⟩
  else .ok (s.read at_ size)

/-- The target of element `k` (R233). -/
def State.amovTarget (s : State) (base pa : Word) (k : Nat) : Nat :=
  effAddr base (toSigned 32 (s.read (tcmBase s.curCell + elemAddr pa 4 k) 4)) 8

/-- Element `k`: its operands are read, it is checked by R231 and applied as `AMO` applies it (R233). -/
def State.amovElement (s : State) (op : Aop) (iw base pa pb : Word) (k : Nat) : Except Trap State :=
  let g := s.curCell
  match s.amovRead (elemAddr pa 4 k) 4, s.amovRead (elemAddr pb 8 k) 8 with
  | .error e, _ | _, .error e => .error e
  | .ok _, .ok x =>
    let addr := s.amovTarget base pa k
    let s := (s.touch g (elemAddr pa 4 k)).touch g (elemAddr pb 8 k)
    match s.check g s.me.sv iw addr 8 2 with
    | .error e => .error e
    | .ok pl =>
      match amoCheck op addr pl with
      | .error e => .error e
      | .ok _ =>
        match s.applyAmo g pl op addr (BitVec.ofNat 64 x) 0 with
        | (.trap e, _) => .error e
        | (_, s') => .ok s'

/-- Element `k` waits: an earlier access of the strand to its target or to its operands is still to be performed (R131,
R254), their bank is being zeroed (R272), or the super of its page cannot serve it yet (R286). -/
def State.amovHeld (s : State) (base pa pb : Word) (k : Nat) : Bool :=
  [(s.amovTarget base pa k, 8), (elemAddr pa 4 k, 4), (elemAddr pb 8 k, 8)].any (fun x =>
    s.olderAccess s.cell.nextId x.1 x.2 || s.zeroHeld s.curCell x.1 x.2) || s.memoryWaits s.curCell (s.amovTarget base pa k)

/-- The page-state cache entry that element `k` needs (R284). -/
def State.amovMiss (s : State) (base pa : Word) (k : Nat) : Option Nat :=
  if s.misses s.curCell (s.amovTarget base pa k) then some (s.amovTarget base pa k) else none

/-- Apply up to `n` elements in ascending order from `k`, as far as none waits; the answer is the next element. The first that
fails ends it, and none at or after it is applied (R233). -/
def State.amovFrom (s : State) (op : Aop) (iw base pa pb : Word) (k : Nat) : Nat → Except Trap Nat × State
  | 0 => (.ok k, s)
  | n + 1 =>
    if s.amovHeld base pa pb k || (s.amovMiss base pa k).isSome then (.ok k, s)
    else match s.amovElement op iw base pa pb k with
      | .error e => (.error (e.atElement k), s)
      | .ok s' => s'.amovFrom op iw base pa pb (k + 1) n

/-- `AMOV` (R233): all of its elements, or the next one of them (R252). -/
def execAmov (op : Aop) (ord : Bool) (a : WReg) (pa pb : PtrArg) (s : State) : Host.Outcome State Fault Refusal :=
  .next (
    let t := s.me
    let vl := t.vl
    let wa := t.p pa.reg
    let wb := t.p pb.reg
    let oa : Operand := ⟨vl, 8⟩
    let ob : Operand := ⟨vl, 16⟩
    let st := t.amov.getD t.replayAmov
    if s.accessWaits ord then s
    else s.orRaise (checkPtrs [(wa, oa), (wb, ob)]) fun _ =>
      if (t.w a).toNat % 8 != 0 then s.raise ⟨.misaligned, t.w a, 8, 0, 0, 0⟩
      else if 4096 < vl then s.raise (accessTrap (BitVec.ofNat 64 vl) 0)
      else
        let n := if t.oneElement then min 1 (vl - st) else vl - st
        match s.amovFrom op (s.instrWord (.amov op ord a pa pb)) (t.w a) wa wb st n with
        | (.error e, s') => (s'.setMe { s'.me with amov := none }).raise e
        | (.ok k, s') =>
          if k < vl then
            if k = st then (match s.amovMiss (t.w a) wa st with
              | some addr => s.askFill s.curCell addr
              | none => s)
            else s'.setMe { s'.me with amov := some k }
          else
            let t := { s'.me with amov := none }
            let t := if pa.inc then t.setP pa.reg (ptrAfter wa oa) else t
            let t := if pb.inc then t.setP pb.reg (ptrAfter wb ob) else t
            (s'.setMe t).retire)

/-! ### Full/empty instructions (R234) -/

/-- The checks of R234: a scratchpad window, a live page, and for `STFE` the holder. -/
def feCheck (g : CellId) (addr kind : Nat) (pl : Place) : Except Trap Unit :=
  match pl with
  | .scratch _ _ p =>
    match p.state with
    | .live => if kind = 0 || p.heldBy g then .ok () else .error (crookTrap addr p)
    | .landing => .error (landingTrap addr kind)
    | _ => .error (crookTrap addr p)
  | _ => .error (accessTrap (BitVec.ofNat 64 addr) kind)

/-- A record of `ACCESS` names the kind of the access (R44). -/
def Trap.asKind (kind : Nat) (t : Trap) : Trap := if t.cause = .access then accessTrap t.val kind else t

/-- Steps 1 to 3 of R129 for a full/empty access: an address outside the scratch windows fails step 3, and the
page state has its own rule (R234). -/
def State.withFe (s : State) (i : Instr) (addr kind : Nat) (k : Place → State) : State :=
  if s.misses s.curCell addr then s.askFill s.curCell addr
  else if addr % 8 != 0 then s.raise ⟨.misaligned, BitVec.ofNat 64 addr, 8, 0, 0, 0⟩
  else
    match s.place s.curCell addr with
    | .unmapped _ => s.raise (accessTrap (BitVec.ofNat 64 addr) kind)
    | _ =>
      s.orRaise ((s.check s.curCell s.me.sv (s.instrWord i) addr 8 0).mapError (Trap.asKind kind)) fun pl =>
        s.orRaise (feCheck s.curCell addr kind pl) fun _ => k pl

/-- Issue `LDFE`, `LDFF` or `FEQ` (R234). -/
def State.issueFe (s : State) (i : Instr) (op : Fin 3) (acq : Bool) (d : WReg) (addr : Nat) (la : Fin 16) : State :=
  if s.acquireWaits then s
  else s.withFe i addr 0 fun _ => s.issueLong i d (op == 2) (s.windowOf la) acq false (.fe op addr)

/-- `LDFE` (R234). -/
def execLdfe (acq : Bool) (d a : WReg) (off : BitVec 6) (la : Fin 16) (s : State) :
    Host.Outcome State Fault Refusal :=
  .next (s.issueFe (.ldfe acq d a off la) 0 acq d (effAddr (s.w a) off.toInt 8) la)

/-- `LDFF` (R234). -/
def execLdff (acq : Bool) (d a : WReg) (off : BitVec 6) (la : Fin 16) (s : State) :
    Host.Outcome State Fault Refusal :=
  .next (s.issueFe (.ldff acq d a off la) 1 acq d (effAddr (s.w a) off.toInt 8) la)

/-- `FEQ` (R234). -/
def execFeq (acq : Bool) (d a : WReg) (off : BitVec 6) (la : Fin 16) (s : State) :
    Host.Outcome State Fault Refusal :=
  .next (s.issueFe (.feq acq d a off la) 2 acq d (effAddr (s.w a) off.toInt 8) la)

/-- Park the current strand at an instruction (R218). -/
def State.park (s : State) (i : Instr) (note : Nat) : State :=
  s.setMe { s.me with run := .parked i, since := s.now, note := note }

/-- An `STFE` reaches its bank: it is applied, or joins the wait list, or is refused and retried (R234, R235). -/
def State.stfeAt (s : State) (i : Instr) (pl : Place) (addr : Nat) (v : Word) (refusals : Nat) : State :=
  match pl with
  | .scratch n off _ =>
    if !s.fullAt n off then ((s.performWrite s.curCell pl addr 8 v.toNat).changeFull n off true).retire
    else
      let c := s.combAt n
      if c.listFull off then
        if refusals + 1 = 64 then s.raise ⟨.feTimeout, BitVec.ofNat 64 addr, 64, 0, 0, 0⟩
        else (s.park i (2 ^ 40 + refusals + 1)).stillPending (.feRetry s.curCell s.curStrand)
      else
        let seq := s.cell.nextId
        let s := s.setCur { s.cell with nextId := seq + 1 }
        (s.setComb n { c with waiters := c.waiters ++ [⟨s.curCell, s.curStrand, seq, off⟩] }).park i seq
  | _ => s

/-- `STFE` (R234). -/
def execStfe (rel : Bool) (d a : WReg) (off : BitVec 10) (s : State) : Host.Outcome State Fault Refusal :=
  .next (if s.accessWaits rel || s.olderAccess s.cell.nextId (effAddr (s.w a) off.toInt 8) 8 then s
    else s.withFe (.stfe rel d a off) (effAddr (s.w a) off.toInt 8) 1 fun pl =>
      s.stfeAt (.stfe rel d a off) pl (effAddr (s.w a) off.toInt 8) (s.w d) 0)

/-! ### What comes back to a strand -/

/-- The value or fault of a result record of an `XAMO` (R246). A record whose CAUSE is none of those that R246 lists, which no
install writes, gives its first doubleword (DESIGN CHOICE, log entry 66). -/
def State.readRecord (s : State) (g : CellId) (a : Nat) : LongResult :=
  let first := BitVec.ofNat 64 (s.read (tcmBase g + a) 8)
  let st := s.read (tcmBase g + a + 8) 8
  let num := st / 2 ^ 16 % 2 ^ 32
  if s.rangeMarked (tcmBase g + a) 16 then .trap ⟨.uncorrectable, BitVec.ofNat 64 a, 0, 0, 0, 0⟩
  else if st / 2 ^ 6 % 2 = 1 then .trap (accessTrap (BitVec.ofNat 64 a) 0)
  else match st % 64 with
    | 0x05 => .trap ⟨.pageFault, first, BitVec.ofNat 64 (2 * 2 ^ 32), 0, num, 0⟩
    | 0x16 => .trap ⟨.remoteOpUnsupported, first, BitVec.ofNat 64 (st / 2 ^ 48 % 64), 0, num, 0⟩
    | 0x1A => .trap ⟨.orderedAmoAborted, first, BitVec.ofNat 64 num, 0, 0, 0⟩
    | _ => .value first 0 none

/-- An `XLD` reaches the sector of its address in the page's home hive (R246, R286). -/
def State.fillAway (s : State) (g : CellId) (addr : Nat) : State :=
  match s.place g addr with
  | .away va p =>
    let hv := p.homeFor (hiveOf g)
    s.fill hv (((s.jobOf g).map fun j => j.2.asid).getD 0) va (p.addr hv va)
  | _ => s

/-- The value of an `XLD` of a page in another hive, as the page's home holds it; a shadowed page gives its
published copy (R246, R261). -/
def State.readAway (s : State) (g : CellId) (w : Fmt) (addr : Nat) : LongResult :=
  match s.place g addr with
  | .away va p =>
    let loc := p.addr (p.homeFor (hiveOf g)) va
    let code := if ((s.hiveAt (hiveOfPhys loc)).sector loc).isSome then 3 else memCode loc
    if s.unreadable loc then .trap ⟨.uncorrectable, BitVec.ofNat 64 addr, BitVec.ofNat 64 code, 0, 0, 0⟩
    else .value (extendLoad w (ofBytes (s.cachedBytes loc (widthBytes w)))) 0 none
  | _ => .value 0 0 none

/-- A result that is flags and value becomes the trap of an enabled flag (R123). -/
def Strand.orFpTrap (t : Strand) (v : Word) (fl : Flags) : LongResult :=
  if t.fpTraps fl then .trap (fpTrap fl 0 0) else .value v fl none

/-- An access through the TCM window of another cell, which has been fenced since it was checked (R372). -/
def State.meetsFence (s : State) (g : CellId) (addr : Nat) : Bool :=
  match s.place g addr with
  | .tcm d _ => d != g && (s.cellAt d).fenced
  | _ => false

/-- The access or computation of a long-latency instruction comes about for the current strand (R94, R252). -/
def State.performLong (s : State) (o : LongOp) : State :=
  let g := s.curCell
  let k := s.curStrand
  let done (s : State) (r : LongResult) : State := s.setMe (s.me.complete o.seq r)
  let again : Instr := .longLatencyResult g k o.seq
  match o.kind with
  | .value v fl =>
    done s (s.me.orFpTrap v fl)
  | .load w addr =>
    if s.me.olderLoad g o.seq addr (widthBytes w) || s.memoryWaits g addr then s.stillPending again
    else if s.meetsFence g addr then done s (.trap (accessTrap (BitVec.ofNat 64 addr) 0))
    else
      match s.loadValue s.me.fid o.seq addr (widthBytes w) with
      | (.ok v, s') => done s' (.value (extendLoad w v) 0 none)
      | (.error e, s') => done s' (.trap e)
  | .record addr =>
    if s.me.olderLoad g o.seq addr 16 || s.memoryWaits g addr then s.stillPending again
    else done (s.touch g (ownAddr g addr)) (s.readRecord g (ownAddr g addr))
  | .remote w addr =>
    if s.memoryWaits g addr then s.stillPending again else done (s.fillAway g addr) (s.readAway g w addr)
  | .amo op addr x cmp =>
    if s.olderAccess o.seq addr 8 || s.memoryWaits g addr then s.stillPending again
    else
      let (r, s) := s.applyAmo g (s.place g addr) op addr x cmp
      done s r
  | .fe op addr =>
    if o.atBank then s
    else if s.olderAccess o.seq addr 8 then s.stillPending again
    else
      match s.place g addr with
      | .scratch n off _ =>
        if op = 2 || s.fullAt n off then
          let was := s.fullAt n off
          let s := s.applyFe g k o.seq op addr n off
          if op = 0 && was then s.wakeAll n off 17 else s
        else
          let c := s.combAt n
          if c.listFull off then
            if o.refusals + 1 = 64 then done s (.trap ⟨.feTimeout, BitVec.ofNat 64 addr, 64, 0, 0, 0⟩)
            else
              let t := s.me
              let t := { t with longs := t.longs.map fun q =>
                if q.seq = o.seq then { q with refusals := q.refusals + 1, refusedAt := s.now } else q }
              (s.setMe t).stillPending (.feRetry g k)
          else
            let t := s.me
            let t := { t with longs := t.longs.map fun q => if q.seq = o.seq then { q with atBank := true } else q }
            (s.setMe t).setComb n { c with waiters := c.waiters ++ [⟨g, k, o.seq, off⟩] }
      | _ => done s (.value 0 0 none)
  | .xamo .. => s

/-- LONG_LATENCY_RESULT (R94): the access is performed or the computation ends. The result is written once the
window has closed; a fault is reported through the window (R96). -/
def execLongLatencyResult (g : CellId) (k : StrandId) (seq : Nat) (s : State) :
    Host.Outcome State Fault Refusal :=
  .next (s.on g k fun s =>
    match s.me.longs.find? fun o => o.seq == seq && o.result.isNone with
    | some o => (s.performLong o).settle
    | none => s)

/-- STORE_ACKNOWLEDGEMENT (R132): the memory that holds the bytes has written them; a later store to the same
byte follows an earlier one (R131). `CINV` and `CFLUSH` are not ordered against the strand's own earlier stores to the
line (DESIGN CHOICE, log entry 50). -/
def execStoreAcknowledgement (g : CellId) (k : StrandId) (seq : Nat) (s : State) :
    Host.Outcome State Fault Refusal :=
  .next (s.on g k fun s =>
    let c := s.cell
    match c.stores.find? fun p => p.seq == seq with
    | none => s
    | some p =>
      let gone (s : State) : State :=
        s.setCur { s.cell with stores := s.cell.stores.filter fun q => q.seq != seq }
      match p.kind with
      | .store addr size v =>
        let t := s.strandAt g p.strand
        if c.olderStore g p.fid seq addr size || (t.fid == p.fid && t.olderLoad g seq addr size) ||
            s.memoryWaits g addr then
          s.stillPending (.storeAcknowledgement g k seq)
        else gone (s.performWrite g (s.place g addr) addr size v.toNat)
      | .slice addr inv =>
        let hv := hiveOf g
        let h := s.hiveAt hv
        let loc := match s.place g addr with
          | .virt _ loc _ => some (loc / 256)
          | _ => none
        match loc with
        | none => gone s
        | some line =>
          let mine := h.lineSectors line
          if s.lineWaits mine 0 then s.stillPending (.storeAcknowledgement g k seq) else
          let s := s.lineBack mine
          let h := s.hiveAt hv
          let keep := h.sectors.filter fun x => x.loc / 8 != line
          let clean := mine.map fun x => { x with dirty := false }
          gone (s.setHive hv { h with sectors := if inv then keep else clean ++ keep })
      | .stepped .. => s)

/-- A request that a full wait list has refused is to be tried again (R235). -/
def LongOp.refused (o : LongOp) : Bool := decide (0 < o.refusals) && !o.atBank && o.result.isNone

/-- The strand is parked at an `STFE` that a full wait list has refused (R235). -/
def Strand.stfeRefused (t : Strand) : Bool := t.stfeOf.isSome && decide (2 ^ 40 < t.note)

/-- A refused request of the strand is still to be tried again. -/
def Strand.retries (t : Strand) : Bool := t.stfeRefused || t.longs.any LongOp.refused

/-- The refused request of the current strand whose 256 cycles are over goes to its bank again (R235). -/
def State.retryRefused (s : State) : State :=
  let t := s.me
  match t.longs.find? fun o => o.refused && decide (o.refusedAt + 256 ≤ s.now) with
  | some o => (s.performLong o).settle
  | none =>
    match t.run with
    | .parked (.stfe rel d a off) =>
      if t.stfeRefused && decide (t.since + 256 ≤ s.now) then
        let addr := effAddr (t.w a) off.toInt 8
        s.stfeAt (.stfe rel d a off) (s.place s.curCell addr) addr (t.w d) (t.note - 2 ^ 40)
      else s
    | _ => s

/-- FE_RETRY (R235): 256 cycles after its refusal a request goes to its bank again; other refused requests of the strand
keep theirs. -/
def execFeRetry (g : CellId) (k : StrandId) (s : State) : Host.Outcome State Fault Refusal :=
  .next (
    let s := s.on g k State.retryRefused
    if (s.strandAt g k).retries then s.stillPending (.feRetry g k) else s)

end Sys2Proof.Machine
end

