-- ==== Sys2Proof/Machine/Firing.lean ====
section
/-! DEFINITION. Firings: the input rings, starting, switching out and ending a firing, and the firing choice
(R17, R306-R316). -/

namespace Sys2Proof.Machine

/-! ### Fork requests (R308) -/

/-- The positions of the fork requests that no firing has, oldest first (R308). -/
def State.requests (s : State) (g : CellId) (n : Nat) : List Nat :=
  let d := (s.cellAt g).slotDyn n
  ((List.range (s.ringCount g n)).map fun k => (s.slotHead g n + k) % 2 ^ 32).filter fun pos =>
    pos ∉ d.claimed && pos ∉ d.finished

/-! ### The firing choice (R314) -/

def schedAgep (c : Cell) : Nat := c.schedcfg.toNat / 2 ^ 20 % 16
def schedQuantl (c : Cell) : Nat := c.schedcfg.toNat / 2 ^ 16 % 16
def schedNws (c : Cell) : Nat := c.schedcfg.toNat % 64

/-- Address of pool workspace j (R313). -/
def poolAddr (j : Nat) : Nat := 0x60000 + 512 * j

/-- A strand holds the workspace, bound or being bound (R14), or a switched-out firing has saved itself there (R310). -/
def Cell.holdsWs (c : Cell) (a : Nat) : Bool :=
  (c.strands.toList.any fun t => t.owns && t.wp == a) || c.switched.any fun w => w.wp == a

/-- The free pool workspace with the lowest index (R314); no strand has bound it by `MTS` to WP (R14, R27). -/
def Cell.freePool (c : Cell) : Option Nat :=
  (List.range (schedNws c)).find? fun j => !c.poolUsed.contains j && !c.holdsWs (poolAddr j)

/-- A candidate (R314). -/
structure Cand where
  slot : Nat
  /-- position in the list of switched-out firings, for a resumption -/
  resume : Option Nat
  /-- ring position of a fork request -/
  request : Option Nat
  prio : Nat
  wait : Nat
  deriving DecidableEq, Repr

/-- The switched-out firings of a slot, from list position `k`: they are kept in the order of their switch-outs, and each
is a candidate with the PRIO it started with (R50, R314). -/
def switchedCands (now n : Nat) : Nat → List Switched → List Cand
  | _, [] => []
  | k, w :: r =>
    let rest := switchedCands now n (k + 1) r
    if w.firing.slot = n then ⟨n, some k, none, w.firing.prio, now - w.at_⟩ :: rest else rest

/-- The start candidates of a slot (R308, R314): each waiting fork request of a task actor, oldest first, or a READY
ordinary actor. -/
def State.startCands (s : State) (g : CellId) (n : Nat) : List Cand :=
  let d := (s.cellAt g).slotDyn n
  if !s.slotValid g n then []
  else if s.slotKind g n = 2 then
    (s.requests g n).map fun pos =>
      ⟨n, none, some pos, s.slotPrio g n, s.now - ((look (d.waiting.map fun x => (x.1, x.2.2)) pos)).getD s.now⟩
  else if s.ready g n then [⟨n, none, none, s.slotPrio g n, s.now - d.readyAt⟩]
  else []

/-- Effective priority (R314). -/
def Cand.eff (x : Cand) (agep : Nat) : Nat := min 3 (x.prio + x.wait / 2 ^ agep)

/-- The job of a cell lets firings start and resume: its step is open and it is neither stopped nor ended
(R263, R370). -/
def State.mayStart (s : State) (g : CellId) : Bool :=
  match s.jobOf g with
  | some (_, j) => j.phase == .open && !j.stopped && !j.ended && !(s.cellAt g).fenced
  | none => false

/-- The descriptor of a slot holds an uncorrectable word (R294). -/
def State.badSlot (s : State) (g : CellId) (n : Nat) : Bool := s.rangeMarked (descAddr g n 0) 64

/-- No strand holds the workspace that a switched-out firing has saved: while supervisor code has bound it (R27), the firing
waits (R14; DESIGN CHOICE, log entry 63). -/
def Cell.savedFree (c : Cell) (x : Cand) : Bool :=
  match x.resume.bind fun i => c.switched[i]? with
  | some w => !c.strands.toList.any fun t => t.owns && t.wp == w.wp
  | none => true

/-- All candidates that the choice could take, slot by slot (R314): no firing of a slot whose descriptor is
uncorrectable starts (R294). -/
def State.cands (s : State) (g : CellId) : List Cand :=
  if !s.mayStart g then []
  else
    let c := s.cellAt g
    (List.range 64).flatMap fun n =>
      (switchedCands s.now n 0 c.switched).filter c.savedFree ++ if c.freePool.isSome && !s.badSlot g n then s.startCands g n else []

/-- The slots whose uncorrectable descriptor keeps a firing from starting (R294). -/
def State.badSlots (s : State) (g : CellId) : List Nat :=
  if !s.mayStart g then []
  else (List.range 64).filter fun n => s.badSlot g n && !(s.startCands g n).isEmpty

/-- The choice: among the candidates of the best effective priority, the first slot at or after RRPTR; within a slot a
switched-out firing stands first, then the oldest request (R314). -/
def pickCand (agep rrptr : Nat) (l : List Cand) : Option Cand :=
  let best := l.foldl (fun b x => max b (x.eff agep)) 0
  let t := l.filter fun x => x.eff agep == best
  match t.find? fun x => decide (rrptr ≤ x.slot) with
  | some x => some x
  | none => t.head?

/-- The firing that a descriptor starts (R50). -/
def State.newFiring (s : State) (g : CellId) (n fid pool pos : Nat) : Firing where
  fid := fid
  slot := n
  task := s.slotKind g n == 2
  encv := s.slotEncv g n
  entry := s.slotEntry g n
  fen := s.slotFen g n
  prio := s.slotPrio g n
  trapEnt := s.slotTrapEnt g n
  rate := if s.slotKind g n = 2 then 1 else s.slotRate g n
  defdl := s.slotDefdl g n
  forkmask := s.desc g n 5
  qbase := s.slotQbase g n
  qlog := s.slotQlog g n
  head := pos
  taken := 0
  spawned := 0
  joined := 0
  pool := pool
  wdog := false
  tookAt := s.now

/-- Give a pending swarm claim the free strand and a free pool workspace; answers whether there was one (R171,
R311; log entry 21). -/
def State.giveClaim (s : State) (g : CellId) (k : StrandId) : Option State :=
  let c := s.cellAt g
  match c.claims, c.freePool with
  | x :: r, some j =>
    let l := s.strandAt x.leaderCell x.leaderStrand
    let f := l.firing.map fun f => { f with fid := c.nextId, pool := j, wdog := false }
    let s := s.setCell g { c with claims := r, nextId := c.nextId + 1, poolUsed := j :: c.poolUsed }
    let s := s.setStrand g k
      { Strand.reset with run := .claimed, ws := (s.strandAt g k).ws, wp := poolAddr j, firing := f, note := x.index }
    let l := s.strandAt x.leaderCell x.leaderStrand
    let s := s.setStrand x.leaderCell x.leaderStrand
      { l with swarm := l.swarm.map fun w => { w with members := w.members ++ [(g, k)] } }
    some (s.push (.parkedStrandResume x.leaderCell x.leaderStrand))
  | _, _ => none

/-- The lowest-numbered free strand of a cell. -/
def Cell.lowestFree (c : Cell) : Option StrandId := [0, 1, 2, 3].find? fun k : StrandId => (c.strands[k]).run == .free

/-- The oldest pending claim takes the cell's lowest-numbered free strand (R171). -/
def State.grantClaim (s : State) (g : CellId) : Option State := (s.cellAt g).lowestFree.bind (s.giveClaim g)

/-- SWARM_CLAIM_GRANT (R171): a follower cell gives its lowest-numbered free strand to the oldest pending claim. -/
def execSwarmClaimGrant (g : CellId) (k : StrandId) (s : State) : Host.Outcome State Fault Refusal :=
  .next (
    if (s.strandAt g k).run = .free then (s.grantClaim g).getD s else s)

/-- FIRING_CHOICE (R311, R314): the oldest pending claim comes first; else the free strand is given to the candidate that
the choice picks, which is bound 12 cycles later (R315). A slot whose descriptor is uncorrectable starts nothing and is
reported (R294). -/
def execFiringChoice (g : CellId) (k : StrandId) (s : State) : Host.Outcome State Fault Refusal :=
  .next (
    let t := s.strandAt g k
    if t.run != .free || (s.cellAt g).fenced then s
    else
      match s.grantClaim g with
      | some s' => if (s'.strandAt g k).run = .free then s'.stillPending (.firingChoice g k) else s'
      | none =>
        let s := (s.badSlots g).foldl (fun s n => s.sendFault 3 g n k [0, 0, 0, 0] 0) s
        let c := s.cellAt g
        match pickCand (schedAgep c) c.rrptr (s.cands g) with
        | none => if c.switched.isEmpty then s else s.stillPending (.firingChoice g k)
        | some x =>
          let c := { c with rrptr := (x.slot + 1) % 64 }
          match x.resume with
          | some i =>
            match c.switched[i]? with
            | none => s
            | some w =>
              let s := s.setCell g { c with switched := c.switched.eraseIdx i }
              let s := s.setStrand g k
                { Strand.reset with run := .starting true, firing := some { w.firing with tookAt := s.now }, wp := w.wp }
              (s.unstall g).push (.firingBind g k)
          | none =>
            match c.freePool with
            | none => s
            | some j =>
              let pos := x.request.getD (s.slotHead g x.slot)
              let f := s.newFiring g x.slot c.nextId j pos
              let d := c.slotDyn x.slot
              let d := if f.task then { d with claimed := pos :: d.claimed } else d
              let s := s.setCell g { c with nextId := c.nextId + 1, poolUsed := j :: c.poolUsed,
                                            slots := put c.slots x.slot d }
              let s := s.setStrand g k { Strand.reset with run := .starting false, firing := some f, wp := poolAddr j }
              (s.unstall g).push (.firingBind g k))

/-! ### Binding (R17, R315, R294) -/

/-- STRAND (R30). -/
def strandWord (k : StrandId) (slot : Nat) (task : Bool) (depth : Nat) : Word :=
  BitVec.ofNat 64 (k.val + slot * 4 + task.toNat * 2 ^ 11 + depth * 2 ^ 12)

/-- TCM offset of the `k`-th reserved input of a firing, in the ring that it started with (R50, R307). -/
def Firing.input (f : Firing) (k : Nat) : Nat := f.qbase + 32 * ((f.head + k) % 2 ^ 32 % 2 ^ f.qlog)

/-- The input at a ring position, beside its entry. -/
def State.inputMeta (s : State) (g : CellId) (n pos : Nat) : Option Input :=
  (look (((s.cellAt g).slotDyn n).waiting.map fun x => (x.1, x.2.1)) pos)

/-- The register-file copy at a firing start (R17): zero but for the deposit, FENABLE, YLIMIT, STATUS, STRAND and
the fork path. -/
def State.startRegs (s : State) (g : CellId) (k : StrandId) (f : Firing) : Vector Word 64 :=
  let a := tcmBase g + f.input 0
  let bad := s.rangeMarked a 32
  let inp := s.inputMeta g f.slot f.head
  let dep (n : Nat) : Word := if bad then 0 else BitVec.ofNat 64 (s.read (a + 8 * n) 8)
  let dchk := ((s.jobOf g).map fun j => j.2.dchk).getD false
  let depth := if f.task then (inp.map fun i => i.depth).getD 0 else 0
  let path (p : Input → Word) : Word := if f.task then (inp.map p).getD 0 else 0
  let v := Vector.replicate 64 (0 : Word)
  let v := (((v.set 1 (dep 0)).set 2 (dep 1)).set 3 (dep 2)).set 4 (dep 3)
  let v := v.set 50 (BitVec.ofNat 64 (f.prio * 16 + dchk.toNat * 4))
  let v := v.set 52 (BitVec.ofNat 64 f.fen)
  let v := v.set 54 (ylimit f.defdl (f.defdl * 64))
  let v := v.set 55 (strandWord k f.slot f.task depth)
  let v := (v.set 56 (path Input.pathLo)).set 57 (path Input.pathHi)
  v.set 62 (path Input.link)

/-- The writable bits of TRAPCAUSE (R43). -/
def trapCauseMask : Word := 0x000FFFFF0001FF3F

/-- Bits of a doubleword of the workspace that are not reserved and that memory may give back: of STATUS only CF,
PRIO and DCHK, because a strand enters supervisor mode and a swarm in no other way (R15, R26-R35, R41; log entry
22). -/
def dwMask (n : Nat) : Word :=
  match n with
  | 0 => 0
  | 49 => 0x7FFFF
  | 50 => 0x35
  | 51 | 52 => 0x1F
  | 53 => 0xFFFFF
  | 40 | 41 | 42 | 43 => 0xF0FFFFFFFF000000
  | 54 => 0xFFFFFF0FFF
  | 55 => 0xF8FF
  | 58 => trapCauseMask
  | 59 => 0x7FFFF
  | 62 => 0xFFFF0000003FFFFF
  | 63 => 0
  | _ => BitVec.allOnes 64

/-- The register-file copy of a saved workspace; an uncorrectable doubleword reads zero (R294), and so does the join link of a
firing that is no task (R319). -/
def State.loadWs (s : State) (a : Nat) (task : Bool) : Vector Word 64 :=
  Vector.ofFn fun n : Fin 64 =>
    if s.marked (a + 8 * n.val) || (n == 62 && !task) then 0 else BitVec.ofNat 64 (s.read (a + 8 * n.val) 8) &&& dwMask n.val

/-- The address of the first uncorrectable doubleword of a workspace. -/
def State.badDw (s : State) (a : Nat) : Option Nat :=
  ((List.range 64).find? fun n => s.marked (a + 8 * n)).map fun n => a + 8 * n

/-- FIRING_BIND (R17, R315): the workspace is bound, and the deposit is made at a start; a saved workspace comes
back at a resumption, at the PC in doubleword 49. An uncorrectable word of the workspace, or of the ring entry, traps
before the first instruction (R294); at a start its register keeps the value that R17 gives it (DESIGN CHOICE, log entry 81). -/
def execFiringBind (g : CellId) (k : StrandId) (s : State) : Host.Outcome State Fault Refusal :=
  .next (
    let t := s.strandAt g k
    match t.run, t.firing with
    | .starting resume, some f =>
      let base := tcmBase g + t.wp
      if !resume && (s.cellAt g).meetsZeroing (f.input 0) 32 then s.stillPending (.firingBind g k)
      else if resume then
        let s := s.touch g t.wp
        let ws := s.loadWs base f.task
        let bad := s.badDw base
        let ws := ws.set 55 (BitVec.ofNat 64 (ws[55].toNat / 4 * 4 + k.val))
        let pc := ws[49].toNat % 2 ^ 19
        let s := s.setStrand g k { t with run := .issuing, ws := ws, pc := pc }
        match bad with
        | some a => s.on g k fun s => s.takeTrap ⟨.uncorrectable, BitVec.ofNat 64 (a - tcmBase g), 0, 0, 0, 0⟩ pc false 0
        | none => s
      else
        let a := tcmBase g + f.input 0
        let bad := (s.badDw base).or (if s.rangeMarked a 32 then some a else none)
        let s := ((s.touch g t.wp).touchRange g (f.input 0) 32).setStrand g k
          { t with run := .issuing, ws := s.startRegs g k f, pc := f.entry, firing := some { f with taken := 1 } }
        match bad with
        | some a => s.on g k fun s => s.takeTrap ⟨.uncorrectable, BitVec.ofNat 64 (a - tcmBase g), 0, 0, 0, 0⟩ f.entry false 0
        | none => s
    | _, _ => s)

/-! ### Ending a firing (R230, R307, R319) -/

/-- Note that a cell has sent something that must be absorbed before the seal (R357). -/
def State.countSent (s : State) (g : CellId) : State :=
  let h := s.hiveAt (hiveOf g)
  s.setHive (hiveOf g) { h with sent := put h.sent g (((look h.sent g).getD 0) + 1) }
def State.countAbsorbed (s : State) (g : CellId) : State :=
  let h := s.hiveAt (hiveOf g)
  s.setHive (hiveOf g) { h with absorbed := put h.absorbed g (((look h.absorbed g).getD 0) + 1) }

/-- A task's status word (R228). -/
def taskStatus (cause spawn : Nat) (nw : Bool) : Word := BitVec.ofNat 64 (cause * 2 ^ 8 + nw.toNat * 2 ^ 5 + spawn % 16)

/-- The return that a task sends to its parent's join buffer (R227, R319): zero words and the cause, when the drover has ended
it. -/
def Strand.returnOf (t : Strand) (g : CellId) (cause : Option Nat) (nw : Bool) : TaskReturn :=
  let link := (t.dw 62).toNat
  let z (n : Fin 5) : Word := if cause.isNone then t.m n else 0
  ⟨g, hiveOf g * 4096 + link % 4096, link / 2 ^ 16 % 64, link / 2 ^ 48, link / 2 ^ 12 % 16, z 1, z 2, z 3, z 4,
    taskStatus (cause.getD 0) (link / 2 ^ 12 % 16) nw⟩

/-- Drop the streams of a firing (R190). -/
def Cell.dropStreams (c : Cell) (fid : Nat) : Cell := { c with streams := c.streams.filter fun x => x.fid != fid }

/-- Move a ring's head past positions whose firings have ended. -/
def advanceHead (finished : List Nat) : Nat → Nat → Nat × List Nat
  | 0, head => (head, finished)
  | n + 1, head =>
    if head ∈ finished then advanceHead (del finished head) n ((head + 1) % 2 ^ 32) else (head, finished)

/-- The head moves past the reserved inputs of a firing that ends (R307). -/
def State.releaseInputs (s : State) (g : CellId) (f : Firing) : State :=
  let d := (s.cellAt g).slotDyn f.slot
  if f.task then
    let (head, fin) := advanceHead (f.head :: d.finished) (d.finished.length + 1) (s.slotHead g f.slot)
    let gone := fun p : Nat => p ∉ fin && p ∉ del d.claimed f.head && decide (p = f.head || p ∈ d.finished)
    let s := s.setQptr g f.slot head (s.slotTail g f.slot)
    s.setSlotDyn g f.slot { d with claimed := del d.claimed f.head, finished := fin,
                                   waiting := d.waiting.filter fun x => !gone x.1 }
  else
    let head := (f.head + f.rate) % 2 ^ 32
    let s := s.setQptr g f.slot head (s.slotTail g f.slot)
    s.setSlotDyn g f.slot { d with readyAt := s.now,
                                   waiting := d.waiting.filter fun x => decide (f.rate ≤ (x.1 + 2 ^ 32 - f.head) % 2 ^ 32) }

/-- The firing's engine instructions keep its STATUS (R367). -/
def State.keepStatus (s : State) : State :=
  let f (q : List EngEntry) : List EngEntry := q.map fun x => if x.fid = s.me.fid then { x with stat := s.me.status } else x
  let c := s.cell
  s.setCur { c with vuQ := f c.vuQ, sceQ := f c.sceQ, fgQ := f c.fgQ, sduQ := f c.sduQ }

/-- End the firing of the current strand (R230, R307): a task's return words are sent, its streams are unbound, the
workspace is written back and unbound, and the strand leaves. `cause` is the cause of an end by the drover; an end that waits
for nothing (`nw`) leaves its engine instructions with its STATUS (R367). -/
def State.endFiring (s : State) (cause : Option Nat) (nw : Bool) : State :=
  let t := s.me
  let g := s.curCell
  match t.firing with
  | none => s
  | some f =>
    let s := if nw then s.keepStatus else s
    let s := if f.task then (s.push (.taskReturnArrival (t.returnOf g cause nw))).countSent g else s
    let zero := (((t.ws.set 40 0).set 41 0).set 42 0).set 43 0
    let t := { t with ws := zero }
    let s := s.setCur (s.cell.dropStreams f.fid)
    let s := s.writeBack g t
    let s := s.setMe { Strand.reset with run := .leaving, ws := t.ws, wp := t.wp }
    let s := s.releaseInputs g f
    let c := s.cell
    let jb := (look c.joins f.pool).getD ⟨0, []⟩
    let s := s.setCur { c with poolUsed := del c.poolUsed f.pool,
                               joins := put c.joins f.pool ⟨(jb.gen + 1) % 2 ^ 16, []⟩ }
    let s := s.push (.inputAdvance g f.slot)
    s.push (.strandFree g s.curStrand)

/-- STRAND_FREE (R311): after LEAVING the strand is free, and is offered to a claim or to the choice. -/
def execStrandFree (g : CellId) (k : StrandId) (s : State) : Host.Outcome State Fault Refusal :=
  .next (
    let t := s.strandAt g k
    if t.run != .leaving then s
    else (s.setStrand g k { Strand.reset with ws := t.ws }).push (.firingChoice g k))

/-! ### Draining (R230) -/

/-- Queue entries of the current firing in the four engines. -/
def Cell.engineEntries (c : Cell) : List EngEntry := c.vuQ ++ c.sceQ ++ c.fgQ ++ c.sduQ
def State.engineBusy (s : State) : Bool := s.cell.engineEntries.any fun e => e.fid == s.me.fid

/-- A stepped operation of the current firing, or of its strand, is not accepted yet (R230, R255). -/
def State.steppedBusy (s : State) : Bool :=
  s.pending.any fun i => match i with
    | .steppedOpAccept op => op.src == s.curCell && (op.fid == s.me.fid || op.strand == s.curStrand)
    | _ => false

/-- What `DONE` and `FOLD` wait for (R230, R249): long-latency results, engine instructions, stores and stepped
operations. -/
def State.drained (s : State) : Bool :=
  s.me.longs.isEmpty && s.me.shadow.isNone && !s.engineBusy && !s.storesOut && !s.steppedBusy

/-- A firing that the drover has ended ends once what `DONE` waits for is over, with the cause of its record (R227, R368). -/
def State.endDrained (s : State) : State :=
  if s.drained then s.endFiring (some ((s.me.dw 58).toNat % 64)) false
  else (s.setMe { s.me with run := .ending }).stillPending (.parkedStrandResume s.curCell s.curStrand)

/-! ### Switching out (R229, R316) -/

/-- A candidate makes a `YIELD` switch its firing out (R316). -/
def State.switches (s : State) : Bool :=
  let c := s.cell
  let t := s.me
  let held := s.now - (t.firing.map fun f => f.tookAt).getD 0
  (s.cands s.curCell).any fun x =>
    let e := x.eff (schedAgep c)
    decide (t.prio < e) || (e == t.prio && decide (2 ^ schedQuantl c ≤ held))

/-- Switch the current firing out (R229): the PC after the `YIELD` goes to doubleword 49, the workspace is written
back and unbound, and the strand leaves. -/
def State.switchOut (s : State) (pc : Nat) : State :=
  let t := s.me
  let g := s.curCell
  match t.firing with
  | none => s
  | some f =>
    let t := t.setDw 49 (BitVec.ofNat 64 pc)
    let s := s.writeBack g t
    let s := s.setMe { Strand.reset with run := .leaving, ws := t.ws, wp := t.wp }
    let c := s.cell
    (s.setCur { c with switched := c.switched ++ [⟨f, t.wp, s.now⟩] }).push (.strandFree g s.curStrand)

end Sys2Proof.Machine
end

