-- ==== Sys2Proof/Machine/Control.lean ====
section
/-! DEFINITION. Control transfer, system and pointer registers, fences, slice maintenance, traps and returns
(R134-R144), and what begins, ends and holds a firing or a swarm from inside (R171-R176, R229, R230, R249). -/

namespace Sys2Proof

def SwarmSize.cells : SwarmSize → Nat
  | .n2 => 2 | .n4 => 4 | .n8 => 8

end Sys2Proof

namespace Sys2Proof.Machine

/-! ### Branches and jumps (R87, R134, R135) -/

/-- Go to a target below 0x7_F000; another one traps `ACCESS` with kind 3 (R87). -/
def State.jumpTo (s : State) (target : Nat) : State :=
  if 0x7F000 ≤ target then s.raise (accessTrap (BitVec.ofNat 64 target) 3) else s.retireJump target

/-- A conditional branch (R134). -/
def State.branch (s : State) (taken : Bool) (off : Int) : State :=
  if taken then s.jumpTo (branchTarget s.me.pc off) else s.retire

/-- `BEQ` (R134): the leader's registers decide in a swarm (R173). -/
def execBeq (a b : WReg) (off : BitVec 14) (s : State) : Host.Outcome State Fault Refusal :=
  .next (s.branch (s.fetcher.w a == s.fetcher.w b) off.toInt)

/-- `BNE` (R134). -/
def execBne (a b : WReg) (off : BitVec 14) (s : State) : Host.Outcome State Fault Refusal :=
  .next (s.branch (s.fetcher.w a != s.fetcher.w b) off.toInt)

/-- `BLT` (R134): signed. -/
def execBlt (a b : WReg) (off : BitVec 14) (s : State) : Host.Outcome State Fault Refusal :=
  .next (s.branch ((s.fetcher.w a).slt (s.fetcher.w b)) off.toInt)

/-- `BGE` (R134): signed. -/
def execBge (a b : WReg) (off : BitVec 14) (s : State) : Host.Outcome State Fault Refusal :=
  .next (s.branch (!(s.fetcher.w a).slt (s.fetcher.w b)) off.toInt)

/-- `BLTZ` (R134). -/
def execBltz (a : WReg) (off : BitVec 14) (s : State) : Host.Outcome State Fault Refusal :=
  .next (s.branch ((s.fetcher.w a).getLsbD 63) off.toInt)

/-- `BGEZ` (R134). -/
def execBgez (a : WReg) (off : BitVec 14) (s : State) : Host.Outcome State Fault Refusal :=
  .next (s.branch (!(s.fetcher.w a).getLsbD 63) off.toInt)

/-- `BCF` (R134). -/
def execBcf (off : BitVec 14) (s : State) : Host.Outcome State Fault Refusal :=
  .next (s.branch s.fetcher.cf off.toInt)

/-- `BNCF` (R134). -/
def execBncf (off : BitVec 14) (s : State) : Host.Outcome State Fault Refusal :=
  .next (s.branch (!s.fetcher.cf) off.toInt)

/-- Address of the bundle after the one at a pc (R135). -/
def nextBundle (pc : Nat) : Nat := pc / 8 * 8 + 8

/-- Jump by an offset and link; a target that traps writes nothing (R87, R135). -/
def State.jumpLink (s : State) (d : WReg) (target : Nat) : State :=
  if 0x7F000 ≤ target then s.jumpTo target
  else (s.setW d (BitVec.ofNat 64 (nextBundle s.me.pc))).jumpTo target

/-- The checks of a register target (R87, R135). -/
def State.jumpReg (s : State) (v : Word) (k : Nat → State) : State :=
  if v.toNat % 8 != 0 then s.raise ⟨.misaligned, v, 8, 0, 0, 0⟩ else k v.toNat

/-- `J` (R135). -/
def execJ (off : BitVec 19) (s : State) : Host.Outcome State Fault Refusal :=
  .next (s.jumpTo (branchTarget s.me.pc off.toInt))

/-- `JL` (R135). -/
def execJl (d : WReg) (off : BitVec 19) (s : State) : Host.Outcome State Fault Refusal :=
  .next (s.jumpLink d (branchTarget s.me.pc off.toInt))

/-- `JR` (R135). -/
def execJr (a : WReg) (s : State) : Host.Outcome State Fault Refusal :=
  .next (s.jumpReg (s.fetcher.w a) s.jumpTo)

/-- `JLR` (R135): the target is read before the link is written. -/
def execJlr (d a : WReg) (s : State) : Host.Outcome State Fault Refusal :=
  .next (s.jumpReg (s.fetcher.w a) (s.jumpLink d))

/-! ### System registers (R25-R38, R136) -/

/-- CELLID of a cell (R29). -/
def State.cellid (s : State) (g : CellId) : Word := BitVec.ofNat 64 (s.combsPerDie * 2 ^ 24 + g)

/-- ENGPEND (R38). -/
def State.engpend (s : State) : Word :=
  let c := s.cell
  let own (q : List EngEntry) : Nat := (q.filter fun e => e.strand == s.curStrand).length
  let f (q : List EngEntry) (sh : Nat) : Nat := (min (own q) 2 + min q.length 2 * 4) * 2 ^ sh
  BitVec.ofNat 64 (f c.vuQ 0 + f c.sceQ 4 + f c.fgQ 8 + f c.sduQ 12 + min s.pstore 65535 * 2 ^ 16)

/-- The value of a system register, if the number is listed (R25). -/
def State.sysreg (s : State) (n : Nat) : Option Word :=
  let t := s.me
  let c := s.cell
  match n with
  | 0x000 => some t.status
  | 0x001 => some (BitVec.ofNat 64 t.wp)
  | 0x002 => some (BitVec.ofNat 64 (((s.jobOf s.curCell).map fun j => j.2.step).getD 0))
  | 0x003 => some (s.cellid s.curCell)
  | 0x004 => some (t.dw 55)
  | 0x005 => some (BitVec.ofNat 64 ((t.firing.map fun f => f.encv).getD 0))
  | 0x006 => some (t.dw 56)
  | 0x007 => some (t.dw 57)
  | 0x010 => some (t.dw 51)
  | 0x011 => some (t.dw 52)
  | 0x018 => some (t.dw 53)
  | 0x020 => some (BitVec.ofNat 64 (s.evcount % 2 ^ 32))
  | 0x021 => some (t.dw 54)
  | 0x030 => some (t.dw 58)
  | 0x031 => some (t.dw 59)
  | 0x032 => some (t.dw 60)
  | 0x033 => some (t.dw 61)
  | 0x040 => some (BitVec.ofNat 64 (c.allowEv % 256 + c.allowRq % 256 * 2 ^ 8 + c.allowSv % 256 * 2 ^ 16))
  | 0x041 => some c.pmask
  | 0x048 => some s.engpend
  | _ => none

/-- Registers that user mode may write (R25). -/
def userWritable (n : Nat) : Bool := n == 0x000 || n == 0x010 || n == 0x011

/-- The workspace address that an `MTS` to WP names (R27). -/
def wpOf (v : Word) : Nat := v.toNat / 2 ^ 9 % 2 ^ 10 * 2 ^ 9

/-- A workspace that may be bound: in bank W, below the slot table, held by no other strand (R14, R27). -/
def State.wpOk (s : State) (a : Nat) : Bool :=
  decide (0x60000 ≤ a) && decide (a + 512 ≤ 0x7F000) &&
    [0, 1, 2, 3].all fun k : StrandId =>
      k == s.curStrand || !(s.strandAt s.curCell k).owns || (s.strandAt s.curCell k).wp != a

/-- The register-file copy after `MTS` to WP: the new workspace's, but the strand keeps its mode, its priority, its
swarm fields, its number and its watchdog count (R27, R41; log entry 22). -/
def rebound (old new : Vector Word 64) : Vector Word 64 :=
  let st := (old[50] &&& ~~~(1 : Word)) ||| (new[50] &&& 1)
  let yl := (new[54] &&& 0xFFF) ||| (old[54] &&& 0xFFFFFF0000)
  ((new.set 50 st).set 54 yl).set 55 old[55]

/-- `MTS` to WP in supervisor mode (R27). -/
def State.rebind (s : State) (v : Word) : State :=
  let a := wpOf v
  let t := s.me
  if !s.wpOk a then s.raise (accessTrap v 0)
  else
    let s' := (s.writeBack s.curCell t).touch s.curCell a
    match s'.badDw (tcmBase s.curCell + a) with
    | some bad => s.raise ⟨.uncorrectable, BitVec.ofNat 64 (bad - tcmBase s.curCell), 0, 0, 0, 0⟩
    | none => (s'.setMe { t with wp := a, ws := rebound t.ws (s'.loadWs (tcmBase s.curCell + a) (t.firing.any fun f => f.task)) }).retire

/-- Write a system register whose number is listed and whose write is allowed (R25-R37, R43, R44). -/
def State.writeSysreg (s : State) (n : Nat) (v : Word) : State :=
  let t := s.me
  match n with
  | 0x000 => (s.setMe (t.setCf (v.getLsbD 0))).retire
  | 0x001 => s.rebind v
  | 0x010 => (s.setMe (t.setDw 51 (v &&& 0x1F))).retire
  | 0x011 => (s.setMe (t.setDw 52 (v &&& 0x1F))).retire
  | 0x021 => (s.setMe (t.setYlimit (v.toNat % 4096) t.left)).retire
  | 0x030 => (s.setMe (t.setDw 58 (v &&& trapCauseMask))).retire
  | 0x031 => (s.setMe (t.setDw 59 (v &&& 0x7FFFF))).retire
  | 0x032 => (s.setMe (t.setDw 60 v)).retire
  | 0x033 => (s.setMe (t.setDw 61 v)).retire
  | 0x041 => (s.setCur { s.cell with pmask := v &&& 0x3FFFF }).retire
  | _ => s.retire

/-- `MFS` (R136). -/
def execMfs (d : WReg) (n : BitVec 12) (s : State) : Host.Outcome State Fault Refusal :=
  .next (match s.sysreg n.toNat with
    | some v => (s.setW d v).retire
    | none => s.raise ⟨.illegalInstruction, s.instrWord (.mfs d n), 0, 0, 0, 0⟩)

/-- `MTS` (R25, R136): ignored in supervisor mode for a register that is read-only there. -/
def execMts (n : BitVec 12) (a : WReg) (s : State) : Host.Outcome State Fault Refusal :=
  .next (match s.sysreg n.toNat with
    | none => s.raise ⟨.illegalInstruction, s.instrWord (.mts n a), 0, 0, 0, 0⟩
    | some _ =>
      if !s.me.sv && !userWritable n.toNat then
        s.raise ⟨.privilege, s.instrWord (.mts n a), BitVec.ofNat 64 n.toNat, 0, 0, 0⟩
      else s.writeSysreg n.toNat (s.w a))

/-! ### Pointer registers and VL (R137, R138) -/

/-- `PSET` (R137). -/
def execPset (p : PReg) (a : WReg) (s : State) : Host.Outcome State Fault Refusal :=
  .next (s.setMe (s.me.setP p (s.w a))).retire

/-- `PGET` (R137). -/
def execPget (d : WReg) (p : PReg) (s : State) : Host.Outcome State Fault Refusal :=
  .next (s.setW d (s.me.p p)).retire

/-- `SETVL` (R138). -/
def execSetvl (d a : WReg) (s : State) : Host.Outcome State Fault Refusal :=
  .next ((s.setMe (s.me.setVl (min (s.w a).toNat 524288))).setW d
    (BitVec.ofNat 64 (min (s.w a).toNat 524288))).retire

/-! ### Fences and the fetch buffer (R139, R140) -/

/-- Entries of the firing in the VU, the SCE and the SDU. -/
def State.computeBusy (s : State) : Bool :=
  (s.cell.vuQ ++ s.cell.sceQ ++ s.cell.sduQ).any fun e => e.fid == s.me.fid

/-- Every earlier access of the strand is performed at a scope (R139). -/
def State.fenced (s : State) (c : Scope) : Bool :=
  s.performedAll && !s.computeBusy &&
    match c with
    | .strand | .cell | .comb => true
    | .hive => !s.storesOut
    | .job => !s.storesOut && !s.steppedBusy

/-- `NOP` (R144). -/
def execNop (s : State) : Host.Outcome State Fault Refusal := .next s.retire

/-- `FENCE` (R139): the strand stalls until every earlier access is performed at the scope. -/
def execFence (c : Scope) (s : State) : Host.Outcome State Fault Refusal :=
  .next (if s.fenced c then s.retire else s)

/-- `IFENCE` (R140): the buffer keeps only the bundle being issued. -/
def execIfence (s : State) : Host.Outcome State Fault Refusal :=
  .next (if s.performedAll then
      (s.setMe { s.me with buf := s.me.buf.filter fun b => b.1 == s.me.pc / 8 * 8 }).retire
    else s)

/-! ### Slice maintenance (R141) -/

/-- `CINV` (`inv`) and `CFLUSH`: no effect below 2^20 and in a window; a virtual address counts in PSTORE until its
slice has answered. -/
def State.sliceOp (s : State) (addr : Nat) (inv : Bool) : State :=
  if addr < 2 ^ 20 then s.retire
  else if addr < 2 ^ 57 then
    let c := s.cell
    let st : PStore := ⟨c.nextId, s.curStrand, s.me.fid, .slice addr inv⟩
    ((s.setCur { c with nextId := c.nextId + 1, stores := c.stores ++ [st] }).push
      (.storeAcknowledgement s.curCell s.curStrand c.nextId)).retire
  else if (scratchWindow ≤ addr && addr < scratchWindow + 2 ^ 31) || (tcmWindow ≤ addr && addr < tcmWindow + 2 ^ 32)
  then s.retire
  else s.raise (accessTrap (BitVec.ofNat 64 addr) 1)

/-- `CINV` (R141). -/
def execCinv (a : WReg) (s : State) : Host.Outcome State Fault Refusal := .next (s.sliceOp (s.w a).toNat true)

/-- `CFLUSH` (R141). -/
def execCflush (a : WReg) (s : State) : Host.Outcome State Fault Refusal := .next (s.sliceOp (s.w a).toNat false)

/-! ### Traps and returns (R142, R143) -/

/-- `TRAP` (R142). -/
def execTrap (n : BitVec 12) (a : WReg) (s : State) : Host.Outcome State Fault Refusal :=
  .next (s.raise ⟨.software, BitVec.ofNat 64 n.toNat, s.w a, 0, 0, 0⟩)

/-- The strand runs the handler entered by `WATCHDOG` (R42). -/
def Strand.inWdog (t : Strand) : Bool := t.sv && (t.firing.map fun f => f.wdog).getD false

/-- `RTT` (R96, R143): back to user mode from the trap record; after `WATCHDOG` the firing ends (R42). -/
def execRtt (s : State) : Host.Outcome State Fault Refusal :=
  .next (if !s.me.sv then s.raise ⟨.privilege, s.instrWord .rtt, 0, 0, 0, 0⟩
    else if s.me.inWdog then s.endFiring none true
    else s.resumeRecord)

/-! ### Swarms (R171-R176) -/

/-- A follower cell that the check of R171 fails. -/
def State.badFollower (s : State) (g : CellId) : Bool :=
  !s.cellExists g || (s.cellAt g).fenced || (s.cellAt g).job != s.cell.job

/-- The lowest member index whose cell fails the check. -/
def State.firstBad (s : State) (n : SwarmSize) : Option Nat :=
  ((List.range n.cells).drop 1).find? fun i => s.badFollower (s.curCell + i)

/-- Ask a follower cell for a strand; a free one is granted (R171). -/
def State.claimCell (s : State) (i : Nat) : State :=
  let g := s.curCell + i
  let c := s.cellAt g
  let s := s.setCell g { c with claims := c.claims ++ [⟨s.curCell, s.curStrand, i⟩] }
  match c.lowestFree with
  | some k => s.push (.swarmClaimGrant g k)
  | none => s

/-- `SWARM` (R171): the checks, then the leader parks and its claims go out. -/
def execSwarm (n : SwarmSize) (s : State) : Host.Outcome State Fault Refusal :=
  .next (if s.me.sv || s.me.swm then s.raise ⟨.illegalInstruction, s.instrWord (.swarm n), 0, 0, 0, 0⟩
    else if inComb s.curCell % n.cells != 0 then s.raise ⟨.access, s.cellid s.curCell, 0, 0, 0, 0⟩
    else match s.firstBad n with
      | some i => s.raise ⟨.access, s.cellid s.curCell, BitVec.ofNat 64 (0x100 + i), 0, 0, 0⟩
      | none =>
        let s := s.park (.swarm n) 0
        let w : SwarmInfo := ⟨s.curCell, s.curStrand, [(s.curCell, s.curStrand)], n⟩
        let s := s.setMe { s.me with swarm := some w }
        ((List.range n.cells).drop 1).foldl State.claimCell s)

/-- STATUS of a member (R26, R171, R172). -/
def memberStatus (leader : Word) (n : SwarmSize) (ix : Nat) : Word :=
  BitVec.ofNat 64 (leader.toNat % 2 ^ 6 + 2 ^ 6 + (if ix = 0 then 2 ^ 7 else 0) + n.code * 2 ^ 8 + ix * 2 ^ 10)

/-- The workspace with which a follower starts (R172). -/
def followerRegs (l : Vector Word 64) (n : SwarmSize) (ix : Nat) (k : StrandId) : Vector Word 64 :=
  Vector.ofFn fun i : Fin 64 =>
    if i.val < 40 then l[i.val]
    else if i.val < 44 then 0
    else if i.val < 49 then l[i.val]
    else match i.val with
      | 50 => memberStatus l[50] n ix
      | 52 => l[52]
      | 53 => l[53]
      | 54 => l[54]
      | 55 => BitVec.ofNat 64 (l[55].toNat / 4 * 4 + k.val)
      | 56 => l[56]
      | 57 => l[57]
      | _ => 0

/-- The member strand in the cell with index `i`. -/
def SwarmInfo.member (w : SwarmInfo) (i : Nat) : Option (CellId × StrandId) :=
  w.members.find? fun m => m.1 == w.leaderCell + i

/-- The members in the order of their indexes. -/
def SwarmInfo.sorted (w : SwarmInfo) : SwarmInfo :=
  { w with members := (List.range w.size.cells).filterMap w.member }

/-- Copy the leader's state into one follower (R172); binding its workspace is an access to bank W (R271, R273). -/
def State.formFollower (s : State) (w : SwarmInfo) (pc : Nat) (i : Nat) : State :=
  match w.member i with
  | some (g, k) =>
    let t := s.strandAt g k
    (s.touch g t.wp).setStrand g k { t with run := .issuing, pc := pc, ws := followerRegs s.me.ws w.size i k, swarm := some w, note := 0 }
  | none => s

/-- Every follower cell has given a strand: the swarm is formed and the leader goes on (R171, R172). -/
def State.formSwarm (s : State) : State :=
  match s.me.swarm with
  | some w =>
    if w.members.length = w.size.cells && !s.me.swm then
      let w := w.sorted
      let s := ((List.range w.size.cells).drop 1).foldl (fun s i => s.formFollower w s.me.nextPc i) s
      (s.setMe { s.me.setStatus (memberStatus s.me.status w.size 0) with swarm := some w }).retire
    else s
  | none => s

/-- The engine instructions of every member have retired and no store of one is unacknowledged (R176). -/
def State.membersDrained (s : State) (w : SwarmInfo) : Bool :=
  w.members.all fun m => !(s.at m.1 m.2).engineBusy && !(s.at m.1 m.2).storesOut

/-- Steps 2 to 4 of R176 for the followers. -/
def State.dismiss (s : State) : List (CellId × StrandId) → State
  | [] => s
  | (g, k) :: r =>
    let fl := (s.strandAt g k).fflags
    let s := s.setMe (s.me.raiseFlags fl)
    (s.freeFollower g k).dismiss r

/-- The swarm ends by its leader's word (R176). -/
def State.unswarm (s : State) (w : SwarmInfo) : State :=
  let s := s.dismiss (w.members.filter (· != (w.leaderCell, w.leaderStrand)))
  s.setMe s.me.leaveSwarm

/-- End the swarm that the current strand leads once its members are drained, then carry on; without a swarm carry on
at once (R174, R176). -/
def State.afterUnswarm (s : State) (k : State → State) : State :=
  match s.me.swarm with
  | some w => if s.membersDrained w then k (s.unswarm w) else s
  | none => k s

/-- `UNSWARM` (R176). -/
def execUnswarm (s : State) : Host.Outcome State Fault Refusal := .next (s.afterUnswarm State.retire)

/-! ### Yield and completion (R229, R230, R249) -/

/-- The budget that a `YIELD` grants (R35, R98). -/
def Strand.budget (t : Strand) (n : BitVec 12) : Nat :=
  if n = 0 then (t.firing.map fun f => f.defdl).getD 0 else n.toNat

/-- The YLIMIT part of `YIELD` (R35). -/
def Strand.reload (t : Strand) (n : BitVec 12) : Strand :=
  if t.inWdog then t.setYlimit (t.budget n) t.left else t.setYlimit (t.budget n) (t.budget n * 64)

/-- `YIELD` (R229): it waits for the strand's engine instructions, loads YLIMIT, and in user mode outside a swarm
the scheduler may switch the firing out (R316). -/
def execYield (n : BitVec 12) (s : State) : Host.Outcome State Fault Refusal :=
  .next (if s.engineBusy then s
    else
      let s := s.setMe (s.me.reload n)
      if !s.me.sv && !s.me.swm && s.switches then s.switchOut s.me.nextPc else s.retire)

/-- `DONE` (R230): in a swarm after `UNSWARM` (R174). -/
def execDone (s : State) : Host.Outcome State Fault Refusal :=
  .next (s.afterUnswarm fun s => if s.drained then s.endFiring none false else s)

/-- `DONE.nw` (R230). -/
def execDoneNw (s : State) : Host.Outcome State Fault Refusal :=
  .next (s.afterUnswarm fun s => s.endFiring none true)

/-- `FOLD` (R249): it waits as `DONE` does, then the strand is folded until the release of the open, and a gather
goes on its way (R357). -/
def execFold (s : State) : Host.Outcome State Fault Refusal :=
  .next (if !s.drained then s
    else
      let s := s.setMe { s.me with run := .folded, since := s.now, note := 0 }
      match s.cell.job with
      | some j => (s.watchStall s.curCell).stillPending (.foldGather j)
      | none => s)

end Sys2Proof.Machine
end

