-- ==== Sys2Proof/Machine/Engine.lean ====
section
/-! DEFINITION. The engine queues (R151, R177-R181), shadows and engine traps (R153-R156, R80), and access of an
engine to the cell's TCM (R148). -/

namespace Sys2Proof

/-- The pointer operands of a V instruction, in the order D, A, B, M (R146). -/
def Instr.ptrArgs : Instr → List PtrArg
  | .vadd _ _ _ d a b | .vsub _ _ _ d a b | .vmul _ _ _ d a b | .vma _ _ _ d a b | .vmin _ _ d a b
  | .vmax _ _ d a b | .vand _ d a b | .vor _ d a b | .vxor _ d a b | .vshl _ d a b | .vshr _ d a b
  | .vcmp _ _ d a b | .vdot _ _ d a b | .vperm _ d a b | .vclmul _ d a b | .vhash _ d a b | .vcmpb d a b
  | .vfindb d a b => [d, a, b]
  | .vsel _ d a b m => [d, a, b, m]
  | .vcvt _ _ _ _ d a | .vred _ _ _ d a | .vscan _ _ _ d a | .vfill _ d a | .vcopy _ d a => [d, a]
  | .vgath _ d a b => [d, ⟨a, false⟩, b]
  | .vscat _ d a b => [⟨d, false⟩, a, b]
  | _ => []

/-- The V instructions (R145). -/
def Instr.isVec (i : Instr) : Bool := !i.ptrArgs.isEmpty

/-- The engine whose queue takes an instruction (R151, R177). -/
def Instr.engine : Instr → Option Eng
  | .push .. | .pushx .. | .fact .. | .fconsA .. | .fconsB .. | .fconsM .. | .fwrite .. | .fpre .. => some .forager
  | .cdmac .. | .cdmacv .. | .mma .. | .zclr .. | .zcvt .. => some .sce
  | .sdcfg .. | .sdscan .. | .sdflush .. => some .sdu
  | i => if i.isVec then some .vu else none

/-- Queued instructions that access the Z array (R181). -/
def Instr.usesZ : Instr → Bool
  | .cdmac .. | .cdmacv .. | .mma .. | .zclr .. | .zcvt .. | .sdscan .. | .sdflush .. => true
  | _ => false

/-- Instructions whose replay starts at the element that trapped (R157, R179). -/
def Instr.resumable : Instr → Bool
  | .vred .. | .vdot .. | .vcmpb .. | .vfindb .. => false
  | .cdmac .. | .cdmacv .. | .mma .. | .zcvt .. | .sdscan .. | .sdflush .. => true
  | i => i.isVec

end Sys2Proof

namespace Sys2Proof.Machine

def Cell.queue (c : Cell) : Eng → List EngEntry
  | .vu => c.vuQ | .sce => c.sceQ | .forager => c.fgQ | .sdu => c.sduQ

def Cell.setQueue (c : Cell) (e : Eng) (q : List EngEntry) : Cell :=
  match e with
  | .vu => { c with vuQ := q }
  | .sce => { c with sceQ := q }
  | .forager => { c with fgQ := q }
  | .sdu => { c with sduQ := q }

/-- ENG codes (R43). -/
def engCode : Eng → Nat
  | .vu => 1 | .sce => 2 | .forager => 3 | .sdu => 4

/-- Both entries are occupied (R151, R177). -/
def State.queueFull (s : State) (e : Eng) : Bool := decide (2 ≤ (s.cell.queue e).length)

/-- Issue the word at the pc into a queue: operands as read now, pointers already advanced to `ptrs'`; the shadow of
the instruction begins (R147, R153, R178). A replay starts at the recorded element (R155, R179). -/
def State.enqueue (s : State) (e : Eng) (i : Instr) (regs ptrs : List Word) (advance : Strand → Strand) : State :=
  let t := s.me
  let c := s.cell
  let slot := match t.replay with
    | some r => if r.law then r.slot else 0
    | none => 0
  let en : EngEntry :=
    ⟨c.nextId, s.curStrand, t.fid, t.slotNo, s.actorCell, t.fenable, t.pc, i, regs, ptrs, t.vl,
      t.replaySt (engCode e) i.resumable, false, if i.usesZ then some c.zNext else none, 0, 0, false, false, 0, none⟩
  let old := Vector.ofFn fun k : Fin 8 => t.p k
  let c := { c.setQueue e (c.queue e ++ [en]) with nextId := c.nextId + 1, zNext := c.zNext + i.usesZ.toNat }
  let s := s.setCur c
  let t := { advance s.me.countRetired with pc := s.me.nextPc, replay := none, run := .issuing }
  ((s.setMe { t with shadow := some ⟨en.id, en.pc, i, slot, old⟩ }).stillPending (.engineInstructionStart s.curCell e)).settle

/-- Mark the entry that an engine performs (R177). -/
def Cell.markStarted (c : Cell) (e : Eng) (id : Nat) : Cell :=
  c.setQueue e ((c.queue e).map fun x => if x.id = id then { x with started := true } else x)

def Cell.dropEntry (c : Cell) (e : Eng) (id : Nat) : Cell := c.setQueue e ((c.queue e).filter fun x => x.id != id)

def Cell.setEntry (c : Cell) (e : Eng) (en : EngEntry) : Cell :=
  c.setQueue e ((c.queue e).map fun x => if x.id = en.id then en else x)

/-- An earlier instruction of the cell has still to finish its access to the Z array (R181). -/
def Cell.zBusyBefore (c : Cell) (n : Nat) : Bool :=
  (c.sceQ ++ c.sduQ).any fun x => match x.zseq with
    | some z => decide (z < n)
    | none => false

/-! ### Retirement and traps in the engine stream (R80, R154) -/

/-- Pointers that the instruction post-incremented go back to their values at issue (R154). -/
def Strand.restorePtrs (t : Strand) (old : Vector Word 8) : List PtrArg → Strand
  | [] => t
  | p :: r => (if p.inc then t.setP p.reg old[p.reg] else t).restorePtrs old r

/-- The end of an engine instruction whose firing is still there: flags, then its trap, or what the shadow held
(R80, R153, R154). -/
def State.engineFinish (s : State) (en : EngEntry) (fl : BitVec 5) (tr : Option Trap) : State :=
  let t := s.me.raiseFlags fl
  match tr, t.shadow with
  | none, some sh => (s.setMe (if sh.entry = en.id then { t with shadow := none } else t)).settle
  | none, none => (s.setMe t).settle
  | some tr, some sh =>
    if sh.entry = en.id then
      (s.setMe (t.restorePtrs sh.ptrs en.instr.ptrArgs)).takeTrap tr en.pc true sh.slot
    else (s.setMe t).takeTrap tr en.pc true 0
  | some tr, none => (s.setMe t).takeTrap tr en.pc true 0

/-- A trap of an instruction whose firing has ended by `DONE.nw` goes to the drover with ESC = 1 (R80). -/
def State.escalateOrphan (s : State) (g : CellId) (en : EngEntry) (tr : Trap) : State :=
  s.sendFault 0 g en.slot en.strand [setBit (tr.causeWord false 0) 16 true, BitVec.ofNat 64 en.pc, tr.val, tr.aux] en.stat

/-- Count in an ENGCTR counter (R339). -/
def State.count (s : State) (g : CellId) (n : Fin 8) (v : Nat) : State :=
  let c := s.cellAt g
  s.setCell g { c with engctr := c.engctr.set n (c.engctr[n] + BitVec.ofNat 64 v) }

/-- BANKWAIT grows by the cycles that the accesses of an engine instruction lose in bank arbitration (R337, R339): a free
value, since the model has no arbitration (log entry 6). -/
def State.bankWait (s : State) (g : CellId) : State :=
  let (v, s) := s.takeFree
  s.count g 7 v.toNat

/-- An entry leaves its queue (R151, R177) with the flags and the trap of its instruction (R80). -/
def State.engineDone (s : State) (g : CellId) (e : Eng) (en : EngEntry) (fl : BitVec 5) (tr : Option Trap) : State :=
  let tr := tr.map fun t => { t with eng := engCode e }
  let s := s.setCell g ((s.cellAt g).dropEntry e en.id)
  let s := if (s.cellAt g).queue e = [] then s else s.stillPending (.engineInstructionStart g e)
  let alive := ((s.strandAt g en.strand).firing.map fun f => f.fid) == some en.fid
  if alive then s.on g en.strand fun s => s.engineFinish en fl tr
  else match tr with
    | some tr => s.escalateOrphan g en tr
    | none => s

/-! ### Access of an engine to TCM (R148) -/

/-- An engine may touch the bytes: below the slot table, in no bound workspace and no gated bank. -/
def State.engineClosed (s : State) (g : CellId) (a size : Nat) : Bool :=
  decide (0x7F000 < a + size) || (s.cellAt g).closed a size

def engAccess (a k kind : Nat) : Trap := accessTrap (BitVec.ofNat 64 a) kind k

/-- Read `size` bytes of TCM as element `k` of an operand. -/
def State.engRead (s : State) (g : CellId) (a size k : Nat) : Except Trap Nat :=
  if s.engineClosed g a size then .error (engAccess a k 0)
  else if s.rangeMarked (tcmBase g + a) size then .error ⟨.uncorrectable, BitVec.ofNat 64 a, 0, 0, 0, 0⟩
  else .ok (s.read (tcmBase g + a) size)

/-- Write `size` bytes of TCM as element `k` of an operand. -/
def State.engWrite (s : State) (g : CellId) (a size k v : Nat) : Except Trap State :=
  if s.engineClosed g a size then .error (engAccess a k 1)
  else .ok ((s.touch g a).write (tcmBase g + a) size v)

/-- Read element `j` of an operand of `half` half bytes, reported as element `k` (R60, R146). -/
def State.getElem (s : State) (g : CellId) (p : Word) (half j k : Nat) : Except Trap Nat :=
  if half = 1 then
    match s.engRead g (operandAddr p 1 j) 1 k with
    | .ok b => .ok (b / 2 ^ (4 * (j % 2)) % 16)
    | .error e => .error e
  else s.engRead g (operandAddr p half j) (half / 2) k

/-- Replace `w` bits from bit `sh` of a byte. -/
def spliceBits (old sh w v : Nat) : Nat := old % 2 ^ sh + v % 2 ^ w * 2 ^ sh + old / 2 ^ (sh + w) * 2 ^ (sh + w)

/-- Replace bits of a byte of TCM, as part of element `k`. -/
def State.engSplice (s : State) (g : CellId) (a sh w k v : Nat) : Except Trap State :=
  s.engWrite g a 1 k (spliceBits (s.read (tcmBase g + a) 1) sh w v)

/-- Write element `j` of an operand, reported as element `k`. -/
def State.putElem (s : State) (g : CellId) (p : Word) (half j k v : Nat) : Except Trap State :=
  if half = 1 then s.engSplice g (operandAddr p 1 j) (4 * (j % 2)) 4 k v
  else s.engWrite g (operandAddr p half j) (half / 2) k v

/-- What an engine instruction has done: the state, the flags raised, the trap. -/
abbrev EngResult := State × Flags × Option Trap

/-- The record of an enabled flag raised at element `k`, with every flag raised so far (R80). -/
def engFp (fl : Flags) (k : Nat) : Trap := ⟨.fpException, fl.zeroExtend 64, BitVec.ofNat 64 k, 0, 0, 0⟩

/-- Elements `k` onwards one at a time: `f` reads the sources of an element and gives its value and flags, `w` writes
its destination. The first trap ends it, and an element whose write traps has not been performed and raises nothing; an
enabled flag traps before the write (R80, R148, R149). -/
def State.elements (fen : Flags) (f : State → Nat → Except Trap (Nat × Flags))
    (w : State → Nat → Nat → Except Trap State) : Nat → Nat → Flags → State → EngResult
  | 0, _, fl, s => (s, fl, none)
  | n + 1, k, fl, s =>
    match f s k with
    | .error t => (s, fl, some t)
    | .ok (v, fr) =>
      if fr &&& fen != 0 then (s, fl ||| fr, some (engFp (fl ||| fr) k))
      else match w s k v with
        | .error t => (s, fl, some t)
        | .ok s' => s'.elements fen f w n (k + 1) (fl ||| fr)

end Sys2Proof.Machine
end

