-- ==== Sys2Proof/Machine/Vector.lean ====
section
/-! DEFINITION. The V instructions (R145-R170): the checks at issue, the elements, the reductions. -/

namespace Sys2Proof.Machine

/-! ### Operands (R146, R157) -/

/-- Size of an element in half bytes (R59, R60). -/
def elemHalf (f : Fmt) : Nat := if f.isFp then fpBits f / 4 else intWidth f / 4

/-- The accumulation format (R162). -/
def accFmt (f : Fmt) : Fmt :=
  if f = .fp64 then .fp64 else if f.isFp then .fp32 else if intUnsigned f then .uint64 else .int64

/-- n and e of each operand, in the order D, A, B, M (R157). -/
def vecOperands (vl : Nat) : Instr → List Operand
  | .vadd f .. | .vsub f .. | .vmul f .. | .vma f .. | .vmin f .. | .vmax f .. | .vand f .. | .vor f ..
  | .vxor f .. | .vshl f .. | .vshr f .. => [⟨vl, elemHalf f⟩, ⟨vl, elemHalf f⟩, ⟨vl, elemHalf f⟩]
  | .vcmp _ f .. => [⟨(vl + 7) / 8, 2⟩, ⟨vl, elemHalf f⟩, ⟨vl, elemHalf f⟩]
  | .vsel f .. => [⟨vl, elemHalf f⟩, ⟨vl, elemHalf f⟩, ⟨vl, elemHalf f⟩, ⟨(vl + 7) / 8, 2⟩]
  | .vcvt fd fs .. => [⟨vl, elemHalf fd⟩, ⟨vl, elemHalf fs⟩]
  | .vred _ f .. => [⟨1, elemHalf (accFmt f)⟩, ⟨vl, elemHalf f⟩]
  | .vdot f .. => [⟨1, elemHalf (accFmt f)⟩, ⟨vl, elemHalf f⟩, ⟨vl, elemHalf f⟩]
  | .vscan _ f .. => [⟨vl, elemHalf (accFmt f)⟩, ⟨vl, elemHalf f⟩]
  | .vperm f .. => [⟨vl, elemHalf f⟩, ⟨vl, elemHalf f⟩, ⟨vl, 8⟩]
  | .vgath f .. => [⟨vl, elemHalf f⟩, ⟨1, elemHalf f⟩, ⟨vl, 8⟩]
  | .vscat f .. => [⟨1, elemHalf f⟩, ⟨vl, elemHalf f⟩, ⟨vl, 8⟩]
  | .vfill f .. => [⟨vl, elemHalf f⟩, ⟨1, elemHalf f⟩]
  | .vcopy f .. => [⟨vl, elemHalf f⟩, ⟨vl, elemHalf f⟩]
  | .vclmul f .. => [⟨if f = .int64 then 2 * vl else vl, 16⟩, ⟨vl, elemHalf f⟩, ⟨vl, elemHalf f⟩]
  | .vhash f .. => [⟨vl, elemHalf f⟩, ⟨vl, elemHalf f⟩, ⟨1, elemHalf f⟩]
  | .vcmpb .. => [⟨1, 16⟩, ⟨vl, 2⟩, ⟨vl, 2⟩]
  | .vfindb .. => [⟨1, 16⟩, ⟨vl, 2⟩, ⟨min vl 1, 2⟩]
  | _ => []

/-- Post-increment the pointers of a V instruction (R21, R146). -/
def Strand.advance (t : Strand) : List (PtrArg × Operand) → Strand
  | [] => t
  | (p, o) :: r => (if p.inc then t.setP p.reg (ptrAfter (t.p p.reg) o) else t).advance r

/-- Issue a V instruction (R147, R151). -/
def State.issueVec (s : State) (i : Instr) : State :=
  let t := s.me
  let words := i.ptrArgs.map fun p => t.p p.reg
  let ops := vecOperands t.vl i
  s.orRaise (checkPtrs (words.zip ops)) fun _ =>
    if s.queueFull .vu then s
    else s.enqueue .vu i [] words fun t => t.advance (i.ptrArgs.zip ops)

/-! ### Values of elements (R158-R161) -/

/-- The exact result of an integer operation of the vector group, clamped or truncated to the element (R158). -/
def vecInt (f : Fmt) (sat : Bool) (v : Int) : Nat := ofInt (intWidth f) (if sat then clampInt f v else v)

/-- `VADD`, `VSUB`, `VMUL`, `VMA` of patterns a, b and the old D (R158). -/
def vecAdd (f : Fmt) (rm : Rm) (sat : Bool) (a b _d : Nat) : Nat × Flags :=
  if f.isFp then addVal f rm sat (unpack f a) (unpack f b) else (vecInt f sat (intVal f a + intVal f b), 0)
def vecSub (f : Fmt) (rm : Rm) (sat : Bool) (a b _d : Nat) : Nat × Flags :=
  if f.isFp then addVal f rm sat (unpack f a) (unpack f b).neg else (vecInt f sat (intVal f a - intVal f b), 0)
def vecMul (f : Fmt) (rm : Rm) (sat : Bool) (a b _d : Nat) : Nat × Flags :=
  if f.isFp then mulRound f rm sat (unpack f a) (unpack f b) else (vecInt f sat (intVal f a * intVal f b), 0)
def vecMa (f : Fmt) (rm : Rm) (sat : Bool) (a b d : Nat) : Nat × Flags :=
  if f.isFp then fmaRound f rm sat (unpack f a) (unpack f b) (unpack f d)
  else (vecInt f sat (intVal f a * intVal f b + intVal f d), 0)

/-- `VMIN` and `VMAX` (R78, R158). -/
def vecMinMax (f : Fmt) (mx : Bool) (a b : Nat) : Nat × Flags :=
  if f.isFp then minMax f mx a b
  else (if decide (intVal f a ≤ intVal f b) != mx then a else b, 0)

/-- `VSHR` (R158): arithmetic for a signed format. -/
def vecShr (f : Fmt) (a b : Nat) : Nat := ofInt (intWidth f) (intVal f a / (2 ^ (b % intWidth f) : Nat))

/-- The predicate of `VCMP` (R101, R159). -/
def vecPred (p : Pred) (f : Fmt) (a b : Nat) : Bool × Flags :=
  if f.isFp then fpPred p (unpack f a) (unpack f b)
  else (match p with
    | .eq => intVal f a == intVal f b
    | .ne => intVal f a != intVal f b
    | .lt => decide (intVal f a < intVal f b)
    | .le => decide (intVal f a ≤ intVal f b)
    | .un => false, 0)

/-- Carry-less product (R168). -/
def clmul (x y : Nat) : Nat → Nat
  | 0 => 0
  | n + 1 => if y / 2 ^ n % 2 = 1 then Nat.xor (x * 2 ^ n) (clmul x y n) else clmul x y n

/-! ### Performing (R148, R149) -/

/-- Pointer word `n` of an entry. -/
def EngEntry.ptr (en : EngEntry) (n : Nat) : Word := (en.ptrs[n]?).getD 0
def EngEntry.reg (en : EngEntry) (n : Nat) : Word := (en.regs[n]?).getD 0

/-- Sources A and B of element `k`, then `op`. -/
def vecTwo (g : CellId) (en : EngEntry) (half : Nat) (op : Nat → Nat → Nat × Flags) (s : State) (k : Nat) :
    Except Trap (Nat × Flags) :=
  match s.getElem g (en.ptr 1) half k k with
  | .error t => .error t
  | .ok a =>
    match s.getElem g (en.ptr 2) half k k with
    | .error t => .error t
    | .ok b => .ok (op a b)

/-- Sources A, B and the old D of element `k`, then `op`. Where several accesses of one element would trap, the one that
comes first in this order is reported, here and in the instructions below (DESIGN CHOICE, log entry 56). -/
def vecThree (g : CellId) (en : EngEntry) (half : Nat) (op : Nat → Nat → Nat → Nat × Flags) (s : State) (k : Nat) :
    Except Trap (Nat × Flags) :=
  match vecTwo g en half (fun a b => (a * 2 ^ 64 + b, 0)) s k with
  | .error t => .error t
  | .ok (ab, _) =>
    match s.getElem g (en.ptr 0) half k k with
    | .error t => .error t
    | .ok d => .ok (op (ab / 2 ^ 64) (ab % 2 ^ 64) d)

/-- Source A of element `k`, then `op`. -/
def vecOne (g : CellId) (en : EngEntry) (half : Nat) (op : Nat → Nat × Flags) (s : State) (k : Nat) :
    Except Trap (Nat × Flags) :=
  match s.getElem g (en.ptr 1) half k k with
  | .error t => .error t
  | .ok a => .ok (op a)

/-- Write element `k` of D. -/
def vecPut (g : CellId) (en : EngEntry) (half : Nat) (s : State) (k v : Nat) : Except Trap State :=
  s.putElem g (en.ptr 0) half k k v

/-- Elements of an instruction that are still to be performed. -/
def EngEntry.todo (en : EngEntry) : Nat := en.vl - en.st - en.done

/-- Run `n` elements of an entry from the first that has not been performed. -/
def State.vecRun (s : State) (en : EngEntry) (n : Nat) (f : State → Nat → Except Trap (Nat × Flags))
    (w : State → Nat → Nat → Except Trap State) : EngResult :=
  State.elements en.fen f w n (en.st + en.done) en.flags s

/-- An element-wise instruction with two sources of the format of D. -/
def State.vecGroup (s : State) (g : CellId) (en : EngEntry) (n : Nat) (f : Fmt) (op : Nat → Nat → Nat × Flags) : EngResult :=
  s.vecRun en n (vecTwo g en (elemHalf f) op) (vecPut g en (elemHalf f))

/-- Bit `k` of the mask at a pointer. -/
def State.getMask (s : State) (g : CellId) (p : Word) (k : Nat) : Except Trap Nat :=
  match s.engRead g (elemAddr p 1 (k / 8)) 1 k with
  | .ok b => .ok (b / 2 ^ (k % 8) % 2)
  | .error t => .error t

/-- Write mask bit `k`; the bits above the last one are cleared in its byte (R159). -/
def vecMaskPut (g : CellId) (en : EngEntry) (s : State) (k v : Nat) : Except Trap State :=
  s.engSplice g (elemAddr (en.ptr 0) 1 (k / 8)) (k % 8) (if k + 1 = en.vl then 8 - k % 8 else 1) k v

/-- `VSEL` (R160). -/
def vecSelGet (g : CellId) (en : EngEntry) (half : Nat) (s : State) (k : Nat) : Except Trap (Nat × Flags) :=
  match vecTwo g en half (fun a b => (a * 2 ^ 64 + b, 0)) s k with
  | .error t => .error t
  | .ok (ab, _) =>
    match s.getMask g (en.ptr 3) k with
    | .error t => .error t
    | .ok m => .ok (if m = 1 then ab / 2 ^ 64 else ab % 2 ^ 64, 0)

/-- `VPERM` (R165). -/
def vecPermGet (g : CellId) (en : EngEntry) (half : Nat) (s : State) (k : Nat) : Except Trap (Nat × Flags) :=
  match s.getElem g (en.ptr 2) 8 k k with
  | .error t => .error t
  | .ok j =>
    if en.vl ≤ j then .ok (0, 0)
    else match s.getElem g (en.ptr 1) half j k with
      | .error t => .error t
      | .ok a => .ok (a, 0)

/-- The address that offset `b` names from a base pointer (R166). -/
def baseOffset (p : Word) (e b : Nat) : Nat := ofInt 19 (ptrAddr p + toSigned 32 b * e)

/-- `VGATH` (R166). -/
def vecGathGet (g : CellId) (en : EngEntry) (half : Nat) (s : State) (k : Nat) : Except Trap (Nat × Flags) :=
  match s.getElem g (en.ptr 2) 8 k k with
  | .error t => .error t
  | .ok b =>
    match s.engRead g (baseOffset (en.ptr 1) (half / 2) b) (half / 2) k with
    | .error t => .error t
    | .ok a => .ok (a, 0)

/-- `VSCAT` reads A(k) and B(k) (R166). -/
def vecScatGet (g : CellId) (en : EngEntry) (half : Nat) (s : State) (k : Nat) : Except Trap (Nat × Flags) :=
  match s.getElem g (en.ptr 1) half k k with
  | .error t => .error t
  | .ok a =>
    match s.getElem g (en.ptr 2) 8 k k with
    | .error t => .error t
    | .ok b => .ok (a * 2 ^ 32 + b, 0)

/-- `VSCAT` writes at the offset (R166). -/
def vecScatPut (g : CellId) (en : EngEntry) (half : Nat) (s : State) (k v : Nat) : Except Trap State :=
  s.engWrite g (baseOffset (en.ptr 0) (half / 2) (v % 2 ^ 32)) (half / 2) k (v / 2 ^ 32)

/-- `VCLMUL.d` writes two doublewords for element `k` (R168). -/
def vecClmulPut (g : CellId) (en : EngEntry) (s : State) (k v : Nat) : Except Trap State :=
  match s.putElem g (en.ptr 0) 16 (2 * k) k (v % 2 ^ 64) with
  | .error t => .error t
  | .ok s => s.putElem g (en.ptr 0) 16 (2 * k + 1) k (v / 2 ^ 64)

/-! ### Reductions (R78, R162-R164) -/

/-- One combination in the accumulation format. -/
def accOp (o : RedOp) (f : Fmt) (rm : Rm) (x y : Nat) : Nat × Flags :=
  if f.isFp then
    match o with
    | .min => minMax f false x y
    | .max => minMax f true x y
    | _ => addVal f rm false (unpack f x) (unpack f y)
  else (match o with
    | .add => (x + y) % 2 ^ 64
    | .min => if intVal f x ≤ intVal f y then x else y
    | .max => if intVal f x ≤ intVal f y then y else x
    | .and => Nat.land x y
    | .or => Nat.lor x y
    | .xor => Nat.xor x y, 0)

/-- The identity for VL = 0 (R78). -/
def accIdentity (o : RedOp) (f : Fmt) : Nat :=
  match o with
  | .add | .or | .xor => 0
  | .and => 2 ^ 64 - 1
  | .min => if f.isFp then infBits f false else if f = .int64 then 2 ^ 63 - 1 else 2 ^ 64 - 1
  | .max => if f.isFp then infBits f true else if f = .int64 then 2 ^ 63 else 0

/-- An element in the accumulation format, a NaN as the canonical one (R64, R162). -/
def accConvert (f : Fmt) (x : Nat) : Nat × Flags :=
  if f.isFp then cvtFF (accFmt f) f .rne false x else (ofInt 64 (intVal f x), 0)

/-- A product of `VDOT` in the accumulation format (R163). -/
def accProduct (f : Fmt) (rm : Rm) (a b : Nat) : Nat × Flags :=
  if f.isFp then mulRound (accFmt f) rm false (unpack f a) (unpack f b)
  else (ofInt 64 (intVal f a * intVal f b), 0)

/-- Combine into a lane (R78). -/
def laneAdd (op : Nat → Nat → Nat × Flags) (lane : Option Nat) (v : Nat) : Nat × Flags :=
  match lane with
  | none => (v, 0)
  | some x => op x v

/-- Stage 1 of R78 over `n` elements from `k`: the lanes, the flags, the trap. -/
def stageOne (fen : Flags) (val : Nat → Except Trap (Nat × Flags)) (op : Nat → Nat → Nat × Flags) (lanes : Nat) :
    Nat → Nat → Flags → List (Option Nat) → List (Option Nat) × Flags × Option Trap
  | 0, _, fl, ls => (ls, fl, none)
  | n + 1, k, fl, ls =>
    match val k with
    | .error t => (ls, fl, some t)
    | .ok (v, f1) =>
      let (r, f2) := laneAdd op ((ls[k % lanes]?).getD none) v
      let fr := f1 ||| f2
      if fr &&& fen != 0 then (ls, fl ||| fr, some (engFp (fl ||| fr) k))
      else stageOne fen val op lanes n (k + 1) (fl ||| fr) (ls.set (k % lanes) (some r))

/-- The whole reduction: the result or the trap, with the flags (R78, R162). -/
def reduce (fen : Flags) (val : Nat → Except Trap (Nat × Flags)) (op : Nat → Nat → Nat × Flags) (ident vl lanes : Nat) :
    Except Trap Nat × Flags :=
  match stageOne fen val op lanes vl 0 0 (List.replicate lanes none) with
  | (_, fl, some t) => (.error t, fl)
  | (ls, fl, none) =>
    let pair (x y : Nat × Flags) : Nat × Flags := ((op x.1 y.1).1, x.2 ||| y.2 ||| (op x.1 y.1).2)
    match tree pair 4 (ls.map fun l => l.map fun v => (v, (0 : Flags))) with
    | none => (.ok ident, fl)
    | some (v, fr) => (if fr &&& fen != 0 then .error (engFp (fl ||| fr) vl) else .ok v, fl ||| fr)

/-- Lanes of the accumulation format (R78). -/
def laneCount (f : Fmt) : Nat := 128 / elemHalf f

/-- Write the one result of a reduction. A trap of that write reports element 0, the result's own (DESIGN CHOICE, log entry
56). -/
def State.oneResult (s : State) (g : CellId) (en : EngEntry) (half : Nat) (r : Except Trap Nat × Flags) : EngResult :=
  match r with
  | (.error t, fl) => (s, fl, some t)
  | (.ok v, fl) =>
    match vecPut g en half s 0 v with
    | .error t => (s, fl, some t)
    | .ok s => (s, fl, none)

/-- `VRED` (R162). -/
def State.vecRed (s : State) (g : CellId) (en : EngEntry) (o : RedOp) (f : Fmt) (rm : Rm) : EngResult :=
  s.oneResult g en (elemHalf (accFmt f)) (reduce en.fen (fun k => vecOne g en (elemHalf f) (accConvert f) s k)
    (accOp o (accFmt f) rm) (accIdentity o (accFmt f)) en.vl (laneCount (accFmt f)))

/-- `VDOT` (R163). -/
def State.vecDot (s : State) (g : CellId) (en : EngEntry) (f : Fmt) (rm : Rm) : EngResult :=
  s.oneResult g en (elemHalf (accFmt f)) (reduce en.fen (fun k => vecTwo g en (elemHalf f) (accProduct f rm) s k)
    (accOp .add (accFmt f) rm) (accIdentity .add (accFmt f)) en.vl (laneCount (accFmt f)))

/-- `VSCAN` from element `k` with the carry (R164). -/
def State.scanFrom (s : State) (g : CellId) (en : EngEntry) (o : RedOp) (f : Fmt) (rm : Rm) :
    Nat → Nat → Flags → Option Nat → EngResult
  | 0, _, fl, _ => (s, fl, none)
  | n + 1, k, fl, c =>
    match vecOne g en (elemHalf f) (accConvert f) s k with
    | .error t => (s, fl, some t)
    | .ok (x, f1) =>
      let (r, f2) := laneAdd (accOp o (accFmt f) rm) c x
      let fr := f1 ||| f2
      if fr &&& en.fen != 0 then (s, fl ||| fr, some (engFp (fl ||| fr) k))
      else match vecPut g en (elemHalf (accFmt f)) s k r with
        | .error t => (s, fl, some t)
        | .ok s' => s'.scanFrom g en o f rm n (k + 1) (fl ||| fr) (some r)

/-- `VSCAN` (R164). On a replay the carry is read as part of element `st`, so that its trap reports `st`: the elements below
are complete (DESIGN CHOICE, log entry 56). -/
def State.vecScan (s : State) (g : CellId) (en : EngEntry) (o : RedOp) (f : Fmt) (rm : Rm) : EngResult :=
  if en.st = 0 then s.scanFrom g en o f rm en.vl 0 0 none
  else match s.getElem g (en.ptr 0) (elemHalf (accFmt f)) (en.st - 1) en.st with
    | .error t => (s, 0, some t)
    | .ok c => s.scanFrom g en o f rm (en.vl - en.st) en.st 0 (some c)

/-! ### Byte strings (R170) -/

/-- The first index from `k` at which `hit` holds, reading both operands. -/
def findByte (get : Nat → Except Trap (Nat × Nat)) (hit : Nat → Nat → Bool) : Nat → Nat → Except Trap (Option (Nat × Nat × Nat))
  | 0, _ => .ok none
  | n + 1, k =>
    match get k with
    | .error t => .error t
    | .ok (a, b) => if hit a b then .ok (some (k, a, b)) else findByte get hit n (k + 1)

/-- The rest of the beat is read too (R170). -/
def readRest (get : Nat → Except Trap (Nat × Nat)) : Nat → Nat → Except Trap Unit
  | 0, _ => .ok ()
  | n + 1, k =>
    match get k with
    | .error t => .error t
    | .ok _ => readRest get n (k + 1)

/-- The search of `VCMPB` and `VFINDB` (R170). -/
def searchBytes (get : Nat → Except Trap (Nat × Nat)) (hit : Nat → Nat → Bool) (vl : Nat) : Except Trap (Option (Nat × Nat × Nat)) :=
  match findByte get hit vl 0 with
  | .ok (some (j, ab)) =>
    match readRest get (min vl ((j / 64 + 1) * 64) - (j + 1)) (j + 1) with
    | .error t => .error t
    | .ok _ => .ok (some (j, ab))
  | r => r

/-- What `VCMPB` finds: the first index at which its bytes differ, with them (R170). -/
def State.cmpbFind (s : State) (g : CellId) (en : EngEntry) : Except Trap (Option (Nat × Nat × Nat)) :=
  let get (k : Nat) : Except Trap (Nat × Nat) :=
    match vecTwo g en 2 (fun a b => (a * 256 + b, 0)) s k with
    | .ok (ab, _) => .ok (ab / 256, ab % 256)
    | .error t => .error t
  searchBytes get (fun a b => a != b) en.vl

/-- `VCMPB` (R170). -/
def State.vecCmpb (s : State) (g : CellId) (en : EngEntry) : EngResult :=
  s.oneResult g en 16 (match s.cmpbFind g en with
    | .error t => .error t
    | .ok none => .ok en.vl
    | .ok (some (j, a, b)) => .ok (j + (if a < b then 1 else 2) * 2 ^ 32), 0)

/-- What `VFINDB` finds (R170): B(0) is read once, with A(0), which is reported where both would trap (DESIGN CHOICE, log entry
56), and not at all when VL = 0 (R149). -/
def State.findbFind (s : State) (g : CellId) (en : EngEntry) : Except Trap (Option (Nat × Nat × Nat)) :=
  if en.vl = 0 then .ok none
  else match s.getElem g (en.ptr 1) 2 0 0, s.getElem g (en.ptr 2) 2 0 0 with
    | .error t, _ | _, .error t => .error t
    | .ok _, .ok b =>
      let get (k : Nat) : Except Trap (Nat × Nat) :=
        match s.getElem g (en.ptr 1) 2 k k with
        | .ok a => .ok (a, b)
        | .error t => .error t
      searchBytes get (fun a b => a == b) en.vl

/-- `VFINDB` (R170). -/
def State.vecFindb (s : State) (g : CellId) (en : EngEntry) : EngResult :=
  s.oneResult g en 16 (match s.findbFind g en with
    | .error t => .error t
    | .ok none => .ok en.vl
    | .ok (some (j, _)) => .ok j, 0)

/-- A source read once: element 0 of operand `n` (R149), as part of the first element that is performed: a replay goes on
from there (R155). -/
def State.vecOnce (s : State) (g : CellId) (en : EngEntry) (n half : Nat) (k : Nat → EngResult) : EngResult :=
  match s.getElem g (en.ptr n) half 0 en.st with
  | .error t => (s, 0, some t)
  | .ok v => k v

/-- What the VU does for an entry (R149, R158-R170): its next `n` elements, where it works element by element. -/
def State.vecPerform (s : State) (g : CellId) (en : EngEntry) (n : Nat) : EngResult :=
  match en.instr with
  | .vadd f rm sat .. => s.vecGroup g en n f fun a b => vecAdd f rm sat a b 0
  | .vsub f rm sat .. => s.vecGroup g en n f fun a b => vecSub f rm sat a b 0
  | .vmul f rm sat .. => s.vecGroup g en n f fun a b => vecMul f rm sat a b 0
  | .vma f rm sat .. => s.vecRun en n (vecThree g en (elemHalf f) (vecMa f rm sat)) (vecPut g en (elemHalf f))
  | .vmin f .. => s.vecGroup g en n f (vecMinMax f false)
  | .vmax f .. => s.vecGroup g en n f (vecMinMax f true)
  | .vand f .. => s.vecGroup g en n f fun a b => (Nat.land a b, 0)
  | .vor f .. => s.vecGroup g en n f fun a b => (Nat.lor a b, 0)
  | .vxor f .. => s.vecGroup g en n f fun a b => (Nat.xor a b, 0)
  | .vshl f .. => s.vecGroup g en n f fun a b => (a * 2 ^ (b % intWidth f) % 2 ^ intWidth f, 0)
  | .vshr f .. => s.vecGroup g en n f fun a b => (vecShr f a b, 0)
  | .vcmp p f .. => s.vecRun en n
      (vecTwo g en (elemHalf f) fun a b => ((vecPred p f a b).1.toNat, (vecPred p f a b).2)) (vecMaskPut g en)
  | .vsel f .. => s.vecRun en n (vecSelGet g en (elemHalf f)) (vecPut g en (elemHalf f))
  | .vcvt fd fs rm sat .. => s.vecRun en n (vecOne g en (elemHalf fs) (convert fd fs rm sat)) (vecPut g en (elemHalf fd))
  | .vred o f rm .. => s.vecRed g en o f rm
  | .vdot f rm .. => s.vecDot g en f rm
  | .vscan o f rm .. => s.vecScan g en o f rm
  | .vperm f .. => s.vecRun en n (vecPermGet g en (elemHalf f)) (vecPut g en (elemHalf f))
  | .vgath f .. => s.vecRun en n (vecGathGet g en (elemHalf f)) (vecPut g en (elemHalf f))
  | .vscat f .. => s.vecRun en n (vecScatGet g en (elemHalf f)) (vecScatPut g en (elemHalf f))
  | .vfill f .. => s.vecOnce g en 1 (elemHalf f) fun v => s.vecRun en n (fun _ _ => .ok (v, 0)) (vecPut g en (elemHalf f))
  | .vcopy f .. => s.vecRun en n (vecOne g en (elemHalf f) fun a => (a, 0)) (vecPut g en (elemHalf f))
  | .vclmul f .. =>
    if f = .int64 then s.vecRun en n (vecTwo g en 16 fun a b => (clmul a b 64, 0)) (vecClmulPut g en)
    else s.vecRun en n (vecTwo g en 8 fun a b => (clmul a b 32, 0)) (vecPut g en 16)
  | .vhash f .. => s.vecOnce g en 2 (elemHalf f) fun b =>
      s.vecRun en n (vecOne g en (elemHalf f) fun a => (vecHash f (Nat.xor a b), 0)) (vecPut g en (elemHalf f))
  | .vcmpb .. => s.vecCmpb g en
  | .vfindb .. => s.vecFindb g en
  | _ => (s, 0, none)

/-! ### What an instruction reads, and how long it occupies the VU (R151, R152, R273) -/

/-- Operand `n` of an entry (R157). -/
def EngEntry.operand (en : EngEntry) (n : Nat) : Operand := ((vecOperands en.vl en.instr)[n]?).getD ⟨0, 2⟩

/-- The bytes of element `k` of operand `n`: address and size. -/
def EngEntry.elem (en : EngEntry) (n k : Nat) : Nat × Nat :=
  (operandAddr (en.ptr n) (en.operand n).half k, max 1 ((en.operand n).half / 2))

/-- The bytes of TCM that element `k` of an instruction reads (R149, R159-R170). -/
def State.vecSources (s : State) (g : CellId) (en : EngEntry) (k : Nat) : List (Nat × Nat) :=
  let index : Nat := s.read (tcmBase g + (en.elem 2 k).1) 4
  match en.instr with
  | .vsel .. => [en.elem 1 k, en.elem 2 k, en.elem 3 (k / 8)]
  | .vma .. => [en.elem 1 k, en.elem 2 k, en.elem 0 k]
  | .vperm .. => en.elem 2 k :: (if index < en.vl then [en.elem 1 index] else [])
  | .vgath f .. => [en.elem 2 k, (baseOffset (en.ptr 1) (elemHalf f / 2) index, elemHalf f / 2)]
  | .vfill .. => [en.elem 1 0]
  | .vhash .. | .vfindb .. => [en.elem 1 k, en.elem 2 0]
  | .vcvt .. | .vred .. | .vscan .. | .vcopy .. => [en.elem 1 k]
  | _ => [en.elem 1 k, en.elem 2 k]

/-- The element up to which an instruction reads that reads all it needs: a search stops after the beat that holds its answer
(R149, R152, R170). -/
def State.vecWhole (s : State) (g : CellId) (en : EngEntry) : Nat :=
  let found (r : Except Trap (Option (Nat × Nat × Nat))) : Nat := match r with
    | .ok (some x) => min en.vl ((x.1 / 64 + 1) * 64)
    | _ => en.vl
  match en.instr with
  | .vcmpb .. => found (s.cmpbFind g en)
  | .vfindb .. => found (s.findbFind g en)
  | .vfill .. | .vhash .. => max 1 en.vl
  | _ => en.vl

/-- The element at which an instruction that has been performed in `s` has stopped reading (R149, R170). A single result is
written when everything has been read, so that the trap of its write ends nothing earlier. -/
def State.vecReach (s : State) (g : CellId) (en : EngEntry) (tr : Option Trap) : Nat :=
  match tr with
  | some t =>
    if t.cause = .uncorrectable then
      (((List.range en.vl).find? fun k => (s.vecSources g en k).any fun x => x.1 == t.val.toNat).map (· + 1)).getD en.vl
    else if !en.instr.resumable && t.aux.getLsbD 32 then s.vecWhole g en
    else min en.vl (t.aux.toNat % 2 ^ 32 + 1)
  | none => s.vecWhole g en

/-- The accesses of the sources reach their banks (R271-R273). -/
def State.touchAll (s : State) (g : CellId) (l : List (Nat × Nat)) : State := l.foldl (fun s x => s.touchRange g x.1 x.2) s

/-- P of an instruction (R151). -/
def vecDepth : Instr → Nat
  | .vadd f .. | .vsub f .. | .vmin f .. | .vmax f .. | .vcmp _ f .. | .vscan _ f .. => if f.isFp then 4 else 2
  | .vma f .. => if f.isFp then 5 else 4
  | .vmul .. | .vclmul .. | .vhash .. | .vcmpb .. | .vfindb .. | .vcvt .. => 4
  | .vred _ f .. | .vdot f .. => if !f.isFp then 6 else if f = .fp64 then 16 else 20
  | _ => 2

/-- The operands that have an element for each element of the instruction, or a mask bit (R149, R152). -/
def elementOperands : Instr → List Nat
  | .vred .. | .vfindb .. => [1]
  | .vdot .. | .vcmpb .. => [1, 2]
  | .vfill .. => [0]
  | .vhash .. | .vcvt .. | .vscan .. | .vcopy .. => [0, 1]
  | .vsel .. => [0, 1, 2, 3]
  | _ => [0, 1, 2]

/-- Operand `n` is a mask (R146). -/
def isMask (i : Instr) (n : Nat) : Bool :=
  match i with
  | .vcmp .. => n == 0
  | .vsel .. => n == 3
  | _ => false

/-- Half bytes of an element of operand `n` for a beat: the two doublewords of `VCLMUL.d` count as one (R152). -/
def EngEntry.beatHalf (en : EngEntry) (n : Nat) : Nat :=
  if isMask en.instr n then 0
  else match en.instr with
    | .vclmul .int64 .. => if n = 0 then 32 else 16
    | _ => (en.operand n).half

/-- Elements of a beat (R152). -/
def EngEntry.beat (en : EngEntry) : Nat := 128 / (elementOperands en.instr).foldl (fun m n => max m (en.beatHalf n)) 1

/-- The 64-byte blocks that operand `n` touches in elements `k` to `k + c - 1` (R152). -/
def EngEntry.blocks (en : EngEntry) (n k c : Nat) : List Nat :=
  ((List.range c).flatMap fun j =>
    let m := if isMask en.instr n then (k + j) / 8 else k + j
    let l := if en.beatHalf n = 32 then [en.elem n (2 * m), en.elem n (2 * m + 1)] else [en.elem n m]
    l.flatMap fun x => [x.1 / 64, (x.1 + x.2 - 1) / 64]).eraseDups

/-- The cost of a beat: the most accesses that one bank receives (R152). -/
def EngEntry.beatCost (en : EngEntry) (k c : Nat) : Nat :=
  let l := (elementOperands en.instr).flatMap fun n => en.blocks n k c
  [0, 1, 2, 3].foldl (fun m b => max m (l.filter fun x => x / 2048 == b).length) 1

/-- First and last byte of an operand (R152). -/
def EngEntry.span (en : EngEntry) (n : Nat) : Option (Nat × Nat) :=
  match (List.range (en.operand n).n).map (en.elem n) with
  | [] => none
  | x :: r => some (r.foldl (fun m y => min m y.1) x.1, r.foldl (fun m y => max m (y.1 + y.2)) (x.1 + x.2))

/-- The destination meets another operand and is not coincident with it (R149, R152). The element size of a mask is 1/8, and
that of the destination of `VCLMUL.d` is taken as 16, as for a beat (DESIGN CHOICE, log entry 75). -/
def EngEntry.spansMeet (en : EngEntry) : Bool :=
  ((List.range en.ptrs.length).drop 1).any fun n =>
    !(en.ptr n == en.ptr 0 && en.beatHalf n == en.beatHalf 0) &&
      match en.span 0, en.span n with
      | some d, some x => decide (d.1 < x.2) && decide (x.1 < d.2)
      | _, _ => false

/-- Cycles for which elements `st` to `reach - 1` occupy the VU, with every bank on (R152). -/
def EngEntry.occupancy (en : EngEntry) (reach : Nat) : Nat :=
  let n := reach - en.st
  match en.instr with
  | .vperm .. | .vgath .. | .vscat .. => n
  | .vscan _ f .. => if f.isFp then 4 * n else n
  | i =>
    if en.spansMeet then n * (vecDepth i + 1)
    else ((List.range ((n + en.beat - 1) / en.beat)).map fun b =>
      en.beatCost (en.st + b * en.beat) (min en.beat (n - b * en.beat))).foldl (· + ·) 0

/-- Banks of a cell that are drowsy. -/
def State.drowsyBanks (s : State) (g : CellId) : Nat := ((s.cellAt g).banks.toList.filter fun b => b.state == .drowsy).length

/-- VUBUSY counts 12 cycles for each bank that was drowsy in `s` and has been woken (R114, R152, R339). -/
def State.countWakes (s' s : State) (g : CellId) : State := s'.count g 0 (12 * (s.drowsyBanks g - s'.drowsyBanks g))

/-- Instructions whose elements the VU performs one by one, with no other operand (R148, R149). -/
def elementwise : Instr → Bool
  | .vscan .. | .vfill .. | .vhash .. => false
  | i => i.resumable && i.isVec

/-- The bytes that element `k` writes: address and size (R149, R159, R166, R168). -/
def State.vecDests (s : State) (g : CellId) (en : EngEntry) (k : Nat) : List (Nat × Nat) :=
  match en.instr with
  | .vscat f .. => [(baseOffset (en.ptr 0) (elemHalf f / 2) (s.read (tcmBase g + (en.elem 2 k).1) 4), elemHalf f / 2)]
  | .vclmul .int64 .. => [en.elem 0 (2 * k), en.elem 0 (2 * k + 1)]
  | .vcmp .. => [en.elem 0 (k / 8)]
  | .vred .. | .vdot .. | .vcmpb .. | .vfindb .. => [en.elem 0 0]
  | _ => [en.elem 0 k]

/-- Bytes of a cell's TCM, by local address. -/
def State.tcmCells (s : State) (g : CellId) (l : List (Nat × Nat)) : List (Nat × Byte) :=
  l.flatMap fun x => (List.range x.2).map fun i => (x.1 + i, BitVec.ofNat 8 (s.read (tcmBase g + x.1 + i) 1))

/-- The bytes that an instruction has still to write are written (R151). -/
def State.writeLate (s : State) (g : CellId) (en : EngEntry) : State :=
  (en.late.getD []).foldl (fun s x => (s.touch g x.1).write (tcmBase g + x.1) 1 x.2.toNat) s

/-- The next element reads, as after what the instruction has still to write, and its write is put off (R149, R151); one that
traps is left to the instruction's end. -/
def State.readStep (s : State) (g : CellId) (en : EngEntry) : Option EngEntry :=
  let s0 := s.writeLate g en
  match s0.vecPerform g en 1 with
  | (s', fl, none) =>
    some { en with done := en.done + 1, flags := fl
                   late := some (en.late.getD [] ++ s'.tcmCells g (s0.vecDests g en (en.st + en.done))) }
  | _ => none

/-- All the elements that are left read, and their writes are put off. -/
def State.readAll (s : State) (g : CellId) : Nat → EngEntry → Option EngEntry
  | 0, en => some en
  | n + 1, en => (s.readStep g en).bind (s.readAll g n)

/-- The rest of an instruction reads, when what it has still to write then takes P cycles at most: the single result of a
reduction, or the last elements (R151). -/
def State.readRestOf (s : State) (g : CellId) (en : EngEntry) : Option EngEntry :=
  let single := !en.instr.resumable
  if !single && decide (vecDepth en.instr < { en with st := en.st + en.done }.occupancy en.vl) then none
  else if elementwise en.instr then s.readAll g en.todo { en with late := some (en.late.getD []) }
  else match s.vecPerform g en en.todo with
    | (s', fl, none) =>
      let l := if single then s.vecDests g en 0 else ((List.range en.vl).drop en.st).flatMap (s.vecDests g en)
      some { en with done := en.vl - en.st, flags := fl, late := some (s'.tcmCells g l) }
    | _ => none

/-- It has read everything, and only its writes are still to come (R151). -/
def EngEntry.allRead (en : EngEntry) : Bool := en.late.isSome && en.todo == 0

/-- The VU reads ahead of what it has still to write: the rest of the instruction that it performs, then, one by one, the
elements of the next that it reads within the P cycles of those writes (R151). -/
def State.vuReads (s : State) (g : CellId) : State :=
  match (s.cellAt g).vuQ with
  | [] => s
  | a :: r =>
    if !a.started then s
    else if !a.allRead then
      match s.readRestOf g a with
      | some a' => (s.setCell g ((s.cellAt g).setEntry .vu a')).stillPending (.engineInstructionStart g .vu)
      | none => s
    else match r with
      | b :: _ =>
        if b.started && elementwise b.instr && b.todo != 0 &&
            decide (b.occupancy (b.st + b.done / b.beat * b.beat) < vecDepth a.instr) then
          match s.readStep g b with
          | some b' => s.setCell g ((s.cellAt g).setEntry .vu b')
          | none => s
        else s
      | [] => s

/-- What an instruction does from where it stands: what it has still to write, then the elements that are left (R149, R151). -/
def State.vecFinish (s : State) (g : CellId) (en : EngEntry) : EngResult :=
  let s := s.writeLate g en
  if en.allRead then (s, en.flags, none) else s.vecPerform g en en.todo

/-- The VU performs and retires the instruction at the head of its queue (R149, R151). The banks of what it has read are
awake (R273), and VUBUSY counts its occupancy, with 12 cycles for each drowsy bank (R152, R339). -/
def State.vuRetire (s : State) (g : CellId) (en : EngEntry) : State :=
  match s.vecFinish g en with
  | (s', fl, tr) =>
    let n := s.vecReach g en tr
    let s' := s'.touchAll g (((List.range n).drop en.st).flatMap (s.vecSources g en))
    (((s'.count g 0 (en.occupancy n)).countWakes s g).bankWait g).engineDone g .vu en fl tr

/-- The VU performs the next element of an instruction ahead of the others (R148, R252); one that traps is left to the
instruction's end. -/
def State.vuWork (s : State) (g : CellId) (en : EngEntry) : State :=
  if !elementwise en.instr || en.todo = 0 then s
  else match (s.writeLate g en).vecPerform g en 1 with
    | (s', fl, none) =>
      (s'.setCell g ((s'.cellAt g).setEntry .vu { en with done := en.done + 1, flags := fl, late := none })).countWakes s g
    | _ => s

/-! ### Issue, one meaning for each instruction -/

/-- `VADD` (R147, R158). -/
def execVadd (f : Fmt) (rm : Rm) (sat : Bool) (d a b : PtrArg) (s : State) : Host.Outcome State Fault Refusal :=
  .next (s.issueVec (.vadd f rm sat d a b))

/-- `VSUB` (R147, R158). -/
def execVsub (f : Fmt) (rm : Rm) (sat : Bool) (d a b : PtrArg) (s : State) : Host.Outcome State Fault Refusal :=
  .next (s.issueVec (.vsub f rm sat d a b))

/-- `VMUL` (R147, R158). -/
def execVmul (f : Fmt) (rm : Rm) (sat : Bool) (d a b : PtrArg) (s : State) : Host.Outcome State Fault Refusal :=
  .next (s.issueVec (.vmul f rm sat d a b))

/-- `VMA` (R147, R158). -/
def execVma (f : Fmt) (rm : Rm) (sat : Bool) (d a b : PtrArg) (s : State) : Host.Outcome State Fault Refusal :=
  .next (s.issueVec (.vma f rm sat d a b))

/-- `VMIN` (R147, R158). -/
def execVmin (f : Fmt) (rm : Rm) (d a b : PtrArg) (s : State) : Host.Outcome State Fault Refusal :=
  .next (s.issueVec (.vmin f rm d a b))

/-- `VMAX` (R147, R158). -/
def execVmax (f : Fmt) (rm : Rm) (d a b : PtrArg) (s : State) : Host.Outcome State Fault Refusal :=
  .next (s.issueVec (.vmax f rm d a b))

/-- `VAND` (R147, R158). -/
def execVand (f : Fmt) (d a b : PtrArg) (s : State) : Host.Outcome State Fault Refusal :=
  .next (s.issueVec (.vand f d a b))

/-- `VOR` (R147, R158). -/
def execVor (f : Fmt) (d a b : PtrArg) (s : State) : Host.Outcome State Fault Refusal :=
  .next (s.issueVec (.vor f d a b))

/-- `VXOR` (R147, R158). -/
def execVxor (f : Fmt) (d a b : PtrArg) (s : State) : Host.Outcome State Fault Refusal :=
  .next (s.issueVec (.vxor f d a b))

/-- `VSHL` (R147, R158). -/
def execVshl (f : Fmt) (d a b : PtrArg) (s : State) : Host.Outcome State Fault Refusal :=
  .next (s.issueVec (.vshl f d a b))

/-- `VSHR` (R147, R158). -/
def execVshr (f : Fmt) (d a b : PtrArg) (s : State) : Host.Outcome State Fault Refusal :=
  .next (s.issueVec (.vshr f d a b))

/-- `VCMP` (R147, R159). -/
def execVcmp (p : Pred) (f : Fmt) (d a b : PtrArg) (s : State) : Host.Outcome State Fault Refusal :=
  .next (s.issueVec (.vcmp p f d a b))

/-- `VSEL` (R147, R160). -/
def execVsel (f : Fmt) (d a b m : PtrArg) (s : State) : Host.Outcome State Fault Refusal :=
  .next (s.issueVec (.vsel f d a b m))

/-- `VCVT` (R147, R161). -/
def execVcvt (fd fs : Fmt) (rm : Rm) (sat : Bool) (d a : PtrArg) (s : State) : Host.Outcome State Fault Refusal :=
  .next (s.issueVec (.vcvt fd fs rm sat d a))

/-- `VRED` (R147, R162). -/
def execVred (o : RedOp) (f : Fmt) (rm : Rm) (d a : PtrArg) (s : State) : Host.Outcome State Fault Refusal :=
  .next (s.issueVec (.vred o f rm d a))

/-- `VDOT` (R147, R163). -/
def execVdot (f : Fmt) (rm : Rm) (d a b : PtrArg) (s : State) : Host.Outcome State Fault Refusal :=
  .next (s.issueVec (.vdot f rm d a b))

/-- `VSCAN` (R147, R164). -/
def execVscan (o : RedOp) (f : Fmt) (rm : Rm) (d a : PtrArg) (s : State) : Host.Outcome State Fault Refusal :=
  .next (s.issueVec (.vscan o f rm d a))

/-- `VPERM` (R147, R165). -/
def execVperm (f : Fmt) (d a b : PtrArg) (s : State) : Host.Outcome State Fault Refusal :=
  .next (s.issueVec (.vperm f d a b))

/-- `VGATH` (R147, R166). -/
def execVgath (f : Fmt) (d : PtrArg) (a : PReg) (b : PtrArg) (s : State) : Host.Outcome State Fault Refusal :=
  .next (s.issueVec (.vgath f d a b))

/-- `VSCAT` (R147, R166). -/
def execVscat (f : Fmt) (d : PReg) (a b : PtrArg) (s : State) : Host.Outcome State Fault Refusal :=
  .next (s.issueVec (.vscat f d a b))

/-- `VFILL` (R147, R167). -/
def execVfill (f : Fmt) (d a : PtrArg) (s : State) : Host.Outcome State Fault Refusal :=
  .next (s.issueVec (.vfill f d a))

/-- `VCOPY` (R147, R167). -/
def execVcopy (f : Fmt) (d a : PtrArg) (s : State) : Host.Outcome State Fault Refusal :=
  .next (s.issueVec (.vcopy f d a))

/-- `VCLMUL` (R147, R168). -/
def execVclmul (f : Fmt) (d a b : PtrArg) (s : State) : Host.Outcome State Fault Refusal :=
  .next (s.issueVec (.vclmul f d a b))

/-- `VHASH` (R147, R169). -/
def execVhash (f : Fmt) (d a b : PtrArg) (s : State) : Host.Outcome State Fault Refusal :=
  .next (s.issueVec (.vhash f d a b))

/-- `VCMPB` (R147, R170). -/
def execVcmpb (d a b : PtrArg) (s : State) : Host.Outcome State Fault Refusal :=
  .next (s.issueVec (.vcmpb d a b))

/-- `VFINDB` (R147, R170). -/
def execVfindb (d a b : PtrArg) (s : State) : Host.Outcome State Fault Refusal :=
  .next (s.issueVec (.vfindb d a b))

end Sys2Proof.Machine
end

