-- ==== Sys2Proof/Machine/Sce.lean ====
section
/-! DEFINITION. The SCE and the Z array (R47, R74-R76, R202-R212). -/

namespace Sys2Proof.Machine

/-! ### Z (R47) -/

def State.z (s : State) (g : CellId) (i : Nat) : Nat := s.read (zAddr g i) 8
def State.zovAt (s : State) (g : CellId) (i : Nat) : Bool := s.zov.contains (zAddr g i / 8)
def State.setZ (s : State) (g : CellId) (i v : Nat) : State := s.write (zAddr g i) 8 v
def State.setZov (s : State) (g : CellId) (i : Nat) (b : Bool) : State :=
  { s with zov := if b then ins s.zov (zAddr g i / 8) else del s.zov (zAddr g i / 8) }

/-- Local address of `Z[i]` (R45). -/
def zLocal (i : Nat) : Nat := 0x80000 + 8 * i

/-- The first uncorrectable accumulator among `n` from `i`. -/
def State.badZ (s : State) (g : CellId) (i n : Nat) : Option Nat :=
  ((List.range n).map (i + ·)).find? fun j => s.marked (zAddr g j)

/-- Its trap (R44, R179). -/
def zTrap (i : Nat) : Trap := ⟨.uncorrectable, BitVec.ofNat 64 (zLocal i), 1, 0, 0, 0⟩

/-! ### Pairings (R74, R76, R203) -/

/-- What operand A is: a delta, or elements of a format. -/
inductive SceA where
  | delta
  | fmt (f : Fmt)
  deriving DecidableEq, Repr

/-- How a pair accumulates: exactly in units of 2^-p, or in FP32. -/
inductive Pairing where
  | exact (p : Nat)
  | float
  deriving DecidableEq, Repr

def isSceInt (f : Fmt) : Bool := f == .int8 || f == .int4

def pairing (a : SceA) (b : Fmt) : Option Pairing :=
  match a with
  | .delta =>
    if isSceInt b then some (.exact 0)
    else if b = .e4m3 then some (.exact 24)
    else if b = .e5m2 then some (.exact 25)
    else if b = .bf16 || b = .fp16 then some .float
    else none
  | .fmt a =>
    if isSceInt a && isSceInt b then some (.exact 0)
    else if a = .e4m3 && b = .e4m3 then some (.exact 24)
    else if (a = .e4m3 && b = .e5m2) || (a = .e5m2 && b = .e4m3) then some (.exact 25)
    else if a = b && (a = .bf16 || a = .fp16) then some .float
    else none

/-- The trap of a pairing that is not listed (R74, R203). -/
def formatTrap (a : SceA) (b : Fmt) : Trap :=
  match a with
  | .fmt f =>
    if isSceInt f || f = .e4m3 || f = .e5m2 || f = .bf16 || f = .fp16 then
      ⟨.engineFormat, BitVec.ofNat 64 b.code, 1, 0, 0, 0⟩
    else ⟨.engineFormat, BitVec.ofNat 64 f.code, 0, 0, 0, 0⟩
  | .delta => ⟨.engineFormat, BitVec.ofNat 64 b.code, 1, 0, 0, 0⟩

/-- Bits of an element (R59). -/
def elemBits (f : Fmt) : Nat := 4 * elemHalf f

/-- Bytes of `c` elements of `b` bits (R202). -/
def fifoBytes (c b : Nat) : Nat := (c * b + 7) / 8

/-- The `n`-th `b`-bit element of FIFO bytes, packed by R60. -/
def fifoElem (l : List Byte) (b n : Nat) : Nat :=
  if b = 4 then (((l[n / 2]?).getD 0).toNat / 2 ^ (4 * (n % 2))) % 16
  else ofBytes ((l.drop (n * (b / 8))).take (b / 8))

/-! ### One SCE multiply -/

/-- What an SCE multiply is about, from its entry (R204, R206-R208). -/
structure Multiply where
  a : SceA
  fb : Fmt
  bn : Bool
  m : Nat
  k : Nat
  n : Nat
  zb : Nat
  /-- bytes taken from the A FIFO and the B FIFO -/
  bytesA : Nat
  bytesB : Nat
  /-- bits of an A element; 0 for `CDMAC` -/
  bitsA : Nat
  /-- scale of a delta -/
  scale : Nat
  /-- the one delta of `CDMAC` -/
  d : Int
  deriving DecidableEq, Repr

def shapeN (w : Word) : Nat := w.toNat / 2 ^ 16 % 2 ^ 15
def shapeZb (w : Word) : Nat := w.toNat % 2 ^ 14

/-- The multiply that an instruction and its register operands describe; `d` is the shape word. -/
def multiplyOf (i : Instr) (d a b : Word) : Option Multiply :=
  match i with
  | .cdmac fb bn .. =>
    some ⟨.delta, fb, bn, 1, 1, shapeN d, shapeZb d, 0, fifoBytes (shapeN d) (elemBits fb), 0, b.toNat % 16, a.toInt⟩
  | .cdmacv fb bn .. =>
    let bits := if b.getLsbD 6 then 16 else 8
    some ⟨.delta, fb, bn, 1, a.toNat, shapeN d, shapeZb d, fifoBytes a.toNat bits,
      fifoBytes (a.toNat * shapeN d) (elemBits fb), bits, b.toNat % 16, 0⟩
  | .mma fa fb bn .. =>
    some ⟨.fmt fa, fb, bn, a.toNat, b.toNat, shapeN d, shapeZb d, fifoBytes (a.toNat * b.toNat) (elemBits fa),
      fifoBytes (b.toNat * shapeN d) (elemBits fb), elemBits fa, 0, 0⟩
  | _ => none

/-- The checks of R204. -/
def Multiply.bad (q : Multiply) (shape : Word) : Bool :=
  let range (x : Nat) : Bool := decide (1 ≤ x) && decide (x ≤ 16384)
  shape.toNat / 2 ^ 31 != 0 || shape.toNat / 2 ^ 14 % 4 != 0 || !range q.n || !range q.m || !range q.k ||
    decide (16384 < q.zb + q.m * q.n) || decide (8192 < q.bytesA) || decide (16384 < q.bytesB)

/-- A(m, k) as a value: a scaled delta or an element (R203, R206, R207). -/
def Multiply.aVal (q : Multiply) (fifo : List Byte) (m k : Nat) : FVal :=
  match q.a with
  | .delta =>
    let d := if q.bitsA = 0 then q.d else toSigned q.bitsA (fifoElem fifo q.bitsA k)
    .fin (decide (d < 0)) d.natAbs q.scale
  | .fmt f =>
    let x := fifoElem fifo q.bitsA (m * q.k + k)
    if f.isFp then unpack f x else .fin (decide (intVal f x < 0)) (intVal f x).natAbs 0

/-- B(k, n) as a value (R203). -/
def Multiply.bVal (q : Multiply) (fifo : List Byte) (k n : Nat) : FVal :=
  let x := fifoElem fifo (elemBits q.fb) (if q.bn then k * q.n + n else n * q.k + k)
  if q.fb.isFp then unpack q.fb x else .fin (decide (intVal q.fb x < 0)) (intVal q.fb x).natAbs 0

/-- A product in units of 2^-p; a NaN or an infinity has none (R75). -/
def exactProduct (p : Nat) (a b : FVal) : Option Int :=
  match a, b with
  | .fin na ma ea, .fin nb mb eb => some (signedInt (na != nb) (ma * mb) * 2 ^ (ea + eb + p).toNat)
  | _, _ => none

/-- The sum of the products of one accumulator, and whether one had no value (R75). -/
def exactSum (p : Nat) (ab : Nat → FVal × FVal) : Nat → Int × Bool
  | 0 => (0, false)
  | k + 1 =>
    let (t, bad) := exactSum p ab k
    match exactProduct p (ab k).1 (ab k).2 with
    | some v => (t + v, bad)
    | none => (t, true)

/-- FP32 addition of patterns, rounding to nearest even, with flags. -/
def fadd32 (x y : Nat × Flags) : Nat × Flags :=
  let r := addVal .fp32 .rne false (unpack .fp32 x.1) (unpack .fp32 y.1)
  (r.1, x.2 ||| y.2 ||| r.2)

/-- Products `k` to `k + n - 1` as the leaves of one group (R76). -/
def fpLeaves (ab : Nat → FVal × FVal) (k : Nat) : Nat → List (Option (Nat × Flags))
  | 0 => []
  | n + 1 => some (mulRound .fp32 .rne false (ab k).1 (ab k).2) :: fpLeaves ab (k + 1) n

/-- Add the groups of 32 products from group `gr` onwards into an FP32 accumulator (R76). -/
def fpGroups (ab : Nat → FVal × FVal) (kk : Nat) : Nat → Nat → Nat × Flags → Nat × Flags
  | 0, _, acc => acc
  | n + 1, gr, acc =>
    match tree fadd32 5 (fpLeaves ab (32 * gr) (min 32 (kk - 32 * gr))) with
    | some t => fpGroups ab kk n (gr + 1) (fadd32 acc t)
    | none => acc

/-- Accumulator `i` of a multiply from `i` on: its new value, whether ZOV is set, the flags (R205). -/
def Multiply.acc (q : Multiply) (fa fb : List Byte) (p : Pairing) (z : Nat) (i : Nat) : Nat × Bool × Flags :=
  let m := i / q.n
  let n := i % q.n
  let ab (k : Nat) : FVal × FVal := (q.aVal fa m k, q.bVal fb k n)
  match p with
  | .exact u =>
    let (t, bad) := exactSum u ab q.k
    let v := toSigned 64 z + t
    (ofInt 64 v, bad || decide (v < -(2 ^ 63 : Nat)) || decide ((2 ^ 63 : Nat) ≤ v), 0)
  | .float =>
    let (v, fl) := fpGroups ab q.k ((q.k + 31) / 32) 0 (z % 2 ^ 32, 0)
    (v, false, fl)

/-- Update the accumulators in ascending order; an enabled flag stops before its own (R80, R205). -/
def State.sceFrom (s : State) (g : CellId) (fen : Flags) (q : Multiply) (fa fb : List Byte) (p : Pairing) :
    Nat → Nat → Flags → EngResult
  | 0, _, fl => (s, fl, none)
  | n + 1, i, fl =>
    let (v, ov, fr) := q.acc fa fb p (s.z g (q.zb + i)) i
    if fr &&& fen != 0 then (s, fl ||| fr, some (engFp (fl ||| fr) i))
    else
      let s := s.setZ g (q.zb + i) v
      let s := if ov then s.setZov g (q.zb + i) true else s
      s.sceFrom g fen q fa fb p n (i + 1) (fl ||| fr)

/-- Occupancy of a multiply (R209). -/
def Multiply.cycles (q : Multiply) : Nat :=
  let rate := if q.a = .fmt .int4 && q.fb = .int4 then 2048
    else if q.fb = .bf16 || q.fb = .fp16 then 512 else 1024
  (q.m * q.n * q.k + rate - 1) / rate

/-- Accumulators of a multiply that are still to be updated. -/
def Multiply.todo (q : Multiply) (en : EngEntry) : Nat := q.m * q.n - en.st - en.done

/-- The next `n` accumulators of a multiply; the words are checked before the first (R179, R205). -/
def State.multiplyStep (s : State) (g : CellId) (en : EngEntry) (q : Multiply) (p : Pairing) (n : Nat) : EngResult :=
  match if en.done = 0 then s.badZ g (q.zb + en.st) (q.m * q.n - en.st) else none with
  | some i => (s, 0, some (zTrap i))
  | none => s.sceFrom g en.fen q (s.cellAt g).fifoA (s.cellAt g).fifoB p n (en.st + en.done) en.flags

/-- A multiply is performed, or what is left of it: FIFO bytes leave only without a trap (R202); its occupancy counts either
way (R339). -/
def State.multiplyPerform (s : State) (g : CellId) (en : EngEntry) (q : Multiply) : EngResult :=
  let s := s.count g 1 q.cycles
  match pairing q.a q.fb with
  | none => (s, 0, some (formatTrap q.a q.fb))
  | some p =>
      let (s, fl, tr) := s.multiplyStep g en q p (q.todo en)
      match tr with
      | some t => (s, fl, some t)
      | none =>
        let s := s.count g 2 ((q.m * q.n - en.st) * q.k)
        let c := s.cellAt g
        (s.setCell g { c with fifoA := c.fifoA.drop q.bytesA, fifoB := c.fifoB.drop q.bytesB }, fl, none)

/-- Issue a multiply (R204). -/
def State.issueMultiply (s : State) (i : Instr) (d a b : WReg) : State :=
  match multiplyOf i (s.w d) (s.w a) (s.w b) with
  | none => s
  | some q =>
    if q.bad (s.w d) then s.raise (accessTrap (s.w d) 0)
    else if s.queueFull .sce then s
    else s.enqueue .sce i [s.w d, s.w a, s.w b] [] id

/-- `CDMAC` (R206). -/
def execCdmac (fb : Fmt) (bn : Bool) (d a b : WReg) (s : State) : Host.Outcome State Fault Refusal :=
  .next (s.issueMultiply (.cdmac fb bn d a b) d a b)

/-- `CDMACV` (R207). -/
def execCdmacv (fb : Fmt) (bn : Bool) (d a b : WReg) (s : State) : Host.Outcome State Fault Refusal :=
  .next (s.issueMultiply (.cdmacv fb bn d a b) d a b)

/-- `MMA` (R208). -/
def execMma (fa fb : Fmt) (bn : Bool) (d a b : WReg) (s : State) : Host.Outcome State Fault Refusal :=
  .next (s.issueMultiply (.mma fa fb bn d a b) d a b)

/-! ### `ZLD`, `ZST` (R211) -/

/-- A queued Z instruction of the cell has not retired (R181, R211). -/
def State.zWaits (s : State) : Bool := (s.cell.sceQ ++ s.cell.sduQ).any fun x => x.zseq.isSome

/-- `ZLD` (R211): `Z[i]` to `wd`, `ZOV[i]` to CF. -/
def execZld (d a : WReg) (s : State) : Host.Outcome State Fault Refusal :=
  .next (if s.zWaits || s.acquireWaits then s
    else if 16384 ≤ (s.w a).toNat then s.raise (accessTrap (s.w a) 0)
    else if s.marked (zAddr s.curCell (s.w a).toNat) then s.raise (zTrap (s.w a).toNat)
    else s.resultCf d (BitVec.ofNat 64 (s.z s.curCell (s.w a).toNat)) (s.zovAt s.curCell (s.w a).toNat))

/-- `ZST` (R211): `W[wb]` to `Z[i]`, 0 to `ZOV[i]`. -/
def execZst (a b : WReg) (s : State) : Host.Outcome State Fault Refusal :=
  .next (if s.zWaits || s.acquireWaits then s
    else if 16384 ≤ (s.w a).toNat then s.raise (accessTrap (s.w a) 0)
    else ((s.setZ s.curCell (s.w a).toNat (s.w b).toNat).setZov s.curCell (s.w a).toNat false).retire)

/-! ### `ZCLR` (R210) -/

def zclrCount (w : Word) : Nat := w.toNat % 2 ^ 15
def zclrFlush (w : Word) : Bool := w.getLsbD 63

/-- `ZCLR` (R210). -/
def execZclr (a b : WReg) (s : State) : Host.Outcome State Fault Refusal :=
  .next (if 16384 ≤ (s.w a).toNat then s.raise (accessTrap (s.w a) 0)
    else if (s.w b).toNat / 2 ^ 15 % 2 ^ 48 != 0 || 16384 < (s.w a).toNat + zclrCount (s.w b) then
      s.raise (accessTrap (s.w b) 0)
    else if s.queueFull .sce then s
    else s.enqueue .sce (.zclr a b) [s.w a, s.w b] [] id)

/-- Clear accumulators (R210). -/
def State.clearZ (s : State) (g : CellId) (i : Nat) : Nat → State
  | 0 => s
  | n + 1 => ((s.setZ g i 0).setZov g i false).clearZ g (i + 1) n

/-! ### `ZCVT` (R212) -/

def zcvtCount (w : Word) : Nat := w.toNat / 2 ^ 16 % 2 ^ 15
def zcvtKind (w : Word) : Nat := w.toNat / 2 ^ 32 % 8

/-- A reserved bit, a reserved kind or too many accumulators (R212). -/
def zcvtBad (w : Word) : Bool :=
  w.toNat / 2 ^ 35 != 0 || w.toNat / 2 ^ 31 % 2 != 0 || w.toNat / 2 ^ 14 % 4 != 0 || decide (3 < zcvtKind w) ||
    decide (16384 < shapeZb w + zcvtCount w)

/-- `ZCVT` (R212): the checks at issue. -/
def execZcvt (f : Fmt) (rm : Rm) (sat : Bool) (d a b : WReg) (s : State) :
    Host.Outcome State Fault Refusal :=
  .next (
    let e := elemHalf f / 2
    let n := fifoBytes (zcvtCount (s.w a)) (elemBits f)
    if zcvtBad (s.w a) then s.raise (accessTrap (s.w a) 0)
    else if (s.w b).toNat / 2 ^ 7 != 0 then s.raise (accessTrap (s.w b) 0)
    else if 1 < e && (s.w d).toNat % e != 0 then s.raise ⟨.misaligned, s.w d, BitVec.ofNat 64 e, 0, 0, 0⟩
    else if 0 < n && 0x7F000 < (s.w d).toNat + n then s.raise (accessTrap (s.w d) 1)
    else if s.queueFull .sce then s
    else s.enqueue .sce (.zcvt f rm sat d a b) [s.w d, s.w a, s.w b] [] id)

/-- The value of an accumulator by its kind, times 2^-shift (R212). -/
def zValue (kind z shift : Nat) : FVal :=
  let e : Int := if kind = 1 then -24 else if kind = 2 then -25 else 0
  if kind = 3 then
    match unpack .fp32 (z % 2 ^ 32) with
    | .fin n m e => .fin n m (e - shift)
    | v => v
  else .fin (decide (toSigned 64 z < 0)) (toSigned 64 z).natAbs (e - shift)

/-- A value converted to an element format (R67, R69, R70). -/
def convertVal (f : Fmt) (rm : Rm) (sat : Bool) (v : FVal) : Nat × Flags :=
  if f.isFp then
    match v with
    | .inf n => if f = .e4m3 then (if sat then (maxBits f n, flagOF) else (canonicalNan f, flagNV)) else (infBits f n, 0)
    | v => deliver f rm sat v
  else valToInt f rm sat v

/-- Element `k` of `ZCVT` (R212). -/
def zcvtGet (g : CellId) (en : EngEntry) (f : Fmt) (rm : Rm) (sat : Bool) (s : State) (k : Nat) :
    Except Trap (Nat × Flags) :=
  let i := shapeZb (en.reg 1) + k
  let r := convertVal f rm sat (zValue (zcvtKind (en.reg 1)) (s.z g i) ((en.reg 2).toNat % 64))
  .ok (r.1, r.2 ||| (if s.zovAt g i then flagNV else 0))

/-- Write element `k` and clear its accumulator under CLR (R212). -/
def zcvtPut (g : CellId) (en : EngEntry) (f : Fmt) (s : State) (k v : Nat) : Except Trap State :=
  let i := shapeZb (en.reg 1) + k
  match s.putElem g (BitVec.ofNat 64 ((en.reg 0).toNat % 2 ^ 19)) (elemHalf f) k k v with
  | .error t => .error t
  | .ok s => .ok (if (en.reg 2).getLsbD 6 then (s.setZ g i 0).setZov g i false else s)

/-- Elements of a `ZCVT` that are still to be performed. -/
def EngEntry.zcvtTodo (en : EngEntry) : Nat := zcvtCount (en.reg 1) - en.st - en.done

/-- The SCE's side of `ZCVT`: its next `n` elements; the words are checked before the first (R179). -/
def State.zcvtPerform (s : State) (g : CellId) (en : EngEntry) (n : Nat) (f : Fmt) (rm : Rm) (sat : Bool) : EngResult :=
  match if en.done = 0 then s.badZ g (shapeZb (en.reg 1) + en.st) en.zcvtTodo else none with
  | some i => (s, en.flags, some (zTrap i))
  | none => State.elements en.fen (zcvtGet g en f rm sat) (zcvtPut g en f) n (en.st + en.done) en.flags s

/-- An instruction of the SCE goes on by one element or accumulator, unless that traps. -/
def State.sceStep (s : State) (g : CellId) (en : EngEntry) (r : EngResult) : State :=
  match r with
  | (s', fl, none) => s'.setCell g ((s'.cellAt g).setEntry .sce { en with done := en.done + 1, flags := fl })
  | _ => s

/-- The SCE performs the next element of a `ZCVT`, or the next accumulator of a multiply or a `ZCLR`, ahead of the others
(R252, R334): a load from the Z window may come between. -/
def State.sceWork (s : State) (g : CellId) (en : EngEntry) : State :=
  match en.instr with
  | .zcvt f rm sat .. => if en.zcvtTodo = 0 then s else s.sceStep g en (s.zcvtPerform g en 1 f rm sat)
  | .zclr .. =>
    if zclrCount (en.reg 1) ≤ en.done then s
    else s.sceStep g en (s.clearZ g ((en.reg 0).toNat + en.done) 1, 0, none)
  | i => match multiplyOf i (en.reg 0) (en.reg 1) (en.reg 2) with
    | none => s
    | some q => match pairing q.a q.fb with
      | none => s
      | some p => if q.todo en = 0 then s else s.sceStep g en (s.multiplyStep g en q p 1)

/-! ### The SCE's queue (R177, R181, R202, R332) -/

/-- The operand bytes of a multiply are in the FIFOs (R202, R332). -/
def Cell.operandsPresent (c : Cell) (en : EngEntry) : Bool :=
  match multiplyOf en.instr (en.reg 0) (en.reg 1) (en.reg 2) with
  | none => true
  | some q => decide (q.bytesA ≤ c.fifoA.length) && decide (q.bytesB ≤ c.fifoB.length)

/-- An SCE instruction starts; `ZCLR` with FLUSHF empties the FIFOs now (R210, R336). -/
def State.sceStart (s : State) (g : CellId) (en : EngEntry) : State :=
  let c := (s.cellAt g).markStarted .sce en.id
  let c := match en.instr with
    | .zclr .. => if zclrFlush (en.reg 1) then { c with fifoA := [], fifoB := [] } else c
    | _ => c
  (s.setCell g c).push (.engineInstructionRetire g .sce)

/-- The SCE performs and retires an instruction (R205, R210, R212). -/
def State.sceRetire (s : State) (g : CellId) (en : EngEntry) : State :=
  let (s, fl, tr) : EngResult := match en.instr with
    | .zclr .. => (((s.clearZ g ((en.reg 0).toNat + en.done) (zclrCount (en.reg 1) - en.done)).count g 1 (max 1 ((zclrCount (en.reg 1) + 7) / 8))), 0, none)
    | .zcvt f rm sat .. => ((s.count g 1 (max 1 ((zcvtCount (en.reg 1) + 7) / 8))).bankWait g).zcvtPerform g en en.zcvtTodo f rm sat
    | i => match multiplyOf i (en.reg 0) (en.reg 1) (en.reg 2) with
      | some q => s.multiplyPerform g en q
      | none => (s, 0, none)
  s.engineDone g .sce en fl tr

end Sys2Proof.Machine
end

