-- ==== Sys2Proof/Machine/Events.lean ====
section
/-! DEFINITION. Events, messages, tasks and joins (R221-R228), and the way of an input from its send to its ring
(R306, R318, R319, R346-R352). -/

namespace Sys2Proof

/-- The words of an input in its ring entry (R19, R306). -/
def Input.words (i : Input) : List Word := [i.w1, i.w2, i.w3, i.w4]

def InKind.code : InKind → Nat
  | .event => 0 | .message => 1 | .task => 2

/-- VNET codes (R23). -/
def Net.code : Net → Nat
  | .ev => 0 | .rq => 1 | .rp => 2 | .sv => 3

def Net.ofCode : Nat → Net
  | 0 => .ev | 1 => .rq | 2 => .rp | _ => .sv

def EvClass.code : EvClass → Nat
  | .add => 0 | .seq => 1 | .sorted => 2

/-- Two `ADD` events that may become one (R346). -/
def Input.coalescible (i j : Input) : Bool :=
  i.kind == .event && j.kind == .event && i.cls == .add && j.cls == .add && i.dst == j.dst && i.slot == j.slot &&
    i.edge == j.edge && i.w1 == j.w1 && i.w3.toNat % 16 == j.w3.toNat % 16

/-- The earlier of two events with the sum of their counts and the OR of their format bits (R346). -/
def Input.coalesce (i j : Input) : Input := { i with w2 := i.w2 + j.w2, w3 := i.w3 ||| (j.w3 &&& 0x40) }

/-- `m0` of a message (R23). -/
def Input.m0 (i : Input) : Word :=
  BitVec.ofNat 64 (i.net.code * 2 ^ 24 + i.slot * 2 ^ 18 + i.dst / 4096 * 2 ^ 12 + i.dst % 4096)

/-- REC of a fault message of kind 2 (R367). -/
def Input.faultWords (i : Input) : List Word :=
  match i.kind with
  | .message => [i.m0, i.w1, i.w2, i.w3]
  | _ => i.words

def Instr.isFork : Instr → Bool
  | .fork .. => true
  | _ => false
def Instr.isJoin : Instr → Bool
  | .join .. => true
  | _ => false
def Instr.isWaitm : Instr → Bool
  | .waitm _ => true
  | _ => false

/-- The consumer that an edge names for an index (R302). -/
def EdgeRoute.consumer (e : EdgeRoute) (index : Nat) : Option (CellId × Nat) :=
  e.cons[index / 2 ^ e.bshift % e.cons.length]?

/-- The path of a packet that travels (R342, R355): its class, its source cell, and the cell or hive it goes to. Packets
of one class between one pair of ports arrive in the order in which they were sent. -/
def Instr.path : Instr → Option (Nat × Nat × Nat)
  | .inputArrival i => some (i.net.code, i.src, i.dst)
  | .taskReturnArrival r => some (Net.rp.code, r.child, r.parent)
  | .sortedEventAbsorb i => some (4, i.src, i.dst / 4096)
  | .steppedOpAccept o => some (5, o.src, o.home)
  | .barrierArrival a => some (6, a.src, a.unitCell)
  | _ => none

/-- The paths of packets that travel, in the order in which they were sent; an allowance return is of the class RP (R344,
R349), and `l` tells where it comes from. -/
def pathsOf : List (CellId × CellId × Net) → List Instr → List (Option (Nat × Nat × Nat))
  | _, [] => []
  | l, i :: r => match i with
    | .allowanceReturn g n => match l.find? fun x => x.2 == (g, n) with
      | some x => some (Net.rp.code, x.1, g) :: pathsOf (l.erase x) r
      | none => none :: pathsOf l r
    | i => i.path :: pathsOf l r

end Sys2Proof

namespace Sys2Proof.Machine

/-! ### Allowances (R36, R349) -/

def Cell.allow (c : Cell) : Net → Nat
  | .ev => c.allowEv | .rq => c.allowRq | .rp => 0 | .sv => c.allowSv

def Cell.setAllow (c : Cell) (n : Net) (v : Nat) : Cell :=
  match n with
  | .ev => { c with allowEv := v }
  | .rq => { c with allowRq := v }
  | .rp => c
  | .sv => { c with allowSv := v }

/-- The strands of a cell that are parked at an instruction of a kind look at their condition again (R218). -/
def State.wakeParked (s : State) (g : CellId) (p : Instr → Bool) : State :=
  ([0, 1, 2, 3] : List StrandId).foldl (fun s k => match (s.strandAt g k).run with
    | .parked i => if p i then s.stillPending (.parkedStrandResume g k) else s
    | _ => s) s

/-- ALLOWANCE_RETURN (R338, R349): the unit is usable again; a parked `FORK` and a waiting emission go on. -/
def execAllowanceReturn (g : CellId) (n : Net) (s : State) : Host.Outcome State Fault Refusal :=
  .next (
    let c := s.cellAt g
    let s := (s.setCell g (c.setAllow n (c.allow n + 1))).wakeParked g Instr.isFork
    if (s.cellAt g).sduQ.any (fun e => e.started) then s.stillPending (.engineInstructionRetire g .sdu) else s)

/-- The unit that a send took goes back when its input has been absorbed or refused (R349). -/
def State.giveBack (s : State) (i : Input) : State :=
  if i.charged then ({ s with returns := s.returns ++ [(i.dst, i.src, i.net)] }).push (.allowanceReturn i.src i.net) else s

/-- An input has been absorbed (R347, R349, R357). -/
def State.absorbed (s : State) (i : Input) : State := (s.giveBack i).countAbsorbed i.dst

/-! ### Stages (R347, R348) -/

/-- The class of a spill queue that something occupies; completions use RP (R49, R347). -/
def Waiting.net (x : Waiting) : Net :=
  match x.item with
  | .input i => i.net
  | .mail .. => .rp

def Waiting.dst (x : Waiting) : CellId :=
  match x.item with
  | .input i => i.dst
  | .mail g _ => g

/-- The spill queue of a comb has room in a class: 2,048 entries (R347). -/
def Hive.spillRoom (h : Hive) (g : CellId) (n : Net) : Bool :=
  n != .sv && decide ((h.waiting.filter fun x => x.stage == .spill && combOf x.dst == combOf g && x.net == n).length < 2048)

/-- Two ways of the set hold 16 inputs (R347). -/
def Hive.holdRoom (h : Hive) (i : Input) : Bool :=
  i.net != .sv && decide ((h.waiting.filter fun x => x.stage == .hold &&
    (x.input?.map fun j => decide (holdSet j = holdSet i)).getD false).length < 16)

/-- The reply overflow of a comb fills: it holds 32,768 entries (R351, R367). -/
def Hive.overflowFills (h : Hive) (g : CellId) : Bool :=
  decide (32768 = (h.waiting.filter fun x => x.stage == .overflow && combOf x.dst == combOf g).length)

/-- The write-back of the line whose way a held input takes must wait (R278, R286). -/
def State.holdWaits (s : State) (i : Input) : Bool :=
  let h := s.hiveAt (hiveOf i.dst)
  let st := holdSet i
  decide (16 - ({ h with waiting := ⟨.hold, .input i⟩ :: h.waiting } : Hive).eventWays st < (h.linesIn st).length) &&
    match s.victim (hiveOf i.dst) st with
    | some line => s.lineWaits (h.lineSectors line) 0
    | none => false

/-- The stage at which an input waits when its ring cannot take it; `hold` forbids the spill queue (R347, R351). -/
def Hive.stageFor (h : Hive) (i : Input) (noSpill blocked : Bool) : Stage :=
  if i.net = .sv then .service
  else if blocked then .lane
  else if !noSpill && h.spillRoom i.dst i.net then .spill
  else if h.holdRoom i then .hold
  else if i.net = .rp then .overflow
  else .lane

/-- An earlier input for the cell waits unabsorbed in the class (R344, R347); an SV input waits only behind SV
inputs. -/
def Hive.blocked (h : Hive) (i : Input) : Bool :=
  h.waiting.any fun x => (x.stage == .lane || x.stage == .service) && x.dst == i.dst && x.net == i.net

/-- The inputs of a slot that wait, in arrival order. -/
def Hive.waitingFor (h : Hive) (g : CellId) (n : Nat) : List Waiting := h.waiting.filter fun x => x.forSlot g n

/-- Write an input at the tail of its ring (R306). The slot becomes a candidate when the RATE-th input arrives
(R309, R314). -/
def State.ringPut (s : State) (i : Input) : State :=
  let g := i.dst
  let n := i.slot
  let was := s.ready g n
  let tail := s.slotTail g n
  let s := s.touch g (s.slotQbase g n + 32 * (tail % 2 ^ s.slotQlog g n))
  let s := s.writeBytes (s.ringAddr g n tail) (i.words.flatMap fun v => toBytes v.toNat 8)
  let s := s.setQptr g n (s.slotHead g n) (tail + 1)
  let d := (s.cellAt g).slotDyn n
  ((s.setSlotDyn g n { d with waiting := d.waiting ++ [(tail, i, s.now)] }).noteReady g n was).offer g

/-- Merge an event with a coalescible one that waits at stage 2 or 3 (R346); answers whether there was one. -/
def coalesceInto (i : Input) : List Waiting → Option (List Waiting)
  | [] => none
  | x :: r =>
    match x.item with
    | .input j =>
      if (x.stage == .spill || x.stage == .hold) && j.coalescible i then some (⟨x.stage, .input (j.coalesce i)⟩ :: r)
      else (coalesceInto i r).map fun l => x :: l
    | .mail .. => (coalesceInto i r).map fun l => x :: l

/-- Report the reply overflow to the drover as it fills; the job halts (R351, R367, R369). -/
def State.reportOverflow (s : State) (g : CellId) : State :=
  if (s.hiveAt (hiveOf g)).overflowFills g then
    let s := s.sendFault 4 g 0 0 [0, 0, 0, 0] 0
    match (s.cellAt g).job with
    | some j => s.haltJob j 2
    | none => s
  else s

/-- An input that its ring cannot take waits at the first stage that can take it, behind every earlier input of its
slot (R347, R348). -/
def State.enterStage (s : State) (i : Input) (st : Stage) (blocked : Bool) : State :=
  let hv := hiveOf i.dst
  let h := s.hiveAt hv
  match if blocked then none else coalesceInto i h.waiting with
  | some l => (s.setHive hv { h with waiting := l }).absorbed i
  | none =>
    let s := s.setHive hv { h with waiting := h.waiting ++ [⟨st, .input i⟩] }
    let s := if st = .overflow then s.reportOverflow i.dst else s
    let s := if st = .hold then s.dropWay hv (holdSet i) else s
    if st = .lane || st = .service then s else s.absorbed i

/-- The bank of the slot's next ring entry is being zeroed, and what comes to it waits (R272). -/
def State.ringZeroing (s : State) (g : CellId) (n : Nat) : Bool :=
  (s.cellAt g).meetsZeroing (s.slotQbase g n + 32 * (s.slotTail g n % 2 ^ s.slotQlog g n)) 32

/-- The input stays out of its ring: another of its slot waits, it is blocked, or the ring is full (R306, R348). A fenced
cell's links are closed (R372). -/
def State.ringShut (s : State) (i : Input) : Bool :=
  let h := s.hiveAt (hiveOf i.dst)
  !(h.waitingFor i.dst i.slot).isEmpty || h.blocked i || (s.cellAt i.dst).fenced || s.ringFull i.dst i.slot

/-- Where an input whose ring is shut waits (R347). -/
def State.stageOfInput (s : State) (i : Input) : Stage :=
  let h := s.hiveAt (hiveOf i.dst)
  h.stageFor i ((h.waitingFor i.dst i.slot).any fun x => x.stage == .hold || x.stage == .overflow)
    (h.blocked i || (s.cellAt i.dst).fenced)

/-- An input that has passed its arrival checks goes to its ring or waits (R306, R347, R348); in a fenced cell's lane where
that is its cell (R372). -/
def State.deliver (s : State) (i : Input) : State :=
  if s.ringShut i then s.enterStage i (s.stageOfInput i) ((s.hiveAt (hiveOf i.dst)).blocked i || (s.cellAt i.dst).fenced)
  else (s.ringPut i).absorbed i

/-- The arrival of an input is held up: its ring's bank is being zeroed (R272), or the slice that is to hold it has a line to
write back first (R286). -/
def State.arrivalWaits (s : State) (i : Input) : Bool :=
  if s.ringShut i then s.stageOfInput i == .hold && s.holdWaits i else s.ringZeroing i.dst i.slot

/-- The arrival checks (R225): a slot that is not VALID, another INKIND, and a message on the EV network. The install
makes no arrival on a network (R247). -/
def State.arrivalFails (s : State) (i : Input) (install : Bool) : Bool :=
  !s.slotValid i.dst i.slot || s.slotKind i.dst i.slot != i.kind.code ||
    (i.kind == .message && i.net == .ev && !install)

/-- Where a fork request's join link leads (R319). -/
def joinReturn (child : CellId) (link : Word) (r1 r2 r3 r4 status : Word) : TaskReturn :=
  let l := link.toNat
  ⟨child, hiveOf child * 4096 + l % 4096, l / 2 ^ 16 % 64, l / 2 ^ 48, l / 2 ^ 12 % 16, r1, r2, r3, r4, status⟩

/-- An input that fails its arrival checks is reported and counts as absorbed (R225, R349); a fork request's parent
receives zero words with the cause `ACCESS` (R227). -/
def State.refuseInput (s : State) (i : Input) : State :=
  let s := (s.sendFault 2 i.dst i.slot 0 i.faultWords 0).absorbed i
  if i.kind = .task then
    (s.push (.taskReturnArrival (joinReturn i.dst i.link 0 0 0 0
      (taskStatus 0x06 (i.link.toNat / 2 ^ 12 % 16) false)))).countSent i.dst
  else s

/-- INPUT_ARRIVAL (R225, R306, R347, R348); an arrival that is held up stays the first of its path (R342). -/
def execInputArrival (i : Input) (s : State) : Host.Outcome State Fault Refusal :=
  .next (if !(s.cellAt i.dst).fenced && s.arrivalFails i false then s.refuseInput i
    else if s.arrivalWaits i then s.heldUp (.inputArrival i)
    else s.deliver i)

/-! ### Inputs that move forward (R306, R348) -/

/-- Without the first entry that equals `x`. -/
def Hive.without (h : Hive) (x : Waiting) : Hive := { h with waiting := h.waiting.erase x }

/-- The first waiting entry of its stage that competes for the same room: a lane and a service buffer by cell and
class, a reply overflow by comb. -/
def Hive.isHead (h : Hive) (x : Waiting) : Bool :=
  match x.stage with
  | .lane | .service => h.waiting.find? (fun y => y.stage == x.stage && y.dst == x.dst && y.net == x.net) == some x
  | .overflow => h.waiting.find? (fun y => y.stage == .overflow && combOf y.dst == combOf x.dst) == some x
  | _ => true

/-- Every slot of the hive that has inputs waiting looks at the room again. -/
def State.nudge (s : State) (hive : Nat) : State :=
  (s.hiveAt hive).waiting.foldl (fun s x => match x.item with
    | .input i => s.stillPending (.inputAdvance i.dst i.slot)
    | .mail g _ => s.stillPending (.mailboxSpillEnter g)) s

/-- Replace the stage of the first entry that equals `x`. -/
def restage (x : Waiting) (st : Stage) : List Waiting → List Waiting
  | [] => []
  | y :: r => if y = x then ⟨st, x.item⟩ :: r else y :: restage x st r

/-- Move one waiting input of a slot a stage forward, if it can go (R348): the oldest one into the ring, else the
first that a nearer stage can take. `held` says that an earlier input of the slot waits beyond the spill queue. -/
def State.advanceFrom (s : State) (g : CellId) (n : Nat) (first held : Bool) : List Waiting → Option State
  | [] => none
  | x :: r =>
    let hv := hiveOf g
    let h := s.hiveAt hv
    match x.item with
    | .mail .. => s.advanceFrom g n first held r
    | .input i =>
      let free := x.stage == .lane || x.stage == .service
      let goes := h.isHead x && !(s.cellAt g).fenced
      let toRing := first && goes && x.stage != .hold && !s.ringFull g n && !s.ringZeroing g n
      let toSpill := goes && !held && (x.stage == .hold || x.stage == .overflow || x.stage == .lane) &&
        h.spillRoom g i.net
      let toHold := goes && (x.stage == .overflow || x.stage == .lane) && h.holdRoom i && !s.holdWaits i
      if toRing then
        let s := (s.setHive hv (h.without x)).ringPut i
        some (if free then s.absorbed i else s)
      else if toSpill || toHold then
        let st : Stage := if toSpill then .spill else .hold
        match if x.stage = .lane then coalesceInto i (h.without x).waiting else none with
        | some l => some ((s.setHive hv { h with waiting := l }).absorbed i)
        | none =>
          let s := s.setHive hv { h with waiting := restage x st h.waiting }
          let s := if st = .hold then s.dropWay hv (holdSet i) else s
          some (if x.stage = .lane then s.absorbed i else s)
      else s.advanceFrom g n false (held || x.stage == .hold || x.stage == .overflow || x.stage == .lane) r

/-- An input of the slot that the slice could hold waits for the write-back of a line (R286). -/
def State.holdAwaited (s : State) (g : CellId) (n : Nat) : Bool :=
  ((s.hiveAt (hiveOf g)).waitingFor g n).any fun x => match x.item with
    | .input i => (x.stage == .lane || x.stage == .overflow) && (s.hiveAt (hiveOf g)).holdRoom i && s.holdWaits i
    | .mail .. => false

/-- INPUT_ADVANCE (R306, R346, R348): one waiting input of the slot moves forward; others look again. -/
def execInputAdvance (g : CellId) (n : Nat) (s : State) : Host.Outcome State Fault Refusal :=
  .next (match s.advanceFrom g n true false ((s.hiveAt (hiveOf g)).waitingFor g n) with
    | some s' => s'.nudge (hiveOf g)
    | none => if s.holdAwaited g n then (s.offer g).stillPending (.inputAdvance g n) else s.offer g)

/-! ### Sending (R221, R225, R352) -/

/-- An input goes on its way; a `SORTED` event goes to the sorted store of its consumer's hive (R352). -/
def State.send (s : State) (i : Input) : State :=
  (s.push (if i.kind = .event ∧ i.cls = .sorted then .sortedEventAbsorb i else .inputArrival i)).countSent i.src

/-- SORTED_EVENT_ABSORB (R352): a full store, of 1,048,576 entries, absorbs nothing. -/
def execSortedEventAbsorb (i : Input) (s : State) : Host.Outcome State Fault Refusal :=
  .next (
    let h := s.hiveAt (hiveOf i.dst)
    if 1048576 ≤ h.sorted.length then s.heldUp (.sortedEventAbsorb i)
    else (s.setHive (hiveOf i.dst) { h with sorted := h.sorted ++ [i] }).absorbed i)

/-- The route of an edge of the actor in slot `n`. -/
def State.route (s : State) (g : CellId) (n edge : Nat) : Option EdgeRoute :=
  ((s.cellAt g).slotDyn n).edges.find? fun e => e.edge == edge

/-- Send one event of cell `g`'s slot `n`, its unit taken from ALLOW.EV (R19, R65, R221). The scale word gives the
scale and the format. -/
def State.sendEvent (s : State) (g : CellId) (n : Nat) (e : EdgeRoute) (index : Nat) (count scale : Word) : State :=
  match e.consumer index with
  | none => s
  | some (d, sl) =>
    let c := s.cellAt g
    let dyn := c.slotDyn n
    let q := (look dyn.seqno e.edge).getD 0
    let dyn := if e.cls = .add then dyn else { dyn with seqno := put dyn.seqno e.edge ((q + 1) % 2 ^ 40) }
    let s := s.setCell g { c with allowEv := c.allowEv - 1, slots := put c.slots n dyn }
    let w3 := scale.toNat % 16 + e.cls.code * 2 ^ 4 + scale.toNat / 2 ^ 6 % 2 * 2 ^ 6 + e.edge % 256 * 2 ^ 8
    let w4 := if e.cls = .add then 0 else lcidOf g + hiveOf g * 2 ^ 12 + n * 2 ^ 18 + q * 2 ^ 24
    s.send { dst := d, slot := sl, kind := .event, net := .ev, w1 := BitVec.ofNat 64 (index % 2 ^ 32), w2 := count,
             w3 := BitVec.ofNat 64 w3, w4 := BitVec.ofNat 64 w4, src := g, srcSlot := n, seq := q, cls := e.cls,
             edge := e.edge, charged := true, pathLo := 0, pathHi := 0, depth := 0, link := 0, hostTag := none }

/-- The count is in the range of its format (R65). -/
def countFits (count scale : Word) : Bool :=
  let lim : Int := if scale.getLsbD 6 then 2 ^ 15 else 2 ^ 7
  decide (-lim ≤ count.toInt) && decide (count.toInt < lim)

/-- A `DETERMINISM_CHECK` trap (R250). -/
def State.dchkTrap (s : State) (i : Instr) (aux : Nat) : Trap :=
  ⟨.determinismCheck, s.instrWord i, BitVec.ofNat 64 aux, 0, 0, 0⟩

/-- `EVSEND` (R221, R250, R302). -/
def execEvsend (d a b : WReg) (n : Fin 256) (s : State) : Host.Outcome State Fault Refusal :=
  .next (
    let t := s.me
    match s.route s.actorCell t.slotNo n.val with
    | none => s.raise ⟨.access, BitVec.ofNat 64 n.val, 0, 0, 0, 0⟩
    | some e =>
      if !countFits (t.w b) (t.w d) then s.raise ⟨.access, t.w b, 1, 0, 0, 0⟩
      else if t.dchk && e.cls == .seq && e.producer != (s.curCell, t.slotNo) then
        s.raise (s.dchkTrap (.evsend d a b n) 2)
      else if s.cell.allowEv = 0 then (s.setCf true).retire
      else ((s.sendEvent s.curCell t.slotNo e ((t.w a).toNat % 2 ^ 32) (t.w b) (t.w d)).setCf false).retire)

/-- An instruction that a swarm may not hold (R174). -/
def State.aloneOnly (s : State) (i : Instr) (k : State) : State :=
  if s.me.swm then s.raise ⟨.illegalInstruction, s.instrWord i, 0, 0, 0, 0⟩ else k

/-- `EVPOP` (R222, R294): from the ring that the firing started with (R50); a bank that is being zeroed holds it up (R272). -/
def execEvpop (s : State) : Host.Outcome State Fault Refusal :=
  .next (s.aloneOnly .evpop (
    match s.me.firing with
    | none => s.retire
    | some f =>
      if f.rate ≤ f.taken then (s.setCf true).retire
      else
        let off := f.input f.taken
        let a := tcmBase s.curCell + off
        if s.cell.meetsZeroing off 32 then s else
        let s := s.touchRange s.curCell off 32
        if s.rangeMarked a 32 then s.raise ⟨.uncorrectable, BitVec.ofNat 64 off, 0, 0, 0, 0⟩
        else
          let v (k : Nat) : Word := BitVec.ofNat 64 (s.read (a + 8 * k) 8)
          let t := { s.me with firing := some { f with taken := f.taken + 1 } }
          let t := (((t.setW 1 (v 0)).setW 2 (v 1)).setW 3 (v 2)).setW 4 (v 3)
          (s.setMe (t.setCf false)).retire))

/-- RATE of the current firing. -/
def State.rate (s : State) : Nat := (s.me.firing.map fun f => f.rate).getD 0

/-- `EVCNT` (R223). -/
def execEvcnt (d : WReg) (s : State) : Host.Outcome State Fault Refusal :=
  .next (s.aloneOnly (.evcnt d)
    ((s.setW d (BitVec.ofNat 64 (s.evcount % 2 ^ 32))).setCf (decide (s.rate ≤ s.evcount))).retire)

/-- `MBW` (R224). -/
def execMbw (n : Fin 8) (a : WReg) (s : State) : Host.Outcome State Fault Refusal :=
  .next (s.setMe (s.me.setDw (Fin.ofNat 64 (44 + n.val)) (s.w a))).retire

/-- The checks of a message word (R23, R225): a reserved bit, another hive, no cell; SV in user mode. -/
def State.messageCheck (s : State) (i : Instr) (m0 : Word) : Except Trap Unit :=
  let v := m0.toNat
  let g := hiveOf s.curCell * 4096 + v % 4096
  if 2 ^ 26 ≤ v || v / 2 ^ 12 % 64 != hiveOf s.curCell || !s.cellExists g then .error ⟨.access, m0, 0, 0, 0, 0⟩
  else if v / 2 ^ 24 % 4 = 3 && !s.me.sv then .error ⟨.privilege, s.instrWord i, 0, 0, 0, 0⟩
  else .ok ()

/-- The message in `m0`-`m4` as an input (R23). -/
def Strand.message (t : Strand) (g : CellId) (charged : Bool) : Input :=
  let v := (t.m 0).toNat
  { dst := hiveOf g * 4096 + v % 4096, slot := v / 2 ^ 18 % 64, kind := .message, net := Net.ofCode (v / 2 ^ 24 % 4),
    w1 := t.m 1, w2 := t.m 2, w3 := t.m 3, w4 := t.m 4, src := g, srcSlot := t.slotNo, seq := 0, cls := .add, edge := 0,
    charged := charged, pathLo := 0, pathHi := 0, depth := 0, link := 0, hostTag := none }

/-- The destination consumes a `SEQ` edge, and the source slot is recorded for none of those into it (R250; log entry 71). -/
def State.seqClash (s : State) (i : Input) : Bool :=
  let l := ((s.cellAt i.dst).slotDyn i.slot).seqFrom
  !l.isEmpty && !l.contains (i.src, i.srcSlot)

/-- `SENDM` and `SENDM.t` (R225). -/
def State.sendMessage (s : State) (i : Instr) (trap : Bool) : State :=
  s.orRaise (s.messageCheck i (s.me.m 0)) fun _ =>
    let x := s.me.message s.curCell true
    if s.me.dchk && s.seqClash x then s.raise (s.dchkTrap i 2)
    else if x.net = .rp then ((s.send { x with charged := false }).setCf false).retire
    else if s.cell.allow x.net = 0 then
      if trap then s.raise ⟨.sendFull, s.me.m 0, BitVec.ofNat 64 x.net.code, 0, 0, 0⟩ else (s.setCf true).retire
    else
      let s := s.setCur (s.cell.setAllow x.net (s.cell.allow x.net - 1))
      ((s.send x).setCf false).retire

/-- `SENDM` (R225). -/
def execSendm (s : State) : Host.Outcome State Fault Refusal := .next (s.sendMessage .sendm false)

/-- `SENDM.t` (R225). -/
def execSendmT (s : State) : Host.Outcome State Fault Refusal := .next (s.sendMessage .sendmT true)

/-! ### The mailbox (R49, R226) -/

/-- Slot of a mailbox entry. -/
def mailSlot (v : Word) : Nat := v.toNat / 2 ^ 16 % 64

/-- `WAITM` takes the oldest entry of the slot, if there is one. -/
def State.takeMail (s : State) (d : WReg) : Option State :=
  match s.cell.mailbox.find? fun v => mailSlot v == s.me.slotNo with
  | none => none
  | some v =>
    let c := s.cell
    let s := (s.setCur { c with mailbox := c.mailbox.erase v }).setW d v
    let s := if (s.hiveAt (hiveOf s.curCell)).waiting.any (fun x => x.input?.isNone && x.dst == s.curCell) then
        s.stillPending (.mailboxSpillEnter s.curCell)
      else s
    some s.retire

/-- `WAITM` (R226): it parks while the mailbox holds no entry for the slot. -/
def execWaitm (d : WReg) (s : State) : Host.Outcome State Fault Refusal :=
  .next (s.aloneOnly (.waitm d) ((s.takeMail d).getD (s.park (.waitm d) 0)))

/-- A completion goes to the mailbox, or waits behind earlier ones (R49). -/
def State.mail (s : State) (g : CellId) (v : Word) : State :=
  let c := s.cellAt g
  let hv := hiveOf g
  let h := s.hiveAt hv
  let behind := h.waiting.any fun x => x.input?.isNone && x.dst == g
  if !behind && c.mailbox.length < 32 then
    (s.setCell g { c with mailbox := c.mailbox ++ [v] }).wakeParked g Instr.isWaitm
  else
    let spilt := h.waiting.any fun x => x.input?.isNone && x.dst == g && x.stage == .overflow
    let st : Stage := if !spilt && h.spillRoom g .rp then .spill else .overflow
    let s := if st = .overflow then s.reportOverflow g else s
    let h := s.hiveAt hv
    s.setHive hv { h with waiting := h.waiting ++ [⟨st, .mail g v⟩] }

/-- MAILBOX_SPILL_ENTER (R49): the oldest waiting completion of the cell enters the mailbox as an entry frees. -/
def execMailboxSpillEnter (g : CellId) (s : State) : Host.Outcome State Fault Refusal :=
  .next (
    let hv := hiveOf g
    let h := s.hiveAt hv
    match h.waiting.find? fun x => x.input?.isNone && x.dst == g with
    | none => s
    | some x =>
      match x.item with
      | .input _ => s
      | .mail _ v =>
        let c := s.cellAt g
        if c.mailbox.length < 32 then
          let s := (s.setHive hv (h.without x)).setCell g { c with mailbox := c.mailbox ++ [v] }
          (s.wakeParked g Instr.isWaitm).nudge hv
        else if x.stage = .overflow && h.isHead x && h.spillRoom g .rp then
          s.setHive hv { h with waiting := restage x .spill h.waiting }
        else s)

/-! ### Tasks (R227, R228, R318, R319) -/

/-- Children not yet joined. -/
def Firing.outstanding (f : Firing) : Nat := f.spawned - f.joined

/-- The child's path with one component appended (R30, R227): PATHLO and PATHHI. -/
def childPath (lo hi : Word) (depth : Nat) (comp : Nat) : Word × Word :=
  if depth < 4 then (lo + BitVec.ofNat 64 (comp * 2 ^ (16 * depth)), hi)
  else (lo, hi + BitVec.ofNat 64 (comp * 2 ^ (16 * (depth - 4))))

/-- The hash of a path that places a task (R318). -/
def pathHash (lo hi : Word) (depth : Nat) : Nat :=
  vecHash .int64 (Nat.xor lo.toNat (vecHash .int64 (Nat.xor hi.toNat depth)))

/-- The cell of a task: P[h mod |P|] (R318). -/
def forkCell (p : List CellId) (lo hi : Word) (depth : Nat) : Option CellId := p[pathHash lo hi depth % p.length]?

/-- The checks of R227. A PDEPTH above 8, which only a store to the saved workspace can leave (R16), counts as 8, so that no path
exceeds 8 components (R55). -/
def State.forkCheck (s : State) (a : WReg) (n : Fin 64) (f : Firing) : Except Trap (List CellId) :=
  let v := s.w a
  if 2 ^ 16 ≤ v.toNat then .error ⟨.access, v, 0, 0, 0, 0⟩
  else if 8 ≤ s.me.pdepth then .error ⟨.access, v, 8, 0, 0, 0⟩
  else if 16 ≤ f.outstanding then .error ⟨.access, v, 16, 0, 0, 0⟩
  else
    match f.forkmask / 2 ^ n.val % 2, look ((s.cell.slotDyn f.slot).forkTo) n.val with
    | 1, some p => if p.isEmpty then .error ⟨.access, BitVec.ofNat 64 n.val, 64, 0, 0, 0⟩ else .ok p
    | _, _ => .error ⟨.access, BitVec.ofNat 64 n.val, 64, 0, 0, 0⟩

/-- The request goes out, the join-buffer entry of its spawn index is reserved (R227, R318, R319). -/
def State.spawn (s : State) (a : WReg) (n : Fin 64) (f : Firing) (p : List CellId) : State :=
  let t := s.me
  let g := s.curCell
  let comp := (t.w a).toNat % 2 ^ 16
  let d := t.pdepth + 1
  let path := childPath (t.dw 56) (t.dw 57) t.pdepth comp
  let ix := f.spawned % 16
  let c := s.cell
  let jb := (look c.joins f.pool).getD ⟨0, []⟩
  let link := jb.gen * 2 ^ 48 + f.pool * 2 ^ 16 + ix * 2 ^ 12 + lcidOf g
  let s := s.setCur { c with allowRq := c.allowRq - 1, joins := put c.joins f.pool ⟨jb.gen, jb.entries ++ [(ix, none)]⟩ }
  let s := s.setMe { s.me with firing := some { f with spawned := f.spawned + 1 } }
  let dst := (forkCell p path.1 path.2 d).getD g
  (s.send { dst := dst, slot := n.val, kind := .task, net := .rq, w1 := t.m 1, w2 := t.m 2, w3 := t.m 3, w4 := t.m 4,
            src := g, srcSlot := t.slotNo, seq := 0, cls := .add, edge := 0, charged := true, pathLo := path.1,
            pathHi := path.2, depth := d, link := BitVec.ofNat 64 link, hostTag := none }).retire

/-- `FORK` with its checks made: it parks while ALLOW.RQ is 0 (R227). -/
def State.tryFork (s : State) (a : WReg) (n : Fin 64) : Option State :=
  match s.me.firing with
  | none => some s
  | some f =>
    match s.forkCheck a n f with
    | .error e => some (s.raise e)
    | .ok p => if s.cell.allowRq = 0 then none else some (s.spawn a n f p)

/-- `FORK` (R227). -/
def execFork (a : WReg) (n : Fin 64) (s : State) : Host.Outcome State Fault Refusal :=
  .next (s.aloneOnly (.fork a n) ((s.tryFork a n).getD (s.park (.fork a n) 0)))

/-- The checks of R129 for a range of the cell's own TCM that an instruction names by address; the own window is the
same place (R46). -/
def State.localCheck (s : State) (i : Instr) (addr size align kind : Nat) : Except Trap Unit :=
  let off := ownAddr s.curCell addr
  if addr % align != 0 then .error ⟨.misaligned, BitVec.ofNat 64 addr, BitVec.ofNat 64 align, 0, 0, 0⟩
  else if 0x80000 < off + size then .error (accessTrap (BitVec.ofNat 64 addr) kind)
  else if 0x7F000 < off + size && !s.me.sv then .error ⟨.privilege, s.instrWord i, 0, 0, 0, 0⟩
  else s.tcmCheck s.curCell s.curCell s.me.sv (s.instrWord i) addr off size kind

/-- An access to the `n` doublewords of a local range waits for an older one of the strand (R131, R254), and for a bank that
is being zeroed (R272). -/
def State.rangeWaits (s : State) (addr n : Nat) : Bool :=
  s.olderAccess s.cell.nextId addr (8 * n) || s.zeroHeld s.curCell addr (8 * n)

/-- `JOIN` once the child with the lowest unjoined spawn index has returned (R228, R250). -/
def State.tryJoin (s : State) (d a : WReg) : Option State :=
  let t := s.me
  match t.firing with
  | none => some s
  | some f =>
    if f.outstanding = 0 then some ((s.setW d 0x10).setCf true).retire
    else
      let ix := f.joined % 16
      let c := s.cell
      let jb := (look c.joins f.pool).getD ⟨0, []⟩
      match look jb.entries ix with
      | some (some r) =>
        if t.dchk && r.status.getLsbD 5 then some (s.raise (s.dchkTrap (.join d a) 3))
        else
          let off := ownAddr s.curCell (t.w a).toNat
          let s := s.setCur { c with joins := put c.joins f.pool ⟨jb.gen, drop jb.entries ix⟩ }
          let s := (s.touchRange s.curCell off 32).writeTcmWords s.curCell off [r.r1, r.r2, r.r3, r.r4]
          let s := s.setMe { s.me with firing := some { f with joined := f.joined + 1 } }
          some ((s.setW d r.status).setCf false).retire
      | _ => none

/-- `JOIN` (R228). -/
def execJoin (d a : WReg) (s : State) : Host.Outcome State Fault Refusal :=
  .next (s.aloneOnly (.join d a) (if s.acquireWaits || s.rangeWaits (s.w a).toNat 4 then s
    else s.orRaise (s.localCheck (.join d a) (s.w a).toNat 32 8 1) fun _ =>
      (s.tryJoin d a).getD (s.park (.join d a) 0)))

/-- TASK_RETURN_ARRIVAL (R227, R228, R319): a return of another generation is discarded. -/
def execTaskReturnArrival (r : TaskReturn) (s : State) : Host.Outcome State Fault Refusal :=
  .next (
    let s := s.countAbsorbed r.parent
    let c := s.cellAt r.parent
    let jb := (look c.joins r.buffer).getD ⟨0, []⟩
    if jb.gen = r.gen && look jb.entries r.spawn == some none then
      (s.setCell r.parent { c with joins := put c.joins r.buffer ⟨jb.gen, put jb.entries r.spawn (some r)⟩ }).wakeParked
        r.parent Instr.isJoin
    else s)

end Sys2Proof.Machine
end

