-- ==== Sys2Proof/Machine/Sdu.lean ====
section
/-! DEFINITION. The sigma-delta unit (R81-R84, R213-R217). -/

namespace Sys2Proof.Machine

/-! ### Channel descriptors (R213, R214) -/

/-- Doubleword `n` of a channel's copy of its descriptor. -/
def Channel.dw (c : Channel) (n : Nat) : Nat := ((c.desc[n]?).getD 0).toNat

def Channel.edge (c : Channel) : Nat := c.dw 0 / 2 ^ 32 % 256
def Channel.theta (c : Channel) : Nat := c.dw 0 / 2 ^ 16 % 2 ^ 16
def Channel.scale (c : Channel) : Nat := c.dw 0 / 2 ^ 8 % 16
def Channel.d16 (c : Channel) : Bool := c.dw 0 / 2 ^ 7 % 2 == 1
def Channel.point (c : Channel) : Nat := c.dw 0 / 2 % 64
def Channel.fp (c : Channel) : Bool := c.dw 0 % 2 == 1
def Channel.sbase (c : Channel) : Nat := c.dw 1 % 2 ^ 19
def Channel.idx0 (c : Channel) : Nat := c.dw 2 / 2 ^ 32
def Channel.nel (c : Channel) : Nat := c.dw 2 / 2 ^ 16 % 2 ^ 15
def Channel.zb (c : Channel) : Nat := c.dw 2 % 2 ^ 14
def Channel.clamp (c : Channel) : Bool := c.dw 3 % 2 == 1

/-- The rounding mode of a channel: codes 0-4 (R66, R213). -/
def Channel.rm (c : Channel) : Rm :=
  match c.dw 0 / 2 ^ 12 % 8 with
  | 0 => .rne | 1 => .rtz | 2 => .rup | 3 => .rdn | _ => .rna

/-- QMAX of the delta format (R83). -/
def Channel.qmax (c : Channel) : Int := if c.d16 then 32767 else 127

/-- Breakpoint, origin, intercept, slope and shift of segment k (R81, R213). -/
def Channel.brk (c : Channel) (k : Nat) : Int := toSigned 64 (c.dw (8 + 4 * k))
def Channel.origin (c : Channel) (k : Nat) : Int := toSigned 64 (c.dw (9 + 4 * k))
def Channel.icept (c : Channel) (k : Nat) : Int := toSigned 64 (c.dw (10 + 4 * k))
def Channel.slope (c : Channel) (k : Nat) : Int := toSigned 32 (c.dw (11 + 4 * k))
def Channel.shift (c : Channel) (k : Nat) : Nat := c.dw (11 + 4 * k) / 2 ^ 32 % 64

/-- A doubleword of the descriptor offends (R81, R214); `edgeOk` says that the actor has the edge. An S array that passes
0x7_F000 offends in d1 (DESIGN CHOICE, log entry 74). -/
def Channel.offends (c : Channel) (edgeOk : Bool) (n : Nat) : Bool :=
  let v := c.dw n
  match n with
  | 0 => v / 2 ^ 40 != 0 || v / 2 ^ 15 % 2 != 0 || decide (4 < v / 2 ^ 12 % 8) || c.theta == 0 ||
      decide (c.qmax < (c.theta : Int)) || !edgeOk
  | 1 => v / 2 ^ 19 != 0 || c.sbase % 8 != 0 || decide (0x7F000 < c.sbase + 8 * c.nel)
  | 2 => v / 2 ^ 31 % 2 != 0 || v / 2 ^ 14 % 4 != 0 || c.nel == 0 || decide (16384 < c.nel) ||
      decide (16384 < c.zb + c.nel)
  | 3 => v / 2 != 0
  | 4 | 5 | 6 | 7 => v != 0
  | n => (n % 4 == 3 && v / 2 ^ 38 != 0) || (n % 4 == 0 && decide (16 ≤ n) &&
      decide (c.brk ((n - 8) / 4) < c.brk ((n - 8) / 4 - 1)))

/-- The first offending doubleword (R214). -/
def Channel.firstBad (c : Channel) (edgeOk : Bool) : Option Nat := (List.range 136).find? (c.offends edgeOk)

/-- The issuing cell's copy of a channel (R213). -/
def Cell.chan (c : Cell) (n : Nat) : Option Channel := look c.chans n

/-- The descriptor in TCM as a channel. -/
def State.readChannel (s : State) (g : CellId) (a slot : Nat) (home : CellId) : Channel :=
  ⟨(List.range 136).map fun n => BitVec.ofNat 64 (s.read (tcmBase g + a + 8 * n) 8), a, slot, home⟩

/-- The first doubleword of a TCM range that no engine may touch. -/
def State.closedDw (s : State) (g : CellId) (a n : Nat) : Option Nat :=
  (List.range n).find? fun k => s.engineClosed g (a + 8 * k) 8

/-- `SDCFG` in stream (R214, R294). A descriptor that lies in a bound workspace or a gated bank is recorded as the other
offences are, with the number of its first closed doubleword (DESIGN CHOICE, log entry 54). -/
def State.sdcfgPerform (s : State) (g : CellId) (en : EngEntry) : EngResult :=
  let a := (en.reg 1).toNat
  let s := s.touchRange g a 1088
  match s.closedDw g a 136 with
  | some n => (s, 0, some (engAccess a n 0))
  | none =>
    match (List.range 136).find? fun k => s.marked (tcmBase g + a + 8 * k) with
    | some k => (s, 0, some ⟨.uncorrectable, BitVec.ofNat 64 (a + 8 * k), 0, 0, 0, 0⟩)
    | none =>
      let ch := s.readChannel g a en.slot en.home
      match ch.firstBad (s.route en.home en.slot ch.edge).isSome with
      | some n => (s, 0, some (engAccess a n 0))
      | none =>
        (s.setCell g { s.cellAt g with chans := put (s.cellAt g).chans (en.reg 0).toNat ch }, 0, none)

/-! ### One element (R82, R83) -/

/-- `sat64` (R82). -/
def sat64 (v : Int) : Int := if v < -(2 ^ 63 : Nat) then -(2 ^ 63 : Nat) else if (2 ^ 63 : Nat) ≤ v then (2 ^ 63 : Nat) - 1 else v

/-- The input x of an accumulator, with its flag (R82). -/
def Channel.input (c : Channel) (z : Nat) : Int × Flags :=
  if c.fp then
    let v := match unpack .fp32 (z % 2 ^ 32) with
      | .fin n m e => FVal.fin n m (e + c.point)
      | v => v
    let r := valToInt .int64 .rne true v
    (toSigned 64 r.1, r.2 &&& flagNV)
  else (toSigned 64 z, 0)

/-- The segment of an input (R82). -/
def Channel.segment (c : Channel) (x : Int) : Nat := ((List.range 32).filter fun j => decide (0 < j) && decide (c.brk j ≤ x)).length

/-- The activation y of an input (R82). -/
def Channel.activate (c : Channel) (x : Int) : Int :=
  let k := c.segment x
  sat64 (c.icept k + c.slope k * (x - c.origin k) / (2 ^ c.shift k : Nat))

/-- q of a difference (R83). -/
def Channel.quantise (c : Channel) (e : Int) : Int := (roundToInt c.rm (decide (e < 0)) e.natAbs (-(c.scale : Int))).1

/-- qc of a q (R83). -/
def Channel.clampQ (c : Channel) (q : Int) : Int := if c.qmax < q then c.qmax else if q < -c.qmax - 1 then -c.qmax - 1 else q

/-! ### Scans (R215-R217) -/

/-- What a scan does. -/
structure Scan where
  chan : Nat
  theta : Nat
  first : Nat
  count : Nat
  deriving DecidableEq, Repr

/-- FIRST and COUNT of a scan word (R215). -/
def scanFirst (w : Word) : Nat := w.toNat % 2 ^ 14
def scanCount (w : Word) : Nat := w.toNat / 2 ^ 16 % 2 ^ 15

/-- The scan that an entry asks for on a configured channel (R215, R216). -/
def scanOf (en : EngEntry) (c : Channel) : Scan :=
  match en.instr with
  | .sdflush .. => ⟨(en.reg 0).toNat, 1, 0, c.nel⟩
  | _ => ⟨(en.reg 0).toNat, c.theta, scanFirst (en.reg 1), scanCount (en.reg 1)⟩

/-- How far a scan has come. -/
inductive ScanEnd where
  | all
  /-- the next emission, a cycle later (R338) -/
  | more
  /-- no EV allowance (R217) -/
  | waits
  | trap (t : Trap)
  deriving DecidableEq, Repr

/-- The copy with CLAMP set. -/
def Channel.setClamp (c : Channel) : Channel := { c with desc := c.desc.set 3 (BitVec.ofNat 64 (c.dw 3 / 2 * 2 + 1)) }

/-- Mark the channel's copy clamped (R83, R215). -/
def State.clampChan (s : State) (g : CellId) (n : Nat) : State :=
  let c := s.cellAt g
  match c.chan n with
  | some ch => s.setCell g { c with chans := put c.chans n ch.setClamp }
  | none => s

/-- Emit the event of element i on the production edge of the configuring actor, and update S (R83, R215, R217). -/
def State.emit (s : State) (g : CellId) (ch : Channel) (i : Nat) (sv q : Int) : State :=
  let s := match s.route ch.home ch.slot ch.edge with
    | some e => s.sendEvent g ch.slot e ((ch.idx0 + i) % 2 ^ 32) (BitVec.ofInt 64 (ch.clampQ q))
        (BitVec.ofNat 64 (ch.scale + ch.d16.toNat * 64))
    | none => s
  let a := ch.sbase + 8 * i
  let s := (s.touch g a).write (tcmBase g + a) 8 (ofInt 64 (sat64 (sv + ch.clampQ q * (2 ^ ch.scale : Nat))))
  s.count g 4 1

/-- Scan elements in ascending order from the entry's progress up to the one after the next emission (R215): at most one
event goes out in a cycle (R338), and an emission waits for allowance (R217). -/
def State.sduFrom (s : State) (g : CellId) (ch : Channel) (sc : Scan) (sent : Bool) :
    Nat → EngEntry → State × EngEntry × ScanEnd
  | 0, en => (s, en, .all)
  | n + 1, en =>
    let j := en.done
    let i := sc.first + j
    let a := ch.sbase + 8 * i
    let s := s.touch g a
    if s.engineClosed g a 8 then (s, en, .trap (engAccess a j 1))
    else
      let (x, fl) := ch.input (s.z g (ch.zb + i))
      if fl &&& en.fen != 0 then (s, { en with flags := en.flags ||| fl }, .trap (engFp (en.flags ||| fl) j))
      else
        let sv := toSigned 64 (s.read (tcmBase g + a) 8)
        let q := ch.quantise (ch.activate x - sv)
        if (ch.clampQ q).natAbs < sc.theta then
          s.sduFrom g ch sc sent n { en with done := j + 1, flags := en.flags ||| fl }
        else if sent then (s, en, .more)
        else if (s.cellAt g).allowEv = 0 then (s, en, .waits)
        else
          let s := s.emit g ch i sv q
          let cl := ch.clampQ q != q
          let s := if cl then s.clampChan g sc.chan else s
          s.sduFrom g ch sc true n { en with done := j + 1, flags := en.flags ||| fl, clamped := en.clamped || cl }

/-- The words that a scan will read, checked before anything is written or sent (R179). -/
def State.scanMarked (s : State) (g : CellId) (ch : Channel) (sc : Scan) (st : Nat) : Option Trap :=
  let js := (List.range sc.count).drop st
  match js.find? fun j => s.marked (zAddr g (ch.zb + sc.first + j)) with
  | some j => some (zTrap (ch.zb + sc.first + j))
  | none =>
    match js.find? fun j => s.marked (tcmBase g + ch.sbase + 8 * (sc.first + j)) with
    | some j => some ⟨.uncorrectable, BitVec.ofNat 64 (ch.sbase + 8 * (sc.first + j)), 0, 0, 0, 0⟩
    | none => none

/-- After the last element: the clamp bit goes to d3 of the descriptor in TCM (R215). A replay from element COUNT
makes the write again. -/
def State.scanClose (s : State) (g : CellId) (ch : Channel) (sc : Scan) (en : EngEntry) : EngResult :=
  let sticky := match (s.cellAt g).chan sc.chan with
    | some c => c.clamp
    | none => false
  if en.clamped || (decide (0 < en.st) && sticky) then
    let a := ch.addr + 24
    match s.engWrite g a 1 sc.count (s.read (tcmBase g + a) 1 / 2 * 2 + 1) with
    | .error t => (s, en.flags, some t)
    | .ok s' => (s', en.flags, none)
  else (s, en.flags, none)

/-- The SDU performs an entry and retires it, or goes on with it a cycle later, or waits for allowance (R214-R217,
R338). -/
def State.sduRetire (s : State) (g : CellId) (en : EngEntry) : State :=
  match en.instr with
  | .sdcfg .. =>
    let (s', fl, tr) := s.sdcfgPerform g en
    s'.engineDone g .sdu en fl tr
  | _ =>
    let bad : Trap := accessTrap (en.reg 1) 0
    match (s.cellAt g).chan (en.reg 0).toNat with
    | none => s.engineDone g .sdu en 0 (some bad)
    | some ch =>
      let sc := scanOf en ch
      if ch.nel < sc.first + sc.count then s.engineDone g .sdu en 0 (some bad)
      else
        match if en.done = 0 then s.scanMarked g ch sc en.st else none with
        | some t => s.engineDone g .sdu en 0 (some t)
        | none =>
          let en := { en with done := max en.done en.st }
          let (s, en, e) := s.sduFrom g ch sc false (sc.count - en.done) { en with waits := false }
          match e with
          | .trap t => (s.bankWait g).engineDone g .sdu en en.flags (some t)
          | .more => (s.setCell g ((s.cellAt g).setEntry .sdu en)).stillPending (.engineInstructionRetire g .sdu)
          | .waits => s.setCell g ((s.cellAt g).setEntry .sdu { en with waits := true })
          | .all =>
            let (s, fl, tr) := (s.bankWait g).scanClose g ch sc en
            s.engineDone g .sdu en fl tr

/-! ### Issue -/

/-- `SDCFG` (R214). -/
def execSdcfg (a b : WReg) (s : State) : Host.Outcome State Fault Refusal :=
  .next (if 7 < (s.w a).toNat then s.raise (accessTrap (s.w a) 0)
    else if (s.w b).toNat % 64 != 0 then s.raise ⟨.misaligned, s.w b, 64, 0, 0, 0⟩
    else if 0x7F000 < (s.w b).toNat + 1088 then s.raise (accessTrap (s.w b) 0)
    else if s.queueFull .sdu then s
    else s.enqueue .sdu (.sdcfg a b) [s.w a, s.w b] [] id)

/-- `SDSCAN` (R215). -/
def execSdscan (a b : WReg) (s : State) : Host.Outcome State Fault Refusal :=
  .next (if 7 < (s.w a).toNat then s.raise (accessTrap (s.w a) 0)
    else if (s.w b).toNat / 2 ^ 31 != 0 || (s.w b).toNat / 2 ^ 14 % 4 != 0 then
      s.raise (accessTrap (s.w b) 0)
    else if s.queueFull .sdu then s
    else s.enqueue .sdu (.sdscan a b) [s.w a, s.w b] [] id)

/-- `SDFLUSH` (R216). -/
def execSdflush (a : WReg) (s : State) : Host.Outcome State Fault Refusal :=
  .next (if 7 < (s.w a).toNat then s.raise (accessTrap (s.w a) 0)
    else if s.queueFull .sdu then s
    else s.enqueue .sdu (.sdflush a) [s.w a, 0] [] id)

end Sys2Proof.Machine
end

