-- ==== Sys2Proof/Machine/Barriers.lean ====
section
/-! DEFINITION. Barrier units: arrivals, pending bytes, waits and configuration (R48, R236-R239, R328). -/

namespace Sys2Proof

/-- The barrier that a wait names. -/
def Instr.waitsOn (b : Fin 8) : Instr → Bool
  | .waitb n | .waitbt n _ => n == b
  | _ => false

end Sys2Proof

namespace Sys2Proof.Machine

/-! ### The unit (R48, R236) -/

/-- A phase completes: EN, CUR = TARGET and PEND = 0 (R48). -/
def Barrier.due (u : Barrier) : Bool := u.en && u.cur == u.target && u.pend == 0

/-- What completion changes (R48, R236). -/
def Barrier.complete (u : Barrier) : Barrier :=
  { u with phase := !u.phase, cur := u.nxt, nxt := 0, acur := u.anxt, anxt := 0, completions := u.completions + 1 }

/-- The unit is judged: one phase completes in a cycle; one that the next phase's arrivals have filled already completes in
the cycle after (R238). -/
def Barrier.judge (u : Barrier) : Barrier := if u.due then u.complete else u

/-- The control word (R48). -/
def Barrier.control (u : Barrier) : Word :=
  BitVec.ofNat 64 (u.nxt % 64 * 2 ^ 25 + u.cur % 64 * 2 ^ 19 + u.phase.toNat * 2 ^ 18 + u.en.toNat * 2 ^ 17 +
    u.target % 64 * 2 ^ 11)

/-- The second doubleword (R236). -/
def Barrier.masks (u : Barrier) : Word :=
  BitVec.ofNat 64 (u.anxt.toNat * 2 ^ 32 + u.acur.toNat * 2 ^ 16 + u.mask.toNat)

/-- The limit of a `WAITBT` (R239). -/
def waitLimit (v : Word) : Nat := v.toNat % 2 ^ 32

/-- What a strand whose wait is over remembers, in place of the completions that it waits beyond. -/
def waitMet : Nat := 2 ^ 40

/-- The wait of a strand of a cell that began when the unit had completed `since` phases is over (R239). -/
def State.waitOver (s : State) (g : CellId) (b : Fin 8) (since : Nat) : Bool :=
  let u := (s.cellAt g).bars[b]
  if u.mask.getLsbD (inComb g) then !u.acur.getLsbD (inComb g) && !u.anxt.getLsbD (inComb g)
  else decide (since < u.completions)

/-- The strand is parked at a wait on the unit whose limit has not passed. -/
def Strand.waitsAt (t : Strand) (b : Fin 8) (now : Nat) : Bool :=
  match t.run with
  | .parked (.waitb n) => n == b
  | .parked (.waitbt n a) => n == b && decide (now ≤ t.since + waitLimit (t.w a))
  | _ => false

/-- A strand parked at the unit whose wait ends with the unit's change goes on, whatever happens to the unit before it does
(R239, R328). -/
def State.judgeWaiter (s : State) (g : CellId) (b : Fin 8) (k : StrandId) : State :=
  let t := s.strandAt g k
  if t.waitsAt b s.now && s.waitOver g b t.note then
    (s.setStrand g k { t with note := waitMet }).stillPending (.parkedStrandResume g k)
  else s

/-- The unit after a change that is not judged yet (R328). -/
def State.putBarrier (s : State) (g : CellId) (b : Fin 8) (u : Barrier) : State :=
  s.setCell g { s.cellAt g with bars := (s.cellAt g).bars.set b u }

/-- The unit judged after a change, with the strands parked at it looking again (R328). -/
def State.setBarrier (s : State) (g : CellId) (b : Fin 8) (u : Barrier) : State :=
  let c := s.cellAt g
  ([0, 1, 2, 3] : List StrandId).foldl (fun s k => s.judgeWaiter g b k) (s.setCell g { c with bars := c.bars.set b u.judge })

/-- A change of the unit: judged with it, or with the others of its cycle (R328). -/
def State.changeBarrier (s : State) (alone : Bool) (g : CellId) (b : Fin 8) (u : Barrier) : State :=
  if alone then s.setBarrier g b u else s.putBarrier g b u

/-- The units of a cell whose next phase is complete, judged in a new cycle (R238). -/
def State.judgeUnits (s : State) (g : CellId) : State :=
  ([0, 1, 2, 3, 4, 5, 6, 7] : List (Fin 8)).foldl (fun s b =>
    if ((s.cellAt g).bars[b]).due then s.setBarrier g b (s.cellAt g).bars[b] else s) s

/-- A copy completion takes its bytes off PEND (R185, R328). -/
def State.decrementPend (s : State) (alone : Bool) (g : CellId) (b : Fin 8) (n : Nat) : State :=
  let u := (s.cellAt g).bars[b]
  s.changeBarrier alone g b { u with pend := u.pend - BitVec.ofNat 64 n }

/-! ### Arrivals (R238) -/

/-- The checks of an arrival at a unit: EN and membership of the issuing cell (R238), a cell that is not fenced (R372). -/
def State.arriveCheck (s : State) (d : CellId) (b : Fin 8) : Except Trap Unit :=
  let u := (s.cellAt d).bars[b]
  if !u.en || !u.mask.getLsbD (inComb s.curCell) || (s.cellAt d).fenced then .error (accessTrap u.control 0) else .ok ()

/-- The cell of the comb that a register names (R238). -/
def State.arriveTarget (s : State) (v : Word) : Except Trap CellId :=
  let d := hiveOf s.curCell * 4096 + v.toNat
  if 2 ^ 12 ≤ v.toNat || combOf d != combOf s.curCell || !s.cellExists d then .error (accessTrap v 0) else .ok d

/-- An arrival sets out once every earlier access of the strand is performed; the strand stays at the instruction
until the unit has counted it (R238). -/
def State.arriveAt (s : State) (i : Instr) (target : Except Trap CellId) (b : Fin 8) (add : Option Word) : State :=
  if !s.fenced .comb then s
  else s.orRaise target fun d => s.orRaise (s.arriveCheck d b) fun _ =>
    (s.park i 0).push (.barrierArrival ⟨d, b, s.curCell, s.curStrand, add, s.now⟩)

/-- `ARRIVE bN` (R238). -/
def execArrive (b : Fin 8) (s : State) : Host.Outcome State Fault Refusal :=
  .next (s.arriveAt (.arrive b) (.ok s.curCell) b none)

/-- `ARRIVE bN, wa` (R238). -/
def execArriveRemote (b : Fin 8) (a : WReg) (s : State) : Host.Outcome State Fault Refusal :=
  .next (s.arriveAt (.arriveRemote b a) (s.arriveTarget (s.w a)) b none)

/-- `ARRIVEB bN, wb` (R238). -/
def execArriveb (b : Fin 8) (wb : WReg) (s : State) : Host.Outcome State Fault Refusal :=
  .next (s.arriveAt (.arriveb b wb) (.ok s.curCell) b (some (s.w wb)))

/-- `ARRIVEB bN, wb, wa` (R238). -/
def execArrivebRemote (b : Fin 8) (wb a : WReg) (s : State) : Host.Outcome State Fault Refusal :=
  .next (s.arriveAt (.arrivebRemote b wb a) (s.arriveTarget (s.w a)) b (some (s.w wb)))

/-- The strand is still at the instruction whose arrival this is; one that a trap has taken away from it leaves an arrival
that counts nowhere, and executes it anew (R238; log entry 35). -/
def Strand.arrivesAs (t : Strand) (a : Arrival) : Bool :=
  match t.run with
  | .parked (.arrive n) | .parked (.arriveRemote n _) | .parked (.arriveb n _) | .parked (.arrivebRemote n _ _) =>
    n == a.bar && t.since == a.at_
  | _ => false

/-- The unit with an arrival of a cell counted, or none when it overruns (R238). -/
def Barrier.arrive (u : Barrier) (c : Nat) (add : Option Word) : Option Barrier :=
  let u := { u with pend := u.pend + add.getD 0 }
  let bit : BitVec 16 := 1 <<< c
  if !u.acur.getLsbD c then some { u with acur := u.acur ||| bit, cur := u.cur + 1 }
  else if !u.anxt.getLsbD c then some { u with anxt := u.anxt ||| bit, nxt := u.nxt + 1 }
  else none

/-- The addition and the arrival together; a third arrival in a phase traps in the arriving strand and changes nothing
(R48, R238). A cell that has been fenced meanwhile takes none (R372). -/
def State.arrival (s : State) (alone : Bool) (a : Arrival) : State :=
  if !(s.strandAt a.src a.strand).arrivesAs a then s
  else if (s.cellAt a.unitCell).fenced then
    s.on a.src a.strand fun s => s.raise (accessTrap ((s.cellAt a.unitCell).bars[a.bar]).control 0)
  else
    let u := (s.cellAt a.unitCell).bars[a.bar]
    match u.arrive (inComb a.src) a.add with
    | some u' => (s.changeBarrier alone a.unitCell a.bar u').on a.src a.strand State.retire
    | none => s.on a.src a.strand fun s => s.raise
        ⟨.barrierOverrun, BitVec.ofNat 64 (lcidOf a.unitCell + a.bar.val * 2 ^ 12), BitVec.ofNat 64 u.phase.toNat, 0, 0, 0⟩

/-- BARRIER_ARRIVAL (R48, R238). -/
def execBarrierArrival (a : Arrival) (s : State) : Host.Outcome State Fault Refusal := .next (s.arrival true a)

/-! ### Waits (R239) -/

/-- `WAITB` (R239). Of a unit with EN = 0, TRAPVAL is the control word and the kind is 0 (DESIGN CHOICE, log entry 64). -/
def execWaitb (b : Fin 8) (s : State) : Host.Outcome State Fault Refusal :=
  .next (
    let u := s.cell.bars[b]
    if !u.en then s.raise (accessTrap u.control 0)
    else if s.waitOver s.curCell b u.completions then s.retire
    else s.park (.waitb b) u.completions)

/-- `WAITBT` (R239): it gives up `W[wa]<31:0>` cycles after issue. Of a unit with EN = 0 it traps as `WAITB` does (DESIGN
CHOICE, log entry 64). -/
def execWaitbt (b : Fin 8) (a : WReg) (s : State) : Host.Outcome State Fault Refusal :=
  .next (
    let u := s.cell.bars[b]
    if !u.en then s.raise (accessTrap u.control 0)
    else if s.waitOver s.curCell b u.completions then (s.setCf false).retire
    else (s.park (.waitbt b a) u.completions).push (.waitbtExpiry s.curCell s.curStrand))

/-- WAITBT_EXPIRY (R239): completion wins in the cycle of the expiry. -/
def execWaitbtExpiry (g : CellId) (k : StrandId) (s : State) : Host.Outcome State Fault Refusal :=
  .next (match (s.strandAt g k).run with
    | .parked (.waitbt _ a) =>
      if s.now < (s.strandAt g k).since + waitLimit ((s.strandAt g k).w a) then s.stillPending (.waitbtExpiry g k)
      else s.on g k fun s => (s.setCf (s.me.note != waitMet)).retire
    | _ => s)

/-! ### Configuration (R237) -/

/-- One bits of a mask. -/
def maskSize (m : BitVec 16) : Nat := popc 16 m.toNat

/-- A control word and a mask that `BCFG.set` refuses (R237). -/
def bcfgBad (ctl : Word) (m : BitVec 16) : Bool :=
  let target := ctl.toNat / 2 ^ 11 % 64
  (ctl.getLsbD 17 && target == 0) || decide (maskSize m < target)

/-- `BCFG.set` (R237): EN, TARGET, MASK and PEND from three doublewords; PHASE stays. -/
def execBcfgSet (b : Fin 8) (a : WReg) (s : State) : Host.Outcome State Fault Refusal :=
  .next (
    let addr := (s.w a).toNat
    if s.acquireWaits || s.rangeWaits addr 3 then s
    else s.orRaise (s.localCheck (.bcfgSet b a) addr 24 8 0) fun _ =>
      let at_ := tcmBase s.curCell + ownAddr s.curCell addr
      if s.rangeMarked at_ 24 then s.raise ⟨.uncorrectable, BitVec.ofNat 64 addr, 0, 0, 0, 0⟩
      else
        let ctl := BitVec.ofNat 64 (s.read at_ 8)
        let m := BitVec.ofNat 16 (s.read (at_ + 8) 2)
        if bcfgBad ctl m then s.raise (accessTrap ctl 0)
        else
          let u := s.cell.bars[b]
          ((s.touchRange s.curCell (ownAddr s.curCell addr) 24).setBarrier s.curCell b
            { u with nxt := 0, cur := 0, en := ctl.getLsbD 17, target := ctl.toNat / 2 ^ 11 % 64, anxt := 0, acur := 0,
                     mask := m, pend := BitVec.ofNat 64 (s.read (at_ + 16) 8) }).retire)

/-- `BCFG.get` (R237): the unit as it stands goes to three doublewords. -/
def execBcfgGet (b : Fin 8) (a : WReg) (s : State) : Host.Outcome State Fault Refusal :=
  .next (
    let addr := (s.w a).toNat
    if s.acquireWaits || s.rangeWaits addr 3 then s
    else s.orRaise (s.localCheck (.bcfgGet b a) addr 24 8 1) fun _ =>
      let off := ownAddr s.curCell addr
      let u := s.cell.bars[b]
      ((s.touchRange s.curCell off 24).writeTcmWords s.curCell off [u.control, u.masks, u.pend]).retire)

end Sys2Proof.Machine
end

