-- ==== Sys2Proof/Machine/Crypto.lean ====
section
/-! DEFINITION. SHAKE256 and pure Ed448 as the standards that the spec names define them (R380, R385, R386; FIPS 202 and
RFC 8032, log entry 20). -/

namespace Sys2Proof.Machine

/-! ### SHAKE256: the 1,600 bits as five sheets of 320, five lanes of 64 to a sheet, lane x of sheet y at bit 64x -/

/-- The same 64 bits in every lane of a sheet. -/
def everyLane (v : Word) : BitVec 320 := v ++ v ++ v ++ v ++ v

def sheet (a : BitVec 1600) (y : Nat) : BitVec 320 := a.extractLsb' (320 * y) 320

/-- Sheets 0 to 4 laid together. -/
def joinSheets (f : Nat → BitVec 320) : BitVec 1600 := f 4 ++ f 3 ++ f 2 ++ f 1 ++ f 0

/-- The step θ: every column takes the parity of the column at its left and that of the column at its right one bit up. -/
def spongeTheta (a : BitVec 1600) : BitVec 1600 :=
  let parity := sheet a 0 ^^^ sheet a 1 ^^^ sheet a 2 ^^^ sheet a 3 ^^^ sheet a 4
  let right := parity.rotateRight 64
  let turned := ((right &&& everyLane 0x7FFFFFFFFFFFFFFF) <<< 1) ||| ((right >>> 63) &&& everyLane 1)
  let d := parity.rotateLeft 64 ^^^ turned
  a ^^^ joinSheets fun _ => d

/-- The steps ρ and π together: `n` lanes of the walk from (x, y) go to the next place of the walk, turned by the sum of the
numbers up to their place `t` in it. -/
def spongeWalk (a : BitVec 1600) : Nat → Nat → Nat → Nat → BitVec 1600 → BitVec 1600
  | 0, _, _, _, out => out
  | n + 1, t, x, y, out =>
    let x' := y
    let y' := (2 * x + 3 * y) % 5
    let v : Word := (a.extractLsb' (320 * y + 64 * x) 64).rotateLeft (t * (t + 1) / 2 % 64)
    spongeWalk a n (t + 1) x' y' (out ||| (v.setWidth 1600 <<< (320 * y' + 64 * x')))

/-- The step χ on one sheet. -/
def spongeChi (p : BitVec 320) : BitVec 320 := p ^^^ (~~~p.rotateRight 64 &&& p.rotateRight 128)

/-- The shift register of the step ι: its low bit, `n` clocks on from `r`. -/
def spongeClock : Nat → Nat → Nat
  | 0, r => r
  | n + 1, r => spongeClock n (if r < 128 then 2 * r else Nat.xor (2 * r) 0x171)

/-- The constant of round `i`: bit 2^j - 1 is the register's low bit at clock j + 7i. -/
def spongeIota (i : Nat) : Nat :=
  (List.range 7).foldl (fun v j => v + spongeClock (j + 7 * i) 1 % 2 * 2 ^ (2 ^ j - 1)) 0

def spongeRound (a : BitVec 1600) (i : Nat) : BitVec 1600 :=
  let b := spongeTheta a
  let c := spongeWalk b 24 1 1 0 (b.extractLsb' 0 64 |>.setWidth 1600)
  joinSheets (fun y => spongeChi (sheet c y)) ^^^ BitVec.ofNat 1600 (spongeIota i)

def spongePermute (a : BitVec 1600) : BitVec 1600 := (List.range 24).foldl spongeRound a

/-- Take up `n` blocks of 136 bytes. -/
def spongeTake (a : BitVec 1600) (l : List Byte) : Nat → BitVec 1600
  | 0 => a
  | n + 1 => spongeTake (spongePermute (a ^^^ BitVec.ofNat 1600 (ofBytes (l.take 136)))) (l.drop 136) n

/-- Give `n` bytes, for `k` blocks at least. -/
def spongeGive (a : BitVec 1600) (n : Nat) : Nat → List Byte
  | 0 => []
  | k + 1 => toBytes a.toNat (min n 136) ++ spongeGive (spongePermute a) (n - 136) k

/-- SHAKE256 of a byte string, `n` bytes long: bits 1111 and then 1 0…0 1 fill the last block of 136 bytes. -/
def shake256 (l : List Byte) (n : Nat) : List Byte :=
  let k := l.length / 136 + 1
  let filled := l ++ toBytes (0x1F + 2 ^ (8 * (136 * k - l.length) - 1)) (136 * k - l.length)
  spongeGive (spongeTake 0 filled k) n ((n + 135) / 136)

/-! ### Ed448 -/

/-- The field's prime and the order of the base point. -/
def edPrime : Nat := 2 ^ 448 - 2 ^ 224 - 1
def edOrder : Nat := 2 ^ 446 - 13818066809895115352007386748515426880336692474882178609894547503885

def edNeg (a : Nat) : Nat := (edPrime - a % edPrime) % edPrime

/-- A point in projective coordinates. -/
structure EdPoint where
  x : Nat
  y : Nat
  z : Nat
  deriving DecidableEq, Repr

def EdPoint.base : EdPoint where
  x := 224580040295924300187604334099896036246789641632564134246125461686950415467406032909029192869357953282578032075146446173674602635247710
  y := 298819210078481492676017930443930673437544040154080242095928241372331506189835876003536878655418784733982303233503462500531545062832660
  z := 1

def EdPoint.zero : EdPoint := ⟨0, 1, 1⟩

/-- The sum of two points of x² + y² = 1 - 39081 x² y². -/
def EdPoint.add (p q : EdPoint) : EdPoint :=
  let m (a b : Nat) : Nat := a * b % edPrime
  let a := m p.z q.z
  let b := m a a
  let c := m p.x q.x
  let d := m p.y q.y
  let e := edNeg (39081 * m c d)
  let f := b + edNeg e
  let g := b + e
  let h := m (p.x + p.y) (q.x + q.y)
  ⟨m (m a f) (h + edNeg c + edNeg d), m (m a g) (d + edNeg c), m f g⟩

/-- `n` times a point, for `n` below 2 ^ `k`. -/
def EdPoint.times (p : EdPoint) : Nat → Nat → EdPoint
  | 0, _ => EdPoint.zero
  | k + 1, n =>
    let q := EdPoint.times p k (n / 2)
    if n % 2 = 1 then (q.add q).add p else q.add q

def edPower (b : Nat) : Nat → Nat → Nat → Nat
  | 0, _, acc => acc
  | k + 1, e, acc => edPower (b * b % edPrime) k (e / 2) (if e % 2 = 1 then acc * b % edPrime else acc)

/-- A power in the field, for an exponent below 2 ^ 448. -/
def edPow (b e : Nat) : Nat := edPower (b % edPrime) 448 e 1

def edInv (a : Nat) : Nat := edPow a (edPrime - 2)

/-- Two points are one. -/
def EdPoint.same (p q : EdPoint) : Bool :=
  p.x * q.z % edPrime == q.x * p.z % edPrime && p.y * q.z % edPrime == q.y * p.z % edPrime

/-- A point as 57 bytes. -/
def EdPoint.encode (p : EdPoint) : List Byte :=
  let i := edInv p.z
  toBytes (p.y * i % edPrime + p.x * i % edPrime % 2 * 2 ^ 455) 57

/-- The point of 57 bytes, if there is one. -/
def edDecode (l : List Byte) : Option EdPoint :=
  let v := ofBytes l
  let y := v % 2 ^ 455
  let sign := v / 2 ^ 455 % 2
  let u := (y * y + edPrime - 1) % edPrime
  let w := (edNeg (39081 * (y * y % edPrime)) + edPrime - 1) % edPrime
  let u3 := u * u % edPrime * u % edPrime
  let x := u3 * w % edPrime * edPow (u3 * u % edPrime * u % edPrime * (w * w % edPrime * w % edPrime)) ((edPrime - 3) / 4) % edPrime
  if l.length != 57 || decide (edPrime ≤ y) || w * (x * x % edPrime) % edPrime != u || (x == 0 && sign == 1) then none
  else some ⟨if x % 2 = sign then x else edNeg x, y, 1⟩

/-- The prefix of the hashes of pure Ed448 with an empty context. -/
def edDom : List Byte := [0x53, 0x69, 0x67, 0x45, 0x64, 0x34, 0x34, 0x38, 0, 0]

/-- A hash as a number. -/
def edHash (l : List Byte) : Nat := ofBytes (shake256 (edDom ++ l) 114) % edOrder

/-- The secret scalar and the prefix of a 57-byte seed. -/
def edSecret (seed : List Byte) : Nat × List Byte :=
  let h := shake256 seed 114
  (ofBytes (h.take 57) % 2 ^ 447 / 4 * 4 + 2 ^ 447, h.drop 57)

/-- The public key of a seed. -/
def edPublic (seed : List Byte) : List Byte := (EdPoint.base.times 448 (edSecret seed).1).encode

/-- The signature of a message. -/
def edSign (seed msg : List Byte) : List Byte :=
  let (a, pre) := edSecret seed
  let r := edHash (pre ++ msg)
  let rb := (EdPoint.base.times 448 r).encode
  rb ++ toBytes ((r + edHash (rb ++ edPublic seed ++ msg) * a) % edOrder) 57

/-- The signature of 114 bytes verifies. -/
def edVerify (key msg sig : List Byte) : Bool :=
  match edDecode key, edDecode (sig.take 57) with
  | some a, some r =>
    let n := ofBytes (sig.drop 57)
    let k := edHash (sig.take 57 ++ key ++ msg)
    sig.length == 114 && decide (n < edOrder) &&
      ((EdPoint.base.times 448 n).times 3 4).same ((r.add (a.times 448 k)).times 3 4)
  | _, _ => false

end Sys2Proof.Machine
end

