-- ==== Sys2Proof/Machine/Forager.lean ====
section
/-! DEFINITION. The forager's copies and streams (R22, R182-R191, R324-R327). -/

namespace Sys2Proof

/-- A copy and the earlier copy that it follows (R185). -/
def Instr.isCopy : Instr → Bool
  | .push .. | .pushx .. => true
  | _ => false

end Sys2Proof

namespace Sys2Proof.Machine

/-! ### The copy word and the address kinds (R182, R183) -/

def copyLen (w : Word) : Nat := w.toNat % 2 ^ 20
def copyTag (w : Word) : Nat := w.toNat / 2 ^ 20 % 2 ^ 16
def copySlot (w : Word) : Nat := w.toNat / 2 ^ 36 % 64
def copyNomb (w : Word) : Bool := w.getLsbD 42

/-- Check 1 of R183. -/
def copyWordBad (w : Word) : Bool :=
  w.toNat / 2 ^ 43 != 0 || copyLen w % 8 != 0 || copyLen w == 0 || decide (524288 < copyLen w)

/-- The cell and offset that a TCM window address of a hive names. -/
def State.windowCell (s : State) (hive a : Nat) : Option (CellId × Nat) :=
  if tcmWindow ≤ a && a < tcmWindow + 2 ^ 32 then
    let o := a - tcmWindow
    let d := hive * 4096 + o / 2 ^ 20
    if s.cellExists d then some (d, o % 2 ^ 20) else none
  else none

/-- A `PUSH` source lies in its kind (R183); in supervisor mode a range may pass from below 0x7_F000 into the slot table
(DESIGN CHOICE, log entry 51). -/
def State.pushSource (s : State) (a n : Nat) : Bool :=
  let off := ownAddr s.curCell a
  if off < 0x80000 then decide (off + n ≤ (if s.me.sv then 0x80000 else 0x7F000))
  else decide (2 ^ 20 ≤ a) && decide (a + n ≤ 2 ^ 57)

/-- A `PUSHX` source lies in its kind (R183). -/
def State.pushxSource (s : State) (a n : Nat) : Bool :=
  match s.windowCell (hiveOf s.curCell) a with
  | some (d, off) => d != s.curCell && decide (off + n ≤ 0x7F000)
  | none => false

/-- A destination in TCM (R183). -/
def State.copyDest (s : State) (a n : Nat) : Option CopyDest :=
  if a < 0x80000 then (if a + n ≤ 0x80000 then some (.tcm s.curCell a) else none)
  else match s.windowCell (hiveOf s.curCell) a with
    | some (d, off) => if off + n ≤ 0x80000 then some (.tcm d off) else none
    | none => none

/-- A `PUSH` destination: the FIFO addresses are exact (R183, R188). -/
def State.pushDest (s : State) (a n : Nat) : Option CopyDest :=
  if a = 0xA0000 then some .fifoA else if a = 0xA1000 then some .fifoB else s.copyDest a n

/-- The checks of R183 in order; within one of them the source comes before the destination (DESIGN CHOICE, log entry 80). -/
def State.copyCheck (s : State) (x : Bool) (src w dst : Word) : Except Trap Unit :=
  let n := copyLen w
  if copyWordBad w then .error (accessTrap w 0)
  else if src.toNat % 8 != 0 then .error ⟨.misaligned, src, 8, 0, 0, 0⟩
  else if dst.toNat % 8 != 0 then .error ⟨.misaligned, dst, 8, 0, 0, 0⟩
  else if !(if x then s.pushxSource src.toNat n else s.pushSource src.toNat n) then .error (accessTrap src 0)
  else if (if x then s.copyDest dst.toNat n else s.pushDest dst.toNat n).isNone then .error (accessTrap dst 1)
  else .ok ()

/-- Issue a copy (R182, R183). -/
def State.issueCopy (s : State) (i : Instr) (x : Bool) (d a b : WReg) : State :=
  s.orRaise (s.copyCheck x (s.w a) (s.w b) (s.w d)) fun _ =>
    if s.queueFull .forager then s else s.enqueue .forager i [s.w d, s.w a, s.w b] [] id

/-- `PUSH` (R182). -/
def execPush (d a b : WReg) (bar : Option (Fin 8)) (s : State) : Host.Outcome State Fault Refusal :=
  .next (s.issueCopy (.push d a b bar) false d a b)

/-- `PUSHX` (R182). -/
def execPushx (d a b : WReg) (bar : Option (Fin 8)) (s : State) : Host.Outcome State Fault Refusal :=
  .next (s.issueCopy (.pushx d a b bar) true d a b)

/-! ### Copies in progress (R184-R187, R325, R327) -/

/-- The cell whose TCM, FIFO, mailbox and barrier a copy concerns (R185, R188). -/
def Copy.destCell (c : Copy) : CellId :=
  match c.dest with
  | .tcm g _ => g
  | _ => c.issuer

/-- An earlier copy of the issuer to the same cell, at a stage before `p`, comes first (R185). -/
def State.copyBehind (s : State) (c : Copy) (p : CopyStage → Bool) : Bool :=
  s.copies.any fun o => decide (o.id < c.id) && o.issuer == c.issuer && o.destCell == c.destCell && p o.stage

def CopyStage.unwritten : CopyStage → Bool
  | .forwarded | .moving => true
  | _ => false
def CopyStage.uncompleted : CopyStage → Bool
  | .completed => false
  | _ => true

def State.copy? (s : State) (id : Nat) : Option Copy := s.copies.find? fun c => c.id == id
def Copy.replace (c : Copy) : List Copy → List Copy
  | [] => []
  | o :: r => if o.id = c.id then c :: r else o :: c.replace r
def State.setCopy (s : State) (c : Copy) : State := { s with copies := c.replace s.copies }

/-- The queue entry of a copy. -/
def State.copyEntry (s : State) (c : Copy) : Option EngEntry :=
  (s.cellAt c.issuer).fgQ.find? fun e => e.id == c.entry

/-- A started entry of the forager still reads its source (R177, R325). -/
def State.entryReads (s : State) (g : CellId) (e : EngEntry) : Bool :=
  e.started && match e.instr with
    | .push .. => s.copies.any fun c => c.issuer == g && c.entry == e.id && c.stage.unwritten
    | .pushx .. => false
    | _ => true

/-- The forager may start its next instruction (R177, R325). -/
def State.foragerIdle (s : State) (g : CellId) : Bool := (s.cellAt g).fgQ.all fun e => !s.entryReads g e

/-- The forager looks at its queue again. -/
def State.foragerNext (s : State) (g : CellId) : State :=
  if (s.cellAt g).fgQ.any (fun e => !e.started) then s.stillPending (.engineInstructionStart g .forager) else s

/-- The first unmapped page of a virtual source, as the first address of the range in it (R184); a page of another
hive traps `ACCESS` there (R251). -/
def State.sourceTrap (s : State) (g : CellId) (a n : Nat) : Option Trap :=
  let starts := a :: (List.range ((a + n - 1) / 2 ^ 16 - a / 2 ^ 16)).map fun k => (a / 2 ^ 16 + k + 1) * 2 ^ 16
  starts.findSome? fun x => match s.place g x with
    | .virt .. => none
    | .unmapped _ => some ⟨.pageFault, BitVec.ofNat 64 x, 0, 0, 0, 0⟩
    | _ => some (accessTrap (BitVec.ofNat 64 x) 0)

/-- The first doubleword of a TCM source that lies in a bound workspace or a gated bank (R184); the record of the trap names
its address (DESIGN CHOICE, log entry 52). -/
def State.sourceClosed (s : State) (g : CellId) (off n : Nat) : Option Nat :=
  if !(s.cellAt g).closed off n then none
  else ((List.range (n / 8)).find? fun k => (s.cellAt g).closed (off + 8 * k) 8).map fun k => off + 8 * k

/-- The number of the source word a copy is at, as the program named it. -/
def Copy.srcName (c : Copy) (a : Nat) : Nat :=
  if c.proxied then tcmWindow + lcidOf c.reader * 2 ^ 20 + a else a

/-- A trap of a copy in stream: its instruction is gone from the queue (R179, R184). -/
def State.copyTrap (s : State) (c : Copy) (t : Trap) : State :=
  let s := { s.countAbsorbed c.destCell with copies := s.copies.filter fun o => o.id != c.id }
  let r := s.cellAt c.reader
  let s := s.setCell c.reader { r with proxies := r.proxies.filter (· != c.id) }
  match s.copyEntry c with
  | some e => (s.engineDone c.issuer .forager e 0 (some t)).foragerNext c.issuer
  | none => s

/-- The copy that an entry asks for. -/
def State.newCopy (s : State) (g : CellId) (e : EngEntry) (x : Bool) (bar : Option (Fin 8)) : Copy :=
  let src := (e.reg 1).toNat
  let w := e.reg 2
  let t := s.at g e.strand
  let dest := (if x then t.copyDest (e.reg 0).toNat (copyLen w) else t.pushDest (e.reg 0).toNat (copyLen w)).getD .fifoA
  let reader := if x then ((s.windowCell (hiveOf g) src).map (·.1)).getD g else g
  { id := s.nextId, issuer := g, entry := e.id, strand := e.strand, reader := reader, proxied := x,
    src := if x then (src - tcmWindow) % 2 ^ 20 else ownAddr g src, dest := dest, len := copyLen w, word := w, bar := bar,
    pos := 0, refused := false, stage := if x then .forwarded else .moving }

/-- A `PUSH` starts: its checks, then its blocks move (R184). A `PUSHX` is forwarded (R325). -/
def State.startCopy (s : State) (g : CellId) (e : EngEntry) (x : Bool) (bar : Option (Fin 8)) : State :=
  let c := s.newCopy g e x bar
  let s := { s.countSent g with nextId := s.nextId + 1, copies := s.copies ++ [c] }
  if x then (s.push (.pushxProxyEntry c.id)).foragerNext g
  else if c.src < 0x80000 then
    match s.sourceClosed g c.src c.len with
    | some a => s.copyTrap c (accessTrap (BitVec.ofNat 64 (c.srcName a)) 0)
    | none => s.push (.copyBlockWrite c.id)
  else match s.sourceTrap g c.src c.len with
    | some t => s.copyTrap c t
    | none => s.push (.copyBlockWrite c.id)

/-- The permission mask of the source cell lets the issuer copy from it (R37, R184). -/
def State.pushAllowed (s : State) (src issuer : CellId) : Bool :=
  let m := (s.cellAt src).pmask
  (m.getLsbD (inComb issuer) && combOf src == combOf issuer) ||
    (m.getLsbD 16 && src / 256 == issuer / 256) || (m.getLsbD 17 && hiveOf src == hiveOf issuer)

/-- An earlier copy that the issuer has forwarded to the same source cell has still to enter its list (R325, R342). -/
def State.forwardBehind (s : State) (c : Copy) : Bool :=
  s.copies.any fun o => decide (o.id < c.id) && o.issuer == c.issuer && o.reader == c.reader && o.stage == .forwarded

/-- PUSHX_PROXY_ENTRY (R184, R325): the forwarded copy enters the source forager's list of four and is checked; it
waits while the list is full, and behind the copies that its issuer has forwarded there before. -/
def execPushxProxyEntry (id : Nat) (s : State) : Host.Outcome State Fault Refusal :=
  .next (match s.copy? id with
    | none => s
    | some c =>
      let r := s.cellAt c.reader
      if c.stage != .forwarded then s
      else if r.fenced then s.copyTrap c (accessTrap (BitVec.ofNat 64 (c.srcName c.src)) 0)
      else if decide (4 ≤ r.proxies.length) || s.forwardBehind c then s.stillPending (.pushxProxyEntry id)
      else if !s.pushAllowed c.reader c.issuer then
        s.copyTrap c ⟨.permissionMask, BitVec.ofNat 64 (lcidOf c.reader), BitVec.ofNat 64 (lcidOf c.issuer), 0, 0, 0⟩
      else match s.sourceClosed c.reader c.src c.len with
        | some a => s.copyTrap c (accessTrap (BitVec.ofNat 64 (c.srcName a)) 0)
        | none =>
          let s := s.setCell c.reader { r with proxies := r.proxies ++ [id] }
          (s.setCopy { c with stage := .moving }).push (.copyBlockWrite id))

/-- The destination range cannot be written: a bound workspace, a gated bank, the slot table (R16, R184), or a fenced
cell (R372). It is tested before any byte moves. -/
def State.destClosed (s : State) (c : Copy) : Bool :=
  match c.dest with
  | .tcm g off => decide (0x7F000 < off + c.len) || (s.cellAt g).closed off c.len || (s.cellAt g).fenced
  | _ => false

/-- The destination cell has been fenced, and nothing more is written (R372). -/
def State.destFenced (s : State) (c : Copy) : Bool :=
  match c.dest with
  | .tcm g _ => g != c.issuer && (s.cellAt g).fenced
  | _ => false

/-- Space in a FIFO (R202). -/
def Cell.fifoSpace (c : Cell) (d : CopyDest) : Nat :=
  match d with
  | .fifoA => 8192 - c.fifoA.length
  | .fifoB => 16384 - c.fifoB.length
  | .tcm .. => 0

/-- Append to a FIFO: an SCE instruction that waits for bytes looks again (R202, R332). -/
def State.fifoAppend (s : State) (g : CellId) (b : Bool) (l : List Byte) : State :=
  let c := s.cellAt g
  let c := if b then { c with fifoB := c.fifoB ++ l } else { c with fifoA := c.fifoA ++ l }
  let s := s.setCell g c
  if c.sceQ.any (fun e => !e.started) then s.stillPending (.engineInstructionStart g .sce) else s

/-- Read `n` source words of a copy from `a`, up to the first that is uncorrectable (R184). -/
def State.copyRead (s : State) (c : Copy) (a : Nat) : Nat → Except Trap (List Byte) × State
  | 0 => (.ok [], s)
  | n + 1 =>
    let pl := if c.src < 0x80000 then Place.tcm c.reader a else s.place c.issuer a
    match s.performRead c.issuer pl (c.srcName a) 8 with
    | (.error t, s) => (.error t, s)
    | (.ok v, s) =>
      match s.copyRead c (a + 8) n with
      | (.error t, s) => (.error t, s)
      | (.ok l, s) => (.ok (toBytes v 8 ++ l), s)

/-- Write a block where the copy goes. -/
def State.copyWrite (s : State) (c : Copy) (l : List Byte) : State :=
  match c.dest with
  | .tcm g off => (s.touch g (off + c.pos)).writeBytes (tcmBase g + off + c.pos) l
  | .fifoA => s.fifoAppend c.issuer false l
  | .fifoB => s.fifoAppend c.issuer true l

/-- Every byte has been read and written: the reader is free for other work, and the completion follows (R177, R185,
R325). -/
def State.copyWritten (s : State) (c : Copy) : State :=
  let s := (s.setCopy { c with stage := .written }).push (.copyCompletion c.id)
  if c.proxied then
    let r := s.cellAt c.reader
    let rest := r.proxies.filter (· != c.id)
    let s := s.setCell c.reader { r with proxies := rest }
    let s := match rest.head? with
      | some h => s.stillPending (.copyBlockWrite h)
      | none => s
    s.copies.foldl (fun s o => if o.stage = .forwarded ∧ o.reader = c.reader then s.stillPending (.pushxProxyEntry o.id)
      else s) s
  else s.foragerNext c.issuer

/-- A bank of the next `n` bytes of a copy is being zeroed, and they wait (R272). -/
def State.copyHeld (s : State) (c : Copy) (n : Nat) : Bool :=
  (decide (c.src < 0x80000) && (s.cellAt c.reader).meetsZeroing (c.src + c.pos) n) ||
    match c.dest with
    | .tcm g off => (s.cellAt g).meetsZeroing (off + c.pos) n
    | _ => false

/-- One of the words from `a` on that a copy would read waits for a super (R286). -/
def State.copyPageWaits (s : State) (c : Copy) (a n : Nat) : Bool :=
  decide (0x80000 ≤ c.src) && s.readsWait c.issuer 8 a (n / 8)

/-- The bytes of a copy that move at once: up to a boundary of `size` bytes, but a whole block of 64 into a FIFO (R187,
R188, R252). -/
def Copy.step (c : Copy) (size : Nat) : Nat :=
  let size := match c.dest with
    | .tcm .. => size
    | .fifoA | .fifoB => 64
  min (size - c.pos % size) (c.len - c.pos)

/-- The next bytes of a copy, up to a boundary of `size` bytes: in ascending order, after every earlier copy to the same
cell, and when a FIFO has space. -/
def State.copyStep (s : State) (id size : Nat) : State :=
  match s.copy? id with
    | none => s
    | some c =>
      let n := c.step size
      let again := s.stillPending (.copyBlockWrite id)
      if c.stage != .moving then s
      else if c.proxied && (s.cellAt c.reader).fenced then
        s.copyTrap c (accessTrap (BitVec.ofNat 64 (c.srcName c.src)) 0)
      else if s.copyBehind c CopyStage.unwritten then again
      else if (c.proxied && (s.cellAt c.reader).proxies.head? != some id) || s.copyHeld c n ||
          s.copyPageWaits c (c.src + c.pos) n then again
      else if (c.pos = 0 && s.destClosed c) || s.destFenced c then s.copyWritten { c with refused := true }
      else if (c.dest == .fifoA || c.dest == .fifoB) && decide ((s.cellAt c.issuer).fifoSpace c.dest < n) then again
      else
        match s.copyRead c (c.src + c.pos) (n / 8) with
        | (.error t, s) => s.copyTrap c t
        | (.ok l, s) =>
          let s := (s.count c.reader 3 n).copyWrite c l
          let c := { c with pos := c.pos + n }
          if c.pos = c.len then s.copyWritten c else (s.setCopy c).push (.copyBlockWrite id)

/-- COPY_BLOCK_WRITE (R184-R188, R325, R327): the next block of up to 64 bytes. -/
def execCopyBlockWrite (id : Nat) (s : State) : Host.Outcome State Fault Refusal := .next (s.copyStep id 64)

/-- The mailbox entry of a copy (R49, R185). -/
def Copy.entryWord (c : Copy) : Word :=
  BitVec.ofNat 64 (copyTag c.word + copySlot c.word * 2 ^ 16 + (if c.refused then 0x06 else 0) * 2 ^ 22 + c.len * 2 ^ 28)

/-- The mailbox entry of a copy and its decrement of PEND, after those of earlier copies of the issuer to the same cell (R185,
R329). -/
def State.completion (s : State) (alone : Bool) (id : Nat) : State :=
  match s.copy? id with
  | none => s
  | some c =>
    if c.stage != .written then s
    else if s.copyBehind c CopyStage.uncompleted then s.stillPending (.copyCompletion id)
    else
      let s := s.countAbsorbed c.destCell
      let s := if copyNomb c.word then s else s.mail c.destCell c.entryWord
      let s := match c.bar with
        | some b => s.decrementPend alone c.destCell b c.len
        | none => s
      (s.setCopy { c with stage := .completed }).push (.copyRetirement id)

/-- COPY_COMPLETION (R185, R329). -/
def execCopyCompletion (id : Nat) (s : State) : Host.Outcome State Fault Refusal := .next (s.completion true id)

/-- COPY_RETIREMENT (R185, R187): the instruction retires and its entry frees. -/
def execCopyRetirement (id : Nat) (s : State) : Host.Outcome State Fault Refusal :=
  .next (match s.copy? id with
    | none => s
    | some c =>
      if c.stage != .completed then s
      else
        let e := s.copyEntry c
        let s := { s with copies := s.copies.filter fun o => o.id != id }
        match e with
        | some e => (s.engineDone c.issuer .forager e 0 none).foragerNext c.issuer
        | none => s)

/-! ### Streams (R22, R189-R191, R326) -/

def streamBound (w : Word) : Bool := w.getLsbD 63
def streamEw (w : Word) : Nat := w.toNat / 2 ^ 61 % 4
def streamSigned (w : Word) : Bool := w.getLsbD 60
def streamLeft (w : Word) : Nat := w.toNat / 2 ^ 32 % 2 ^ 24
def streamSid (w : Word) : Nat := w.toNat / 2 ^ 24 % 256

/-- The descriptor of a bound stream (R22). -/
def streamWord (ew : Nat) (sgn : Bool) (left sid : Nat) : Word :=
  BitVec.ofNat 64 (2 ^ 63 + ew % 4 * 2 ^ 61 + sgn.toNat * 2 ^ 60 + left % 2 ^ 24 * 2 ^ 32 + sid % 256 * 2 ^ 24)

/-- Unbind a stream register (R190). -/
def State.unbind (s : State) (n : Fin 4) : State :=
  let w := s.me.stream n
  if streamBound w then
    let c := s.cell
    (s.setCur { c with streams := c.streams.filter fun x => x.sid != streamSid w }).setMe (s.me.setStream n 0)
  else s

/-- A stream source lies in its kind (R189). -/
def streamSource (a n : Nat) : Bool :=
  if a < 0x7F000 then decide (a + n ≤ 0x7F000) else decide (2 ^ 20 ≤ a) && decide (a + n ≤ 2 ^ 57)

/-- The context that an `SBIND` takes: the lowest free one of the cell's 32 (R189; DESIGN CHOICE, log entry 53). -/
def Cell.freeStream (c : Cell) : Option Nat := (List.range 32).find? fun n => c.streams.all fun x => x.sid != n

/-- A page of the range has its home in another hive (R251). -/
def State.reachesAway (s : State) (a n : Nat) : Bool :=
  (a :: (List.range ((a + n - 1) / 2 ^ 16 - a / 2 ^ 16)).map fun k => (a / 2 ^ 16 + k + 1) * 2 ^ 16).any fun x =>
    match s.place s.curCell x with
    | .away .. => true
    | _ => false

/-- `SBIND` (R189): a source away from its home traps `ACCESS` (R251). -/
def execSbind (w : Fmt) (n : Fin 4) (a b : WReg) (s : State) : Host.Outcome State Fault Refusal :=
  .next (
    let e := widthBytes w
    let addr := (s.w a).toNat
    let count := (s.w b).toNat
    if count = 0 || 2 ^ 24 ≤ count then s.raise (accessTrap (s.w b) 0)
    else if addr % e != 0 then s.raise ⟨.misaligned, s.w a, BitVec.ofNat 64 e, 0, 0, 0⟩
    else if !streamSource addr (count * e) || s.reachesAway addr (count * e) then s.raise (accessTrap (s.w a) 0)
    else
      let s := s.unbind n
      match s.cell.freeStream with
      | none => s.raise (accessTrap (s.w a) 0)
      | some sid =>
        let c := s.cell
        let s := s.setCur { c with streams := c.streams ++ [⟨sid, s.me.fid, addr, w.code % 4, count, [], none⟩] }
        let s := s.setMe (s.me.setStream n (streamWord (w.code % 4) (!isUnsignedInt w) count sid))
        (s.push (.streamBlockArrival s.curCell sid)).retire)

/-- `SUNBIND` (R190). -/
def execSunbind (n : Fin 4) (s : State) : Host.Outcome State Fault Refusal := .next (s.unbind n).retire

/-- One element of a stream source, or its fault (R189). -/
def State.streamElement (s : State) (g : CellId) (a e : Nat) : Except Trap Word × State :=
  match s.check g false 0 a e 0 with
  | .error t => (.error { t with eng := 3 }, s)
  | .ok pl =>
    match s.performRead g pl a e with
    | (.error t, s) => (.error { t with eng := 3 }, s)
    | (.ok v, s) => (.ok (BitVec.ofNat 64 v), s)

/-- Elements from `a`, at most `n` of them. -/
def State.streamElements (s : State) (g : CellId) (a e : Nat) : Nat → List (Nat × Except Trap Word) × State
  | 0 => ([], s)
  | n + 1 =>
    let (v, s) := s.streamElement g a e
    let (r, s) := s.streamElements g (a + e) e n
    ((a, v) :: r, s)

/-- Bytes free in a context's buffer of 256 (R326). -/
def Stream.free (x : Stream) : Nat := 256 - x.buffer.length * 2 ^ x.ew

/-- The stream can read on: its buffer has 64 bytes free, or the block that it reads has its room already (R324, R326). -/
def Stream.reads (x : Stream) : Bool := x.left != 0 && (decide (64 ≤ x.free) || x.block == some (x.next / 64))

/-- The elements of a stream up to the next boundary of `size` bytes; FGREAD counts a block when its read begins (R339). -/
def State.streamStep (s : State) (g : CellId) (sid size : Nat) : State :=
    let c := s.cellAt g
    match c.streams.find? fun x => x.sid == sid with
    | none => s
    | some x =>
      if !x.reads then s
      else
        let e := 2 ^ x.ew
        let n := min x.left ((size - x.next % size) / e)
        if s.readsWait g e x.next n then s.stillPending (.streamBlockArrival g sid) else
        let (l, s) := s.streamElements g x.next e n
        let s := if x.block = some (x.next / 64) then s else s.count g 3 64
        let c := s.cellAt g
        let x := { x with next := x.next + n * e, left := x.left - n, buffer := x.buffer ++ l, block := some (x.next / 64) }
        let s := s.setCell g { c with streams := c.streams.map fun y => if y.sid = sid then x else y }
        if x.reads then s.stillPending (.streamBlockArrival g sid) else s

/-- STREAM_BLOCK_ARRIVAL (R189, R324, R326): the rest of the aligned 64-byte block that holds the next element to fetch. -/
def execStreamBlockArrival (g : CellId) (sid : Nat) (s : State) : Host.Outcome State Fault Refusal := .next (s.streamStep g sid 64)

/-- Replace a context of the current cell. -/
def State.setStream (s : State) (x : Stream) : State :=
  let c := s.cell
  s.setCur { c with streams := c.streams.map fun y => if y.sid = x.sid then x else y }

/-- An element extended as its descriptor says (R22). -/
def streamExtend (w v : Word) : Word :=
  let n := 8 * 2 ^ streamEw w
  if streamSigned w then sext n v.toNat else zext n v.toNat

/-- `SRD` (R191): it stalls while no element has arrived; a fault leaves the element to be read again. -/
def execSrd (d : WReg) (n : Fin 4) (s : State) : Host.Outcome State Fault Refusal :=
  .next (
    let w := s.me.stream n
    let trap (aux : Word) : State := s.raise ⟨.streamUnbound, BitVec.ofNat 64 n.val, aux, 0, 0, 0⟩
    if !streamBound w then trap 0
    else if streamLeft w = 0 then trap 1
    else match s.cell.streams.find? fun x => x.sid == streamSid w with
      | none => trap 0
      | some x =>
        match x.buffer with
        | [] => s.stillPending (.streamBlockArrival s.curCell x.sid)
        | (a, .error t) :: _ =>
          (s.setStream { x with next := a, left := streamLeft w, buffer := [], block := none }).raise t
        | (_, .ok v) :: r =>
          let s := s.setStream { x with buffer := r }
          let s := s.setMe (s.me.setStream n (streamWord (streamEw w) (streamSigned w) (streamLeft w - 1) x.sid))
          let s := if 0 < x.left then s.stillPending (.streamBlockArrival s.curCell x.sid) else s
          s.result d (streamExtend w v))

end Sys2Proof.Machine
end

