-- ==== Sys2Proof/Machine/Frames.lean ====
section
/-! DEFINITION. Frames, refresh, and the queues of the four engines (R177, R192-R201, R287). -/

namespace Sys2Proof.Machine

/-! ### Banks (R192, R194, R287) -/

def State.setFrameBank (s : State) (n b : Nat) (f : FrameBank) : State :=
  s.setComb n { s.combAt n with banks := put (s.combAt n).banks b f }

/-- Where byte 0 of a row of a comb's bank lies (R363). -/
def frameAddr (n bank row : Nat) : Nat := superAddr (n / 256) (rowLoc (n % 256 / 16) (n % 16) bank row 0)

/-- The channel of a location in LPDDR6, and the I/O die that it is on (R289). -/
def lpddrChannel (loc : Nat) : Nat := loc / 2 ^ 8 % 32
def channelIoDie (channel : Nat) : Nat := channel / 16

/-- The bank accepts no activate: a refresh is in progress or overdue (R194, R287). -/
def State.refreshing (s : State) (n b : Nat) : Bool :=
  let f := s.frameBank n b
  decide (f.refreshDue ≤ s.now) || (f.refreshEnd.map fun e => decide (s.now < e)).getD false

/-! ### Ports (R193, R196, R199) -/

def Port.isOpen (p : Port) : Bool := p.state == .opening || p.state == .open

def State.port (s : State) (g : CellId) (n : Fin 4) : Port := (s.cellAt g).ports[n]
def State.setPort (s : State) (g : CellId) (n : Fin 4) (p : Port) : State :=
  s.setCell g { s.cellAt g with ports := (s.cellAt g).ports.set n p }

/-- Close a port's frame: a dirty row is written back, and the port takes the state (R195, R196, R199). -/
def State.closePort (s : State) (g : CellId) (n : Fin 4) (st : PortState) : State :=
  let p := s.port g n
  let s := if p.dirty then s.writeBytes (frameAddr (combOf g) p.bank p.row) p.data else s
  let s := s.setFrameBank (combOf g) p.bank { s.frameBank (combOf g) p.bank with lastClose := some s.now }
  s.setPort g n { p with state := st, data := [] }

/-- A frame may be closed: 45 cycles after its activate (R194). -/
def State.mayClose (s : State) (p : Port) : Bool := decide (p.actAt + 45 ≤ s.now)

/-- The cells of a comb and their ports that hold a bank open. -/
def State.holders (s : State) (n b : Nat) : List (CellId × Fin 4) :=
  (List.range 16).flatMap fun c => (([0, 1, 2, 3] : List (Fin 4)).filter fun p =>
    (s.port (n * 16 + c) p).isOpen && (s.port (n * 16 + c) p).bank == b).map fun p => (n * 16 + c, p)

/-- A transfer of the cell's row through a port has begun: a part of it has moved (R196, R252, R330). -/
def Cell.transfers (c : Cell) (n : Fin 4) : Bool :=
  c.fgQ.any fun e => e.started && decide (0 < e.done) && match e.instr with
    | .fconsA m | .fconsB m | .fconsM m _ | .fwrite m _ => m == n
    | _ => false

/-- Cycles until the bank's next refresh. One that has fallen due and waits for the frame that a port holds open is the next: it
comes 45 cycles after the activate (R195, R196, R200; DESIGN CHOICE, log entry 76). -/
def State.refreshLeft (s : State) (n b : Nat) : Nat :=
  let h := s.holders n b
  if h.isEmpty || s.now < (s.frameBank n b).refreshDue then refreshAfter (s.frameBank n b).refreshDue s.now - s.now
  else h.foldl (fun m x => max m ((s.port x.1 x.2).actAt + 45)) 0 - s.now

/-- A refresh that is due waits for the frame that a port holds open: 45 cycles after its activate, and for a transfer in
progress (R194, R196). -/
def State.refreshStays (s : State) (x : CellId × Fin 4) : Bool :=
  !s.mayClose (s.port x.1 x.2) || (s.cellAt x.1).transfers x.2

/-- The refreshes that have fallen due since the last one (R287). -/
def FrameBank.dueCount (f : FrameBank) (now : Nat) : Nat := (refreshAfter f.refreshDue now - f.refreshDue) / 5850

/-- The row of a bank is among the `n` that the refreshes from `f` on scrub. -/
def FrameBank.scrubs (f : FrameBank) (n row : Nat) : Bool := decide ((row + 12288 - f.scrubRow) % 12288 < n)

/-- The granules with a marked word that the scrubs of a bank find, each reported to the drovers of the hive and left
marked (R287, R293). -/
def State.scrub (s : State) (n b : Nat) (f : FrameBank) (count : Nat) : State :=
  let base := frameAddr n b 0
  let bad := (s.marks.filter fun w => decide (base ≤ 8 * w) && decide (8 * w < base + 12288 * 1024) &&
    f.scrubs count ((8 * w - base) / 1024)).map fun w => w / 4
  let h := s.hiveAt (n / 256)
  s.setHive (n / 256) { h with reports := (bad.eraseDups.map fun w => ⟨32 * w, 0, 3⟩) ++ h.reports }

/-- REFRESH's effect when it is due: an open frame is closed and LOST, one row is scrubbed for each time that has passed, and
the bank accepts no activate for 120 cycles (R196, R287); none before it is due, before activate + 45 or while a transfer is
in progress. -/
def State.doRefresh (s : State) (n b : Nat) : Option State :=
  let f := s.frameBank n b
  if s.now < f.refreshDue then none
  else
    let h := s.holders n b
    if h.any s.refreshStays then none
    else
      let s := h.foldl (fun s x => s.closePort x.1 x.2 .lost) s
      let f := s.frameBank n b
      let start := if h.isEmpty then refreshAfter f.refreshDue s.now - 5850 else s.now
      let count := f.dueCount s.now
      some (((s.scrub n b f count).setFrameBank n b { f with refreshDue := refreshAfter f.refreshDue s.now
                                                             refreshEnd := some (start + 120)
                                                             scrubRow := (f.scrubRow + count) % 12288 }).push
        (.refreshEnd (n / 256) (n % 256) b))

/-- REFRESH (R196, R287). -/
def execRefresh (hive comb bank : Nat) (s : State) : Host.Outcome State Fault Refusal :=
  .next ((s.doRefresh (hive * 256 + comb) bank).getD
    (if (s.holders (hive * 256 + comb) bank).isEmpty then s else s.stillPending (.refresh hive comb bank)))

/-- REFRESH_END (R287). -/
def execRefreshEnd (hive comb bank : Nat) (s : State) : Host.Outcome State Fault Refusal :=
  .next (
    let n := hive * 256 + comb
    let f := s.frameBank n bank
    match f.refreshEnd with
    | some e => if s.now < e then s.stillPending (.refreshEnd hive comb bank)
      else s.setFrameBank n bank { f with refreshEnd := none }
    | none => s)

/-- A refresh that has fallen due acts before the port is used (R196). -/
def State.syncRefresh (s : State) (g : CellId) (n : Fin 4) : State :=
  let p := s.port g n
  if p.isOpen then (s.doRefresh (combOf g) p.bank).getD s else s

/-! ### `FACT` (R195) -/

def rowGuard (w : Word) : Nat := w.toNat / 2 ^ 32 % 2 ^ 12
def rowRow (w : Word) : Nat := w.toNat / 2 ^ 16 % 2 ^ 14
def rowBank (w : Word) : Nat := w.toNat % 2 ^ 7

/-- A reserved bit or a row that no bank has (R195). -/
def rowWordBad (w : Word) : Bool :=
  w.toNat / 2 ^ 44 != 0 || w.toNat / 2 ^ 30 % 4 != 0 || w.toNat / 2 ^ 7 % 2 ^ 9 != 0 || decide (12288 ≤ rowRow w)

/-- `FACT` (R195). -/
def execFact (n : Fin 4) (a : WReg) (s : State) : Host.Outcome State Fault Refusal :=
  .next (if rowWordBad (s.w a) then s.raise (accessTrap (s.w a) 0)
    else if s.queueFull .forager then s
    else s.enqueue .forager (.fact n a) [s.w a] [] id)

/-- The forager's started `FACT`. -/
def Cell.factEntry (c : Cell) : Option (EngEntry × Fin 4) :=
  c.fgQ.findSome? fun e => match e.instr with
    | .fact n _ => if e.started then some (e, n) else none
    | _ => none

/-- A `FACT` starts: the grant is checked; with the row open and guard enough left it retires at once (R195). -/
def State.startFact (s : State) (g : CellId) (e : EngEntry) (n : Fin 4) : State :=
  let w := e.reg 0
  let cb := combOf g
  let s := s.syncRefresh g n
  let p := s.port g n
  if (s.frameBank cb (rowBank w)).grant != some g then
    s.engineDone g .forager e 0 (some ⟨.frameBank, BitVec.ofNat 64 (rowBank w), 0, 0, 0, 0⟩)
  else if p.isOpen && p.bank == rowBank w && p.row == rowRow w && decide (rowGuard w < s.refreshLeft cb (rowBank w)) then
    s.engineDone g .forager e 0 none
  else
    let s := if (s.frameBank cb (rowBank w)).refreshDue ≤ s.now then
        s.stillPending (.refresh (hiveOf g) (combIndex g) (rowBank w))
      else s
    s.push (.frameActivate g)

/-- Another port of the cell that holds a bank open. -/
def State.otherPort (s : State) (g : CellId) (n : Fin 4) (b : Nat) : Option (Fin 4) :=
  ([0, 1, 2, 3] : List (Fin 4)).find? fun m => m != n && (s.port g m).isOpen && (s.port g m).bank == b

/-- The closes that a `FACT` makes first (R195); none while one of them must wait. -/
def State.factCloses (s : State) (g : CellId) (n : Fin 4) (b : Nat) : Option State :=
  let p := s.port g n
  if p.isOpen && !s.mayClose p then none
  else
    let s := if p.isOpen then s.closePort g n .closed else s
    match s.otherPort g n b with
    | some m => if s.mayClose (s.port g m) then some (s.closePort g m .lost) else none
    | none => some s

/-- The conditions of an activate in this cycle (R195). -/
def State.mayActivate (s : State) (n b gd : Nat) : Bool :=
  let f := s.frameBank n b
  (f.lastClose.map fun c => decide (c + 23 ≤ s.now)).getD true &&
    (f.lastAct.map fun c => decide (c + 68 ≤ s.now)).getD true &&
    decide (((s.combAt n).activates.filter fun c => decide (s.now < c + 64)).length < 16) &&
    !s.refreshing n b && decide (gd < s.refreshLeft n b)

/-- Activate a row on a port (R194, R195): FRACT counts it (R339). -/
def State.activate (s : State) (g : CellId) (n : Fin 4) (w : Word) : State :=
  let cb := combOf g
  let b := rowBank w
  let s := s.setPort g n ⟨.opening, b, rowRow w, rowGuard w, false, [], s.now⟩
  let s := s.setFrameBank cb b { s.frameBank cb b with lastAct := some s.now }
  let c := s.combAt cb
  let s := s.setComb cb { c with activates := s.now :: c.activates.filter fun t => decide (s.now < t + 64) }
  let s := s.stillPending (.refresh (hiveOf g) (combIndex g) b)
  (s.count g 6 1).push (.frameOpen g n)

/-- FRAME_ACTIVATE (R194, R195): `FACT` makes its closes, then waits for the first cycle in which every condition
holds; it retires there. -/
def execFrameActivate (g : CellId) (s : State) : Host.Outcome State Fault Refusal :=
  .next (match (s.cellAt g).factEntry with
    | none => s
    | some (e, n) =>
      let w := e.reg 0
      let again (s : State) : State :=
        (if (s.frameBank (combOf g) (rowBank w)).refreshDue ≤ s.now then
          s.stillPending (.refresh (hiveOf g) (combIndex g) (rowBank w)) else s).stillPending (.frameActivate g)
      match (s.syncRefresh g n).factCloses g n (rowBank w) with
      | none => again s
      | some s =>
        if s.mayActivate (combOf g) (rowBank w) (rowGuard w) then
          ((s.activate g n w).engineDone g .forager e 0 none).foragerNext g
        else again s)

/-- FRAME_OPEN (R194, R195): 27 cycles after the activate. -/
def execFrameOpen (g : CellId) (n : Fin 4) (s : State) : Host.Outcome State Fault Refusal :=
  .next (
    let p := s.port g n
    if p.state != .opening then s
    else if s.now < p.actAt + 27 then s.stillPending (.frameOpen g n)
    else
      let s := s.setPort g n { p with state := .open }
      if (s.cellAt g).fgQ.any (fun e => e.started) then s.stillPending (.engineInstructionRetire g .forager) else s)

/-! ### `FCONS`, `FWRITE`, `FPRE`, `FSTAT` (R197-R200) -/

/-- The address checks of `FCONS.m` and `FWRITE` (R197, R198). -/
def frameRangeCheck (v : Word) (kind : Nat) : Except Trap Unit :=
  if v.toNat % 64 != 0 then .error ⟨.misaligned, v, 64, 0, 0, 0⟩
  else if 0x7F000 < v.toNat + 1024 then .error (accessTrap v kind)
  else .ok ()

/-- Queue a frame instruction. -/
def State.issueFrame (s : State) (i : Instr) (regs : List Word) : State :=
  if s.queueFull .forager then s else s.enqueue .forager i regs [] id

/-- `FCONS.a` (R197). -/
def execFconsA (n : Fin 4) (s : State) : Host.Outcome State Fault Refusal := .next (s.issueFrame (.fconsA n) [])

/-- `FCONS.b` (R197). -/
def execFconsB (n : Fin 4) (s : State) : Host.Outcome State Fault Refusal := .next (s.issueFrame (.fconsB n) [])

/-- `FCONS.m` (R197). -/
def execFconsM (n : Fin 4) (a : WReg) (s : State) : Host.Outcome State Fault Refusal :=
  .next (s.orRaise (frameRangeCheck (s.w a) 1) fun _ => s.issueFrame (.fconsM n a) [s.w a])

/-- `FWRITE` (R198). -/
def execFwrite (n : Fin 4) (a : WReg) (s : State) : Host.Outcome State Fault Refusal :=
  .next (s.orRaise (frameRangeCheck (s.w a) 0) fun _ => s.issueFrame (.fwrite n a) [s.w a])

/-- `FPRE` (R199). -/
def execFpre (n : Fin 4) (s : State) : Host.Outcome State Fault Refusal := .next (s.issueFrame (.fpre n) [])

def PortState.code : PortState → Nat
  | .closed => 0 | .opening => 1 | .open => 2 | .lost => 3

/-- The state that a port shows: OPEN from activate + 27 (R195, R200). -/
def State.shownState (s : State) (p : Port) : PortState :=
  if p.state = .opening && decide (p.actAt + 27 ≤ s.now) then .open else p.state

/-- The status word of a port (R200). AGE of a port that was never activated counts from cycle 0 (DESIGN CHOICE, log
entry 7). -/
def State.portStatus (s : State) (g : CellId) (n : Fin 4) : Word :=
  let p := s.port g n
  BitVec.ofNat 64 (min (s.now - p.actAt) 65535 * 2 ^ 48 + min (s.refreshLeft (combOf g) p.bank) 4095 * 2 ^ 32 +
    p.row % 2 ^ 16 * 2 ^ 16 + p.bank % 2 ^ 7 * 2 ^ 3 + p.dirty.toNat * 4 +
    (s.shownState p).code)

/-- `FSTAT` (R200): after every forager instruction that the cell issued earlier has retired. -/
def execFstat (d : WReg) (n : Fin 4) (s : State) : Host.Outcome State Fault Refusal :=
  .next (if s.cell.fgQ.isEmpty then
      (s.syncRefresh s.curCell n).result d ((s.syncRefresh s.curCell n).portStatus s.curCell n)
    else s)

/-- Step 1 of R197. -/
def Port.useTrap (p : Port) (n : Fin 4) : Option Trap :=
  match p.state with
  | .closed => some ⟨.frameNotOpen, BitVec.ofNat 64 p.bank, BitVec.ofNat 64 n.val, 0, 0, 0⟩
  | .lost => some ⟨.frameLost, BitVec.ofNat 64 p.bank, BitVec.ofNat 64 n.val, 0, 0, 0⟩
  | _ => none

/-- The row that a port holds open, or the trap of an uncorrectable word in it; R44 does not say which address names
a word of a row, so TRAPVAL is a free value (R197, log entry 6). -/
def State.frameRow (s : State) (g : CellId) (n : Fin 4) : Except Trap (List Byte) × State :=
  let p := s.port g n
  let a := frameAddr (combOf g) p.bank p.row
  if p.dirty then (.ok p.data, s)
  else if s.rangeMarked a 1024 then
    let (v, s) := s.takeFree
    (.error ⟨.uncorrectable, v, 4, 0, 0, 0⟩, s)
  else (.ok (Memory.bytes s.mem a 1024), s)

/-- How a frame instruction goes on. -/
inductive FrameEnd where
  | done (t : Option Trap)
  | waits
  deriving DecidableEq, Repr

/-- Move the row of an OPEN port into a FIFO or into TCM (R197). -/
def State.consume (s : State) (g : CellId) (n : Fin 4) (put : State → List Byte → State) : State × FrameEnd :=
  match s.frameRow g n with
  | (.error t, s) => (s, .done (some t))
  | (.ok l, s) => (put (s.count g 3 1024) l, .done none)

/-- The words of a row, as a transfer takes them up. -/
def rowWords (l : List Byte) : List Word := (List.range 128).map fun k => BitVec.ofNat 64 (ofBytes ((l.drop (8 * k)).take 8))

/-- The bytes of words that a transfer has taken up. -/
def wordBytes (l : List Word) : List Byte := l.flatMap fun v => toBytes v.toNat 8

/-- The FIFO has room for a row (R197). -/
def State.fifoTakesRow (s : State) (g : CellId) (b : Bool) : Bool :=
  decide (1024 ≤ (s.cellAt g).fifoSpace (if b then .fifoB else .fifoA))

/-- `FCONS.a` and `FCONS.b` in stream: the FIFO must have 1,024 bytes free (R197). Once a block has moved, the row that the
transfer took up stands in the entry, and no check is left. -/
def State.consumeFifo (s : State) (g : CellId) (n : Fin 4) (b : Bool) (en : EngEntry) : State × FrameEnd :=
  if 0 < en.done then ((s.count g 3 1024).fifoAppend g b (wordBytes (en.regs.drop (32 * en.done))), .done none)
  else if !s.fifoTakesRow g b then (s, .waits)
  else s.consume g n fun s l => s.fifoAppend g b l

/-- `FCONS.m` in stream (R197). TRAPVAL of a bound or gated destination is its first closed doubleword (DESIGN CHOICE, log
entry 55). Once a word has moved, the row that the transfer took up stands behind the address, and no check is left. -/
def State.consumeMem (s : State) (g : CellId) (n : Fin 4) (en : EngEntry) : State × FrameEnd :=
  let a := (en.reg 0).toNat
  let put (s : State) (l : List Byte) : State := (s.touchRange g a 1024).writeBytes (tcmBase g + a + 8 * en.done) l
  if 0 < en.done then
    (put (s.count g 3 1024) (wordBytes (en.regs.drop (1 + en.done))), .done none)
  else match s.closedDw g a 128 with
    | some k => (s, .done (some (engAccess (a + 8 * k) 0 1)))
    | none => s.consume g n put

/-- `FWRITE` in stream (R198). TRAPVAL of a bound or gated source is its first closed doubleword (DESIGN CHOICE, log entry
55). The words that it has read ahead stand behind its address. -/
def State.writeFrame (s : State) (g : CellId) (n : Fin 4) (en : EngEntry) : State × FrameEnd :=
  let a := (en.reg 0).toNat
  match if en.done = 0 then s.closedDw g a 128 else none with
  | some k => (s, .done (some (engAccess (a + 8 * k) 0 0)))
  | none =>
    match (List.range 128).find? fun k => decide (en.done ≤ k) && s.marked (tcmBase g + a + 8 * k) with
    | some k => (s, .done (some ⟨.uncorrectable, BitVec.ofNat 64 (a + 8 * k), 0, 0, 0, 0⟩))
    | none =>
      let p := s.port g n
      let s := (s.touchRange g a 1024).count g 3 1024
      let data := wordBytes ((en.regs.drop 1).take en.done) ++
        Memory.bytes s.mem (tcmBase g + a + 8 * en.done) (1024 - 8 * en.done)
      (s.setPort g n { p with dirty := true, data := data }, .done none)

/-- The row of a port is there for a transfer to begin (R197). -/
def State.rowThere (s : State) (g : CellId) (n : Fin 4) : Bool :=
  (s.syncRefresh g n).port g n == s.port g n && (s.port g n).state == .open

/-- The transfer of `FCONS.m` or `FWRITE` may begin, or has begun: its checks have passed (R196, R197). -/
def State.transferGoes (s : State) (g : CellId) (n : Fin 4) (en : EngEntry) : Bool :=
  decide (en.done < 128) && (decide (0 < en.done) || (s.rowThere g n && (s.closedDw g (en.reg 0).toNat 128).isNone))

/-- The row of `FCONS.a` or `FCONS.b` goes into its FIFO over the 4 cycles of its transfer, 256 bytes in each (R197, R330); with
the first block, the whole row is taken up and checked. -/
def State.fifoBlock (s : State) (g : CellId) (n : Fin 4) (b : Bool) (en : EngEntry) : State :=
  let put (s : State) (row : List Word) : State :=
    let s := s.fifoAppend g b (wordBytes ((row.drop (32 * en.done)).take 32))
    s.setCell g ((s.cellAt g).setEntry .forager { en with done := en.done + 1, regs := row })
  if 4 ≤ en.done then s
  else if 0 < en.done then put s en.regs
  else if !s.rowThere g n || !s.fifoTakesRow g b then s
  else match s.frameRow g n with
    | (.ok l, s') => put s' (rowWords l)
    | _ => s

/-- The forager moves the next part of a row: a block into a FIFO, or a word of `FCONS.m` or `FWRITE` (R252, R330). With its first word, `FCONS.m` takes
up the whole row, which is checked then; nothing stops a transfer in progress (R196, R197). -/
def State.foragerWork (s : State) (g : CellId) (en : EngEntry) : State :=
  let off := (en.reg 0).toNat + 8 * en.done
  let a := tcmBase g + off
  let next (s : State) (regs : List Word) : State :=
    (s.touch g off).setCell g (((s.touch g off).cellAt g).setEntry .forager { en with done := en.done + 1, regs := regs })
  let move (regs : List Word) (s : State) : State :=
    match regs[1 + en.done]? with
    | some v => next (s.write a 8 v.toNat) regs
    | none => s
  match en.instr with
  | .fconsA n => s.fifoBlock g n false en
  | .fconsB n => s.fifoBlock g n true en
  | .fconsM n _ =>
    if !s.transferGoes g n en then s
    else if 0 < en.done then move en.regs s
    else match s.frameRow g n with
      | (.ok l, s') => move (en.regs ++ rowWords l) s'
      | _ => s
  | .fwrite n _ =>
    if s.transferGoes g n en && !s.marked a then next s (en.regs ++ [BitVec.ofNat 64 (s.read a 8)]) else s
  | _ => s

/-- A frame instruction that needs its port OPEN (R197, R198). -/
def State.withOpenPort (s : State) (g : CellId) (n : Fin 4) (k : State → State × FrameEnd) : State × FrameEnd :=
  let s := s.syncRefresh g n
  let p := s.port g n
  match p.useTrap n with
  | some t => (s, .done (some t))
  | none => if p.state = .opening then (s, .waits) else k s

/-- `FPRE` in stream (R199): an open frame is closed 45 cycles after its activate at the earliest. -/
def State.precharge (s : State) (g : CellId) (n : Fin 4) : State × FrameEnd :=
  let s := s.syncRefresh g n
  let p := s.port g n
  if p.isOpen then (if s.mayClose p then (s.closePort g n .closed, .done none) else (s, .waits))
  else (s.setPort g n { p with state := .closed }, .done none)

/-- A frame instruction is performed (R197-R199). -/
def State.performFrame (s : State) (g : CellId) (e : EngEntry) : State × FrameEnd :=
  match e.instr with
  | .fconsA n => s.withOpenPort g n fun s => s.consumeFifo g n false e
  | .fconsB n => s.withOpenPort g n fun s => s.consumeFifo g n true e
  | .fconsM n _ => s.withOpenPort g n fun s => s.consumeMem g n e
  | .fwrite n _ => s.withOpenPort g n fun s => s.writeFrame g n e
  | .fpre n => s.precharge g n
  | _ => (s, .waits)

/-! ### The engines' queues (R151, R177, R181) -/

/-- The forager starts an instruction (R177). -/
def State.foragerStart (s : State) (g : CellId) (e : EngEntry) : State :=
  let s := s.setCell g ((s.cellAt g).markStarted .forager e.id)
  let e := { e with started := true }
  match e.instr with
  | .push _ _ _ bar => s.startCopy g e false bar
  | .pushx _ _ _ bar => s.startCopy g e true bar
  | .fact n _ => (s.startFact g e n).foragerNext g
  | _ => s.push (.engineInstructionRetire g .forager)

/-- The forager performs its frame instruction and retires it, or waits (R197-R199). Copies and `FACT` retire by
happenings of their own. -/
def State.foragerRetire (s : State) (g : CellId) (e : EngEntry) : State :=
  match e.instr with
  | .push .. | .pushx .. | .fact .. => s
  | _ =>
    match s.performFrame g e with
    | (s, .done t) => (s.engineDone g .forager e 0 t).foragerNext g
    | (s, .waits) => s.stillPending (.engineInstructionRetire g .forager)

/-- The entry that an engine could start: the first that has not started, when the engine is free for it (R177). The VU is free
once it has read all that it reads for the entries it has started (R151). -/
def State.nextEntry (s : State) (g : CellId) (e : Eng) : Option EngEntry :=
  let q := (s.cellAt g).queue e
  if (if e = .forager then s.foragerIdle g else q.all fun x => !x.started || x.allRead) then q.find? fun x => !x.started else none

/-- The entry's accesses to the Z array wait for those of an earlier instruction of the cell (R181, R335). -/
def Cell.zHeld (c : Cell) (en : EngEntry) : Bool := (en.zseq.map c.zBusyBefore).getD false

/-- ENGINE_INSTRUCTION_START (R177, R332): a multiply waits for its operand bytes. -/
def execEngineInstructionStart (g : CellId) (e : Eng) (s : State) : Host.Outcome State Fault Refusal :=
  .next (match s.nextEntry g e with
    | none => s
    | some en =>
      let c := s.cellAt g
      if e == .sce && !c.operandsPresent en then s.stillPending (.engineInstructionStart g e)
      else match e with
        | .vu => (s.setCell g (c.markStarted .vu en.id)).push (.engineInstructionRetire g .vu)
        | .sce => s.sceStart g en
        | .forager => s.foragerStart g en
        | .sdu => (s.setCell g (c.markStarted .sdu en.id)).push (.engineInstructionRetire g .sdu))

/-- An engine's accesses to TCM wait for a bank that is being zeroed (R272). -/
def Cell.zeroing (c : Cell) : Bool := c.banks.toList.any fun b => b.state == .zeroing

/-- The started instruction of an engine that its retirement performs. -/
def State.startedEntry (s : State) (g : CellId) (e : Eng) : Option EngEntry :=
  ((s.cellAt g).queue e).find? fun x => x.started && (e != .forager || !x.instr.isCopy)

/-- An engine performs the next element or 8-byte word of its instruction ahead of the others (R148, R252): nothing orders
the words of one instruction's results against other agents. -/
def State.engineWork (s : State) (g : CellId) (e : Eng) : State :=
  match s.startedEntry g e with
  | none => s
  | some en => if (s.cellAt g).zHeld en || (s.cellAt g).zeroing then s else match e with
    | .vu => s.vuWork g en
    | .sce => s.sceWork g en
    | .forager => s.foragerWork g en
    | .sdu => s

/-- ENGINE_INSTRUCTION_RETIRE (R80, R151, R177): the started entry is performed and retires with its flags and its
trap; an instruction that accesses Z does so once every earlier one of the cell has (R181, R335). -/
def execEngineInstructionRetire (g : CellId) (e : Eng) (s : State) : Host.Outcome State Fault Refusal :=
  .next (match s.startedEntry g e with
    | none => s
    | some en => if (s.cellAt g).zHeld en || (s.cellAt g).zeroing then s.stillPending (.engineInstructionRetire g e) else match e with
      | .vu => s.vuRetire g en
      | .sce => s.sceRetire g en
      | .forager => s.foragerRetire g en
      | .sdu => s.sduRetire g en)

end Sys2Proof.Machine
end

