-- ==== Sys2Proof/Machine/Pages.lean ====
section
/-! DEFINITION. The page group: passing, asking, freezing, landing and publishing pages (R51-R53, R240, R241, R260,
R261). -/

namespace Sys2Proof

open Machine

/-- The page of the fold status block (R267). -/
def statusPage : Nat := 0x00FFFFFFFFFF0000

/-- The virtual range of reduction pages (R359). -/
def inReductionRange (a : Nat) : Bool := decide (0x00FE000000000000 ≤ a) && decide (a < 0x00FF000000000000)

/-- An address of the page. -/
def Page.spans (p : Page) (a : Nat) : Bool := decide (p.base ≤ a) && decide (a < p.base + p.size)

/-- The issuer that the table of R240 allows: the holder, or the last holder of a frozen or landing page. -/
def Page.issuer (p : Page) (g : CellId) : Bool :=
  match p.state with
  | .live | .shadowed => p.heldBy g
  | .frozen | .landing => p.last == lcidOf g && p.homes.any (fun h => h.1 == hiveOf g)

/-- The state word of `CQRY` (R53). -/
def Page.word (p : Page) : Word :=
  let holder := match p.state with
    | .live | .shadowed => p.holder % 4096
    | _ => 0
  let ns := (p.request.map fun r => r.state.code).getD p.state.code
  let nr := (p.request.map fun r => r.rule.code).getD p.rule.code
  BitVec.ofNat 64 (holder + p.last % 4096 * 2 ^ 14 + p.state.code * 2 ^ 26 + p.rule.code * 2 ^ 28 + ns * 2 ^ 31 +
    nr * 2 ^ 33)

/-- A request takes effect at the install of the open (R52, R266). -/
def Page.takeRequest (p : Page) : Page :=
  match p.request with
  | none => p
  | some r =>
    match r.state with
    | .live | .shadowed => { p with state := r.state, rule := r.rule, holder := r.holder, last := r.holder, request := none }
    | .frozen | .landing =>
      let last := match p.state with
        | .live | .shadowed => p.holder
        | _ => p.last
      { p with state := r.state, rule := r.rule, last := last, request := none, dirty := false }

end Sys2Proof

namespace Sys2Proof.Machine

/-- The page that an address names for the page group, or the trap of R240. -/
def State.pageOf (s : State) (addr kind : Nat) : Except Trap Page :=
  let named (p : Page) : Except Trap Page :=
    if p.base = statusPage then .error (crookTrap addr { p with state := .frozen }) else .ok p
  match s.place s.curCell addr with
  | .virt _ _ p => named p
  | .scratch _ _ p => named p
  | .unmapped _ => .error ⟨.pageFault, BitVec.ofNat 64 addr, BitVec.ofNat 64 (kind * 2 ^ 32), 0, 0, 0⟩
  | _ => .error (accessTrap (BitVec.ofNat 64 addr) kind)

/-- Find the page of a page-group instruction; an unfilled page-state cache entry stalls it (R284). -/
def State.withPage (s : State) (addr kind : Nat) (k : Page → State) : State :=
  if s.misses s.curCell addr then s.askFill s.curCell addr else s.orRaise (s.pageOf addr kind) k

/-- As `withPage`, for an issuer that the table of R240 allows. -/
def State.withOwnPage (s : State) (addr : Nat) (k : Page → State) : State :=
  s.withPage addr 1 fun p => if p.issuer s.curCell then k p else s.raise (crookTrap addr p)

/-- Replace a page of the current cell's job. -/
def State.putPage (s : State) (p : Page) : State :=
  match s.jobOf s.curCell with
  | some (n, j) => s.setJob n (j.setPage p)
  | none => s

/-- Record a request (R52): the issuer's later one replaces its earlier one; a second issuer traps `CROOK`. -/
def State.request (s : State) (addr : Nat) (p : Page) (st : PageState) (r : Rule) (holder : Nat) : State :=
  let by_ := lcidOf s.curCell
  if (p.request.map fun q => q.by_ != by_).getD false then s.raise (crookTrap addr p)
  else (s.putPage { p with request := some ⟨st, r, holder, by_⟩ }).retire

/-- The strand has an atomic to the page that is accepted and still to be performed, or an `STFE` that waits for its word. -/
def Strand.updates (t : Strand) (p : Page) : Bool :=
  (t.longs.any fun o => o.result.isNone && match o.kind with
    | .amo _ a _ _ => p.spans a
    | _ => false) ||
  match t.stfeOf with
  | some (_, a, off) => t.note != 0 && p.spans (effAddr (t.w a) off.toInt 8)
  | none => false

/-- The cell has an accepted store to the page that is still to be performed, of whichever strand and of whatever kind: a
store, an atomic or an `STFE` (R260). -/
def Cell.storesTo (c : Cell) (p : Page) : Bool :=
  (c.stores.any fun st =>
    match st.kind with
    | .store a _ _ => p.spans a
    | _ => false) || c.strands.toList.any fun t => t.updates p

/-- `CPASS` (R240): a register with bits above 11, or that names no cell, traps with kind 0 (DESIGN CHOICE, log entry 68). Its
perform moment comes after the accesses of the strand, and after every store of the cell to the
page (R260). -/
def execCpass (a b : WReg) (s : State) : Host.Outcome State Fault Refusal :=
  .next (
    let addr := (s.w a).toNat
    let new := (s.w b).toNat
    s.withPage addr 1 fun p =>
      if 2 ^ 12 ≤ new || !s.cellExists (hiveOf s.curCell * 4096 + new) then s.raise (accessTrap (s.w b) 0)
      else if !p.issuer s.curCell then s.raise (crookTrap addr p)
      else if !s.fenced .hive || s.cell.storesTo p then s
      else if new = lcidOf s.curCell then s.retire
      else match p.state with
        | .live | .shadowed => (s.putPage { p with holder := new, last := new }).retire
        | .frozen | .landing => s.request addr p .live p.rule new)

/-- `CQRY` (R53, R240). -/
def execCqry (d a : WReg) (s : State) : Host.Outcome State Fault Refusal :=
  .next (s.withPage (s.w a).toNat 0 fun p => s.result d p.word)

/-- First address of a page, as a record's page address (R44). -/
def conflictTrap (p : Page) : Trap := ⟨.publishConflict, BitVec.ofNat 64 p.base, 0, 0, 0, 0⟩

/-- A request of `FREEZE` or `LAND`: not on a shadowed page that has been written since its last `PUBLISH` (R240). -/
def State.requestHeld (s : State) (addr : Nat) (p : Page) (st : PageState) (r : Rule) : State :=
  if p.state = .shadowed && p.dirty then s.raise (conflictTrap p) else s.request addr p st r 0

/-- `FREEZE` (R240). -/
def execFreeze (a : WReg) (s : State) : Host.Outcome State Fault Refusal :=
  .next (s.withOwnPage (s.w a).toNat fun p => s.requestHeld (s.w a).toNat p .frozen p.rule)

/-- The rules that a reduction page may not have (R359). -/
def Rule.notReducing : Rule → Bool
  | .first | .last | .unique => true
  | _ => false

/-- `LAND` (R240, R359). -/
def execLand (r : Rule) (a : WReg) (s : State) : Host.Outcome State Fault Refusal :=
  .next (
    let addr := (s.w a).toNat
    s.withPage addr 1 fun p =>
      if inReductionRange addr && Rule.notReducing r then s.raise (accessTrap (s.w a) 1)
      else if !p.issuer s.curCell then s.raise (crookTrap addr p)
      else s.requestHeld addr p .landing r)

/-- The shadow bytes of a page that have been written since its last `PUBLISH`. -/
def State.shadowOf (s : State) (job hive : Nat) (p : Page) : List Host.Cell :=
  s.shadow.filter fun c => decide (shadowKey job hive p.base ≤ c.1) && decide (c.1 < shadowKey job hive p.base + p.size)

/-- Write one published byte of a page. -/
def State.publishByte (s : State) (hive : Nat) (p : Page) (off : Nat) (b : Byte) : State :=
  if p.base < 2 ^ 57 then s.cachedWrite (p.addr hive (p.base + off)) [b]
  else
    let o := p.base + off - scratchWindow
    s.write (scratchAddr (hive * 256 + o / 2 ^ 23) (o % 2 ^ 23)) 1 b.toNat

/-- Words of a page that a whole 8-byte write has replaced in the shadow lose their marks (R133). -/
def State.publishMarks (s : State) (hive : Nat) (p : Page) (key : Nat) : State :=
  let whole := (s.shadowGood.filter fun w => decide (key ≤ 8 * w) && decide (8 * w < key + p.size)).map fun w => 8 * w - key
  whole.foldl (fun s off =>
    if p.base < 2 ^ 57 then
      let loc := p.addr hive (p.base + off)
      s.cachedWrite loc (s.cachedBytes loc 8)
    else
      let o := p.base + off - scratchWindow
      s.clearMarks (scratchAddr (hive * 256 + o / 2 ^ 23) (o % 2 ^ 23)) 8) s

/-- The shadow becomes the published copy (R241): the words it replaces whole are good, and it goes on from the same
contents. -/
def State.publishPage (s : State) (job hive : Nat) (p : Page) : State :=
  let l := s.shadowOf job hive p
  let key := shadowKey job hive p.base
  let s := l.foldl (fun s c => s.publishByte hive p (c.1 - key) c.2) s
  let s := s.publishMarks hive p key
  { s with shadow := s.shadow.filter fun c => !(decide (key ≤ c.1) && decide (c.1 < key + p.size))
           shadowGood := s.shadowGood.filter fun w => !(decide (key ≤ 8 * w) && decide (8 * w < key + p.size)) }

/-- `PUBLISH` (R241). No engine instruction has a page for its destination, so the conflict with another strand does not
arise (R182, R197). -/
def execPublish (a : WReg) (s : State) : Host.Outcome State Fault Refusal :=
  .next (s.withPage (s.w a).toNat 1 fun p =>
    if p.state != .shadowed || !p.heldBy s.curCell then s.raise (crookTrap (s.w a).toNat p)
    else if !s.fenced .hive || s.engineBusy then s
    else match s.jobOf s.curCell with
      | none => s
      | some (n, _) => ((s.publishPage n (hiveOf s.curCell) p).putPage { p with dirty := false }).retire)

end Sys2Proof.Machine
end

