-- ==== Sys2Proof/Machine/Stepped.lean ====
section
/-! DEFINITION. Stepped operations: their checks at issue, the pen allotment, acceptance by a pen, and `XLD` (R242-R248,
R250, R295, R359). -/

namespace Sys2Proof

/-- Pen bytes of an entry (R242). -/
def SteppedOp.cost (op : SteppedOp) : Nat :=
  match op.kind with
  | .xam => 64
  | _ => 32

end Sys2Proof

namespace Sys2Proof.Machine

/-- A stepped operation issued during seal or apply parks until the open (R242). -/
def State.whileOpen (s : State) (i : Instr) (k : State) : State :=
  match s.jobOf s.curCell with
  | some (_, j) => if j.phase = .open then k else s.park i 0
  | none => k

/-- Steps 1 and 2 of R242: alignment, a virtual address, a mapping, a landing page. -/
def State.steppedTarget (s : State) (addr size kind : Nat) : Except Trap Page :=
  let landing (p : Page) : Except Trap Page := if p.state = .landing then .ok p else .error (landingTrap addr kind)
  if addr % size != 0 then .error ⟨.misaligned, BitVec.ofNat 64 addr, BitVec.ofNat 64 size, 0, 0, 0⟩
  else if addr < 2 ^ 20 || 2 ^ 57 ≤ addr then .error (accessTrap (BitVec.ofNat 64 addr) kind)
  else match s.place s.curCell addr with
    | .virt _ _ p => landing p
    | .away _ p => landing p
    | _ => .error ⟨.pageFault, BitVec.ofNat 64 addr, BitVec.ofNat 64 (kind * 2 ^ 32), 0, 0, 0⟩

/-- A landing page whose entries go to the reduction buffers (R359). -/
def isReduction (addr : Nat) (p : Page) : Bool := inReductionRange addr && !Rule.notReducing p.rule

/-- The rules that take doublewords only (R265). -/
def Rule.wideOnly : Rule → Bool
  | .add | .min | .max => true
  | _ => false

/-- The rest of step 2 of R242: the widths of R265 and the reduction pages of R359. -/
def steppedRule (k : StepKind) (addr kind : Nat) (p : Page) : Except Trap Unit :=
  let ok : Bool := match k with
    | .xst w => w.val == 3 || !(Rule.wideOnly p.rule || isReduction addr p)
    | .xamo .. | .xflag => !isReduction addr p
    | .xam => true
  if ok then .ok () else .error (landingTrap addr kind)

/-- Find and check the target; an unfilled page-state cache entry stalls the instruction (R284). -/
def State.withTarget (s : State) (k : StepKind) (addr size kind : Nat) (f : Page → State) : State :=
  if s.misses s.curCell addr then s.askFill s.curCell addr
  else s.orRaise (s.steppedTarget addr size kind) fun p => s.orRaise (steppedRule k addr kind p) fun _ => f p

/-- `PEN_BUDGET` (R44, R242). -/
def penTrap (addr left : Nat) : Trap := ⟨.penBudget, BitVec.ofNat 64 addr, BitVec.ofNat 64 left, 0, 0, 0⟩

/-- The sequence of the slot's next stepped operation (R242). -/
def State.stepSeq (s : State) : Nat := (s.cell.slotDyn s.me.slotNo).stepSeq

/-- Take the allotment and the sequence of a stepped operation, and send it to its pen (R242, R295). -/
def State.sendStepped (s : State) (op : SteppedOp) : State :=
  let c := s.cell
  let d := c.slotDyn s.me.slotNo
  let s := s.setCur { c with penLeft := c.penLeft - op.cost,
                             slots := put c.slots s.me.slotNo { d with stepSeq := d.stepSeq + 1 } }
  s.push (.steppedOpAccept op)

/-- The entry that the current strand places (R242, R296). -/
def State.newStepped (s : State) (k : StepKind) (target home : Nat) (data cmp : Word) : SteppedOp where
  job := s.cell.job.getD 0
  src := s.curCell
  slot := s.me.slotNo
  seq := s.stepSeq
  kind := k
  target := target
  home := home
  data := data
  cmp := cmp
  m2 := 0
  m3 := 0
  m4 := 0
  record := 0
  strand := s.curStrand
  fid := s.me.fid
  reduction := false

/-- Step 4 of R242. -/
def State.penLeft (s : State) : Nat := s.cell.penLeft

/-- The width code of `XST` (R296). -/
def widthCode (w : Fmt) : Fin 4 := Fin.ofNat 4 w.code

/-- `XST` (R243). -/
def execXst (w : Fmt) (d a : WReg) (off : BitVec 10) (s : State) : Host.Outcome State Fault Refusal :=
  .next (s.whileOpen (.xst w d a off) (
    let n := widthBytes w
    let addr := effAddr (s.w a) off.toInt n
    let k := StepKind.xst (widthCode w)
    if s.acquireWaits then s
    else s.withTarget k addr n 1 fun p =>
      if s.penLeft < 32 then s.raise (penTrap addr s.penLeft)
      else
        let op := { s.newStepped k addr (p.homeFor s.hive) (s.w d) 0 with reduction := isReduction addr p }
        let c := s.cell
        let st : PStore := ⟨c.nextId, s.curStrand, s.me.fid, .stepped op.slot op.seq⟩
        ((s.setCur { c with nextId := c.nextId + 1, stores := c.stores ++ [st] }).sendStepped op).retire))

/-- The status doubleword of a result record while it is pending (R244). -/
def pendingStatus (home : Nat) : Word := BitVec.ofNat 64 (2 ^ 6 + home * 2 ^ 48)

/-- Place an `XAMO` whose checks have passed: its record becomes pending, and it stands outstanding until it is
accepted (R244). -/
def State.issueXamo (s : State) (i : Instr) (op : SteppedOp) (rec : Nat) (la : Fin 16) : State :=
  let s := (s.touch s.curCell rec).writeTcm s.curCell (rec + 8) 8 (pendingStatus op.home).toNat
  (s.sendStepped op).issueLong i 0 false (s.windowOf la) false false (.xamo op.slot op.seq)

/-- `PEN_BUDGET` of an `XAMO`, reported through its window (R96, R244). -/
def State.failXamo (s : State) (i : Instr) (t : Trap) (la : Fin 16) : State :=
  let seq := s.cell.nextId
  let s := s.issueLong i 0 false (s.windowOf la) false false (.xamo s.me.slotNo s.stepSeq)
  (s.setMe (s.me.complete seq (.trap t))).settle

/-- `XAMO` (R244). -/
def execXamo (op : Aop) (ord : Bool) (d a b : WReg) (la : Fin 16) (s : State) : Host.Outcome State Fault Refusal :=
  .next (s.whileOpen (.xamo op ord d a b la) (
    let i := Instr.xamo op ord d a b la
    let addr := (s.w a).toNat
    let rec_ := (s.w d).toNat
    let off := ownAddr s.curCell rec_
    let k := StepKind.xamo op ord
    if s.acquireWaits || s.rangeWaits rec_ 2 then s
    else s.withTarget k addr 8 2 fun p =>
      s.orRaise (s.localCheck i rec_ 16 16 1) fun _ =>
        if op = .cas && s.rangeMarked (tcmBase s.curCell + off) 8 then
          s.raise ⟨.uncorrectable, BitVec.ofNat 64 rec_, 0, 0, 0, 0⟩
        else if s.penLeft < 32 then s.failXamo i (penTrap addr s.penLeft) la
        else
          let cmp := if op = .cas then BitVec.ofNat 64 (s.read (tcmBase s.curCell + off) 8) else 0
          let e := { s.newStepped k addr (p.homeFor s.hive) (s.w b) cmp with record := off }
          s.issueXamo i e off la))

/-- The message of an `XAM` is refused (R247). -/
def State.xamBad (s : State) (m0 : Word) : Bool :=
  let v := m0.toNat
  let h := v / 2 ^ 12 % 64
  let hives := ((s.jobOf s.curCell).map fun j => j.2.hives).getD []
  decide (2 ^ 24 ≤ v) || !hives.contains h || !s.cellExists (h * 4096 + v % 4096)

/-- `XAM` (R247). -/
def execXam (a : WReg) (s : State) : Host.Outcome State Fault Refusal :=
  .next (s.whileOpen (.xam a) (
    let addr := (s.w a).toNat
    let at_ := tcmBase s.curCell + ownAddr s.curCell addr
    if s.acquireWaits || s.rangeWaits addr 5 then s
    else s.orRaise (s.localCheck (.xam a) addr 40 8 0) fun _ =>
      let m (n : Nat) : Word := BitVec.ofNat 64 (s.read (at_ + 8 * n) 8)
      if s.rangeMarked at_ 40 then s.raise ⟨.uncorrectable, BitVec.ofNat 64 addr, 0, 0, 0, 0⟩
      else if s.xamBad (m 0) then s.raise (accessTrap (m 0) 0)
      else if s.penLeft < 64 then s.raise (penTrap addr s.penLeft)
      else
        let op := { s.newStepped .xam 0 ((m 0).toNat / 2 ^ 12 % 64) (m 0) (m 1) with m2 := m 2, m3 := m 3, m4 := m 4 }
        ((s.touchRange s.curCell (ownAddr s.curCell addr) 40).sendStepped op).retire))

/-- `XFLAG` (R248). -/
def execXflag (a b : WReg) (s : State) : Host.Outcome State Fault Refusal :=
  .next (s.whileOpen (.xflag a b) (
    let addr := (s.w a).toNat
    if s.acquireWaits then s
    else s.withTarget .xflag addr 8 1 fun p =>
      if s.penLeft < 32 then s.raise (penTrap addr s.penLeft)
      else (s.sendStepped (s.newStepped .xflag addr (p.homeFor s.hive) (s.w b) 0)).retire))

/-! ### `XLD` (R246) -/

/-- `XLD` by the kind of its address. -/
def State.issueXld (s : State) (i : Instr) (w : Fmt) (acq : Bool) (d : WReg) (addr : Nat) (la : Fin 16) : State :=
  let long (k : LongKind) : State := s.issueLong i d false (s.windowOf la) acq false k
  let bad : State := s.raise (accessTrap (BitVec.ofNat 64 addr) 0)
  if addr % widthBytes w != 0 then
    s.raise ⟨.misaligned, BitVec.ofNat 64 addr, BitVec.ofNat 64 (widthBytes w), 0, 0, 0⟩
  else if ownAddr s.curCell addr < 0x80000 then
    if w = .int64 && addr % 16 == 0 then s.orRaise (s.localCheck i addr 16 16 0) fun _ => long (.record addr) else bad
  else match s.place s.curCell addr with
    | .virt _ _ p =>
      if s.me.dchk && p.state == .live then s.raise (s.dchkTrap i 1) else long (.load w addr)
    | .away _ p =>
      if p.state = .live then
        if s.me.dchk then s.raise (s.dchkTrap i 1)
        else s.raise ⟨.remoteReadLive, BitVec.ofNat 64 addr, BitVec.ofNat 64 (p.homeFor s.hive), 0, 0, 0⟩
      else long (.remote w addr)
    | .unmapped _ => s.raise ⟨.pageFault, BitVec.ofNat 64 addr, 0, 0, 0, 0⟩
    | _ => bad

/-- `XLD` (R246, R250). -/
def execXld (w : Fmt) (acq : Bool) (d a : WReg) (off : BitVec 6) (la : Fin 16) (s : State) :
    Host.Outcome State Fault Refusal :=
  .next (
    let addr := effAddr (s.w a) off.toInt (widthBytes w)
    if s.acquireWaits || s.zeroHeld s.curCell addr 16 then s
    else if s.misses s.curCell addr then s.askFill s.curCell addr
    else s.issueXld (.xld w acq d a off la) w acq d addr la)

/-! ### Acceptance (R242, R244, R295, R359) -/

/-- The entry stands in its pen, or in the reduction buffer of the issuing hive. -/
def Job.accept (j : Job) (op : SteppedOp) : Job :=
  let j := { j with figures := { j.figures with penUsed := j.figures.penUsed + op.cost } }
  if op.reduction then
    { j with redEntries := j.redEntries ++ [(hiveOf op.src, op)]
             redSlots := if j.redSlots.contains (op.src, op.slot) then j.redSlots else (op.src, op.slot) :: j.redSlots }
  else { j with pen := j.pen ++ [(op.home, op)] }

/-- The number of the outstanding `XAMO` that placed an entry. -/
def Strand.xamoOf (t : Strand) (op : SteppedOp) : Option Nat :=
  (t.longs.find? fun o => o.kind == .xamo op.slot op.seq && o.result.isNone).map fun o => o.seq

/-- STEPPED_OP_ACCEPT (R242, R295): the pen has taken the entry; its issuer's count falls, and an `XAMO` completes. -/
def execSteppedOpAccept (op : SteppedOp) (s : State) : Host.Outcome State Fault Refusal :=
  .next (
    let s := match s.jobAt op.job with
      | some j => s.setJob op.job (j.accept op)
      | none => s
    let c := s.cellAt op.src
    let s := s.setCell op.src { c with stores := c.stores.filter fun p => p.kind != .stepped op.slot op.seq }
    match (s.strandAt op.src op.strand).xamoOf op with
    | some seq => s.on op.src op.strand fun s => (s.setMe (s.me.complete seq (.value 0 0 none))).settle
    | none => s)

end Sys2Proof.Machine
end

