-- ==== Sys2Proof/Machine/Fold.lean ====
section
/-! DEFINITION. The fold: gathers and the seal, the apply, fold-time reductions, replicas, the install and the release
(R263-R268, R356-R361, R378-R382). -/

namespace Sys2Proof

/-- The sort key of a stepped operation as one number (R242, R296). -/
def SteppedOp.key (op : SteppedOp) : Nat := op.src * 2 ^ 46 + op.slot * 2 ^ 40 + op.seq % 2 ^ 40

/-- The sort key of a `SORTED` event; where two edges of one slot tie, the lower edge comes first (log entry 30). -/
def Input.key (i : Input) : Nat := (i.src * 2 ^ 46 + i.srcSlot * 2 ^ 40 + i.seq % 2 ^ 40) * 2 ^ 8 + i.edge % 2 ^ 8

def StepKind.isFlag : StepKind → Bool
  | .xflag => true
  | _ => false

/-- KIND and SUB of a pen entry (R296). -/
def StepKind.codes : StepKind → Nat × Nat
  | .xst w => (0, w.val)
  | .xamo op false => (1, op.code)
  | .xamo op true => (2, op.code)
  | .xflag => (3, 3)
  | .xam => (4, 0)

/-- It parks while its job is not open (R242). -/
def Instr.isStepped : Instr → Bool
  | .xst .. | .xamo .. | .xam .. | .xflag .. => true
  | _ => false

end Sys2Proof

namespace Sys2Proof.Machine

/-! ### Sorting -/

def insertBy {α : Type} (key : α → Nat) (a : α) : List α → List α
  | [] => [a]
  | b :: r => if key a ≤ key b then a :: b :: r else b :: insertBy key a r

/-- Sort by a key; equal keys keep their order. -/
def sortBy {α : Type} (key : α → Nat) : List α → List α
  | [] => []
  | a :: r => insertBy key a (sortBy key r)

/-! ### Quiet (R263, R357) -/

/-- The strand holds no firing, or one that is parked at `FOLD`. -/
def Strand.quiet (t : Strand) : Bool :=
  match t.run with
  | .free | .leaving | .folded => true
  | _ => false

/-- An actor is ready, or a fork request waits, on the cell (R308, R314). -/
def State.hasCand (s : State) (g : CellId) : Bool := (List.range 64).any fun n => !(s.startCands g n).isEmpty

/-- Every stepped operation that the cell has issued has been accepted. -/
def State.steppedClear (s : State) (g : CellId) : Bool :=
  s.pending.all fun i => match i with
    | .steppedOpAccept op => op.src != g
    | _ => true

/-- The conditions of R263 on firings, ready actors and stepped operations. -/
def State.cellQuiet (s : State) (g : CellId) : Bool :=
  let c := s.cellAt g
  c.strands.toList.all Strand.quiet && c.switched.isEmpty && !s.hasCand g && s.steppedClear g

/-- Nothing for the job's cells is on its way or waits (R263). -/
def State.nothingWaits (s : State) (j : Job) : Bool :=
  (j.hives.all fun h => (s.hiveAt h).waiting.all fun x => !j.cells.contains x.dst) &&
    s.copies.all fun c => c.stage == .completed || !(j.cells.contains c.issuer || j.cells.contains c.destCell)

/-- Job-wide totals of what cells have sent and absorbed (R357). -/
def State.totals (s : State) (j : Job) : Nat × Nat :=
  let sum (f : Hive → List (CellId × Nat)) : Nat :=
    j.cells.foldl (fun n g => n + (look (f (s.hiveAt (hiveOf g))) g).getD 0) 0
  (sum Hive.sent, sum Hive.absorbed)

/-- At least one firing of the job is parked at `FOLD`. -/
def State.anyFolded (s : State) (j : Job) : Bool :=
  j.cells.any fun g => (s.cellAt g).strands.toList.any fun t => t.run == .folded

/-! ### Digests (R380) -/

/-- Bits as bytes, bit i of byte i / 8. -/
def packBits (f : Nat → Bool) (start : Nat) : Nat → List Byte
  | 0 => []
  | n + 1 =>
    BitVec.ofNat 8 ((List.range 8).foldl (fun v k => if f (start + k) then v + 2 ^ k else v) 0) :: packBits f (start + 8) n

/-- The published content of a page homed in a hive. -/
def State.publishedBytes (s : State) (hive : Nat) (p : Page) : List Byte :=
  if p.base < 2 ^ 57 then s.cachedBytes (p.addr hive p.base) p.size
  else
    let o := p.base - scratchWindow
    Memory.bytes s.mem (scratchAddr (hive * 256 + o / 2 ^ 23) (o % 2 ^ 23)) p.size

def Job.homed (j : Job) (hive : Nat) (q : Page → Bool) : List Page :=
  sortBy Page.base (j.pages.filter fun p => p.mapped && p.homes.any (fun h => h.1 == hive) && q p)

/-- An address and the content of a page. -/
def State.pageDigest (s : State) (hive : Nat) (p : Page) : List Byte := toBytes p.base 8 ++ s.publishedBytes hive p

/-- The input of a cell digest (R380). -/
def State.cellDigestInput (s : State) (j : Job) (g : CellId) : List Byte :=
  let slots := (List.range 64).filter fun n => s.slotValid g n
  let state (n : Nat) : List Byte :=
    BitVec.ofNat 8 n :: Memory.bytes s.mem (tcmBase g + s.desc g n 4 % 2 ^ 19) ((s.cellAt g).slotDyn n).stateSize
  let held := j.homed (hiveOf g) fun p => (p.state == .live || p.state == .shadowed) && p.heldBy g
  toBytes j.step 8 ++ toBytes (lcidOf g) 2 ++ slots.flatMap state ++ Memory.bytes s.mem (zAddr g 0) 131072 ++
    packBits (fun i => s.zov.contains (zAddr g i / 8)) 0 2048 ++ held.flatMap (s.pageDigest (hiveOf g))

/-- A pen entry in the layout of R296. -/
def penWords (op : SteppedOp) : List Word :=
  let (kind, sub) := op.kind.codes
  let d0 := BitVec.ofNat 64 op.key
  let d1 := BitVec.ofNat 64 (sub * 2 ^ 60 + kind * 2 ^ 57 + op.target % 2 ^ 57)
  match op.kind with
  | .xam => [d0, d1, op.data, op.cmp, op.m2, op.m3, op.m4, 0]
  | .xst w => [d0, d1, BitVec.ofNat 64 (op.data.toNat % 2 ^ (8 * 2 ^ w.val)), op.cmp]
  | _ => [d0, d1, op.data, op.cmp]

/-- The entries of a hive's pen in sort order. -/
def Job.penOf (j : Job) (hive : Nat) : List SteppedOp :=
  sortBy SteppedOp.key ((j.pen.filter fun x => x.1 == hive).map (·.2))

/-- The input of a hive digest (R380). -/
def State.hiveDigestInput (s : State) (j : Job) (hive : Nat) : List Byte :=
  toBytes j.step 8 ++ (j.penOf hive).flatMap (fun op => (penWords op).flatMap fun v => toBytes v.toNat 8) ++
    (j.homed hive fun p => p.state == .landing).flatMap (s.pageDigest hive)

/-- The 128-bit digest of a byte string. -/
def digest (l : List Byte) : Nat := ofBytes (shake256 l 16)

/-- The rank of a hive within its replica's set (R379). -/
def Job.position (j : Job) (hive : Nat) : Nat := (j.hives.filter fun h => decide (h < hive)).length

/-- Every cell and hive digest of a replica: hive position, LCID or 4,096 for the hive, digest. -/
def State.digests (s : State) (j : Job) : List (Nat × Nat × Nat) :=
  (j.cells.map fun g => (j.position (hiveOf g), lcidOf g, digest (s.cellDigestInput j g))) ++
    j.hives.map fun h => (j.position h, 4096, digest (s.hiveDigestInput j h))

/-- The step digest (R380). -/
def Job.stepDigest (j : Job) : Nat := (j.digests.foldl (fun n d => n + d.2.2) 0) % 2 ^ 128

/-! ### The seal (R263, R357, R360, R361) -/

/-- One value under a rule of a reduction page (R360). -/
def Rule.combine (r : Rule) (a b : Word) : Word :=
  match r with
  | .add => a + b
  | .min => if a.slt b then a else b
  | .max => if a.slt b then b else a
  | .or => a ||| b
  | _ => b

/-- The page that holds a virtual address, with a mapping at a home hive. -/
def Job.homePage (j : Job) (hive va : Nat) : Option Page :=
  j.pages.find? fun p => p.mapped && p.covers hive va && p.homes.any fun h => h.1 == hive

def Job.ruleAt (j : Job) (va : Nat) : Rule := ((j.pages.find? fun p => p.covers 0 va).map fun p => p.rule).getD .add
def Job.homeOf (j : Job) (va : Nat) : Nat :=
  ((j.pages.find? fun p => p.covers 0 va).bind fun p => p.homes.head?.map (·.1)).getD 0

/-- Combine an entry into the partial of its hive and target (R360). -/
def addPartial (r : Rule) (hive target : Nat) (v : Word) : List Partial → List Partial
  | [] => [⟨hive, target, v, hive⟩]
  | p :: l =>
    if p.hive = hive && p.target = target then { p with value := Rule.combine r p.value v } :: l
    else p :: addPartial r hive target v l

/-- The partials of every hive's reduction buffer (R360). -/
def Job.formPartials (j : Job) : List Partial :=
  (sortBy (fun x : Nat × SteppedOp => x.2.key) j.redEntries).foldl
    (fun l x => addPartial (j.ruleAt x.2.target) x.1 x.2.target x.2.data l) []

/-- A cell that accepted a reduction entry has faulted or been fenced in the step (R361). -/
def State.reductionsAbort (s : State) (j : Job) : Bool :=
  j.redSlots.any fun x => j.faultedCells.contains x.1 || (s.cellAt x.1).fenced

/-- The seal (R263, R357): digests are taken, partials set out, and every hive's apply starts. -/
def State.seal (s : State) (n : Nat) (j : Job) : State :=
  let ab := s.reductionsAbort j
  let ps := if ab then [] else j.formPartials
  let j := { j with phase := .apply, doneHives := [], gather := none, partials := ps, undo := [],
                    figures := { j.figures with redAborted := ab },
                    digests := if j.group = 0 then [] else s.digests j }
  let s := s.setJob n j
  let s := ps.foldl (fun s p => if p.hive = j.homeOf p.target then s
    else s.push (.reductionPartialArrival n p.hive p.target)) s
  j.hives.foldl (fun s h => s.push (.foldApply n h)) s

/-- FOLD_GATHER (R263, R356, R357): two successive gathers that find every cell quiet, with equal totals that do not
change between them, seal the step. A stopped job does not seal (R370). -/
def execFoldGather (n : Nat) (s : State) : Host.Outcome State Fault Refusal :=
  .next (match s.jobAt n with
    | none => s
    | some j =>
      if j.phase != .open || j.ended || !s.anyFolded j then s
      else if j.stopped then s.stillPending (.foldGather n)
      else if j.cells.all (fun g => s.cellQuiet g) && s.nothingWaits j then
        let t := s.totals j
        if j.gather = some t ∧ t.1 = t.2 then s.seal n j
        else (s.setJob n { j with gather := some t }).stillPending (.foldGather n)
      else (s.setJob n { j with gather := none }).stillPending (.foldGather n))

/-! ### Reduction partials on their way (R354, R360) -/

/-- The port of a hive whose link leads to another hive of its row or column (R353; log entry 43). -/
def portTo (a b : Nat) : Option Nat :=
  let rank (x y : Nat) : Nat := if y < x then y else y - 1
  if a = b then none
  else if a / 8 = b / 8 then some (rank (a % 8) (b % 8))
  else if a % 8 = b % 8 then some (8 + rank (a / 8) (b / 8))
  else none

/-- The hive at the other end of a port's link (R353). -/
def portPeer (a p : Nat) : Nat :=
  let other (x k : Nat) : Nat := if k < x then k else k + 1
  if p < 8 then a / 8 * 8 + other (a % 8) p else other (a / 8) (p - 8) * 8 + a % 8

/-- The route table takes the link that joins two hives as working at both ends (R354). -/
def State.linkWorks (s : State) (a b : Nat) : Bool :=
  match portTo a b, portTo b a with
  | some p, some q => !(s.hiveAt a).offLinks.contains p && !(s.hiveAt b).offLinks.contains q
  | _, _ => false

/-- The minimal route, or the one that turns at the other corner, as the hives that it reaches (R354). -/
def State.shortRoute (s : State) (a b : Nat) : Option (List Nat) :=
  let first := a / 8 * 8 + b % 8
  let other := b / 8 * 8 + a % 8
  if a = b then some []
  else if (portTo a b).isSome then (if s.linkWorks a b then some [b] else none)
  else if s.linkWorks a first && s.linkWorks first b then some [first, b]
  else if s.linkWorks a other && s.linkWorks other b then some [other, b]
  else none

/-- The route round a lost link through hive `x` (R354; log entry 43). -/
def State.routeVia (s : State) (a b x : Nat) : Option (List Nat) :=
  if x = a || x = b || !s.linkWorks a x then none
  else if (portTo a b).isSome then (if s.linkWorks x b then some [x, b] else none)
  else (s.shortRoute x b).map fun r => x :: r

/-- The route of a packet: minimal, or the drovers' detour through the lowest-numbered hive that has one (R354). -/
def State.fabricRoute (s : State) (a b : Nat) : List Nat :=
  match s.shortRoute a b with
  | some r => r
  | none => ((List.range 64).findSome? (s.routeVia a b)).getD [b]

/-- The next hive on the route (R354). -/
def State.nextHop (s : State) (a b : Nat) : Nat := ((s.fabricRoute a b).head?).getD b

/-- A partial reaches a hive: it joins the partial there, in ascending order of their lowest source hives. -/
def joinPartial (r : Rule) (p : Partial) : List Partial → List Partial
  | [] => [p]
  | q :: l =>
    if q.hive = p.hive && q.target = p.target then
      (if q.low ≤ p.low then ⟨q.hive, q.target, Rule.combine r q.value p.value, q.low⟩
       else ⟨q.hive, q.target, Rule.combine r p.value q.value, p.low⟩) :: l
    else q :: joinPartial r p l

/-- REDUCTION_PARTIAL_ARRIVAL (R360): a partial goes one hop towards the home hive and is combined there. -/
def execReductionPartialArrival (n hive target : Nat) (s : State) : Host.Outcome State Fault Refusal :=
  .next (match s.jobAt n with
    | none => s
    | some j =>
      let home := j.homeOf target
      match j.partials.find? fun p => p.hive == hive && p.target == target with
      | none => s
      | some p =>
        if hive = home || j.phase != .apply then s
        else
          let next := s.nextHop hive home
          let rest := j.partials.filter fun q => !(q.hive == hive && q.target == target)
          let s := s.setJob n { j with partials := joinPartial (j.ruleAt target) { p with hive := next } rest }
          if next = home then s else s.stillPending (.reductionPartialArrival n next target))

/-! ### The apply (R264, R265) -/

/-- What an apply carries along. -/
structure Apply where
  s : State
  hive : Nat
  /-- bytes of landing pages before the apply, by virtual address -/
  pre : List (Nat × Byte)
  /-- entries that have written a byte -/
  nw : List (Nat × Nat)
  failed : Nat
  faddr : Nat
  applied : Nat
  results : List XamoResult
  xam : List (Nat × SteppedOp)
  /-- ordered streams that have faulted: source cell, slot, atomics aborted so far -/
  broken : List (CellId × Nat × Nat)
  undo : List (Nat × Word × Bool)
  deriving DecidableEq, Repr

def Apply.start (s : State) (hive : Nat) : Apply := ⟨s, hive, [], [], 0, 2 ^ 64 - 1, 0, [], [], [], []⟩

/-- Keep the bytes before the apply. -/
def keepPre (va : Nat) : List Byte → List (Nat × Byte) → List (Nat × Byte)
  | [], l => l
  | b :: r, l => keepPre (va + 1) r (if (look l va).isSome then l else put l va b)

/-- Write bytes of a landing page at their home, with what R264 and R381 keep of the value before. -/
def Apply.write (a : Apply) (p : Page) (va : Nat) (d : List Byte) : Apply :=
  let loc := p.addr a.hive va
  let dw := loc / 8 * 8
  let old := BitVec.ofNat 64 (ofBytes (a.s.cachedBytes dw 8))
  { a with s := a.s.cachedWrite loc d, pre := keepPre va (a.s.cachedBytes loc d.length) a.pre,
           undo := if a.undo.any fun u => u.1 == dw then a.undo else (dw, old, a.s.cachedMark dw) :: a.undo }

/-- The doubleword that an entry combines with; one that cannot be read has no value, and a free value stands for it (log
entry 6). -/
def Apply.old (a : Apply) (loc : Nat) : Word × Apply :=
  if a.s.unreadable loc then
    let (v, s) := a.s.takeFree
    (v, { a with s := s })
  else (BitVec.ofNat 64 (ofBytes (a.s.cachedBytes loc 8)), a)

/-- Count an entry whose target fails translation (R264, R267). -/
def Apply.fail (a : Apply) (va : Nat) : Apply := { a with failed := a.failed + 1, faddr := min a.faddr va }

def Apply.countBytes (a : Apply) (va n : Nat) : Apply :=
  { a with nw := (List.range n).foldl (fun l k => put l (va + k) ((look l (va + k)).getD 0 + 1)) a.nw, applied := a.applied + 1 }

/-- The new bytes of `rulewrite` (R265). -/
def ruleBytes (r : Rule) (nw : List (Nat × Nat)) (va : Nat) (old new : List Byte) : List Byte :=
  (List.range new.length).map fun k =>
    let o := (old[k]?).getD 0
    let v := (new[k]?).getD 0
    match r with
    | .or => o ||| v
    | .first => if (look nw (va + k)).getD 0 = 0 then v else o
    | _ => v

/-- An `XST` or `XFLAG` of `n` bytes on its page (R265). -/
def Apply.ruleWrite (a : Apply) (p : Page) (va n : Nat) (v : Word) : Apply :=
  let loc := p.addr a.hive va
  let full := n == 8 && (Rule.wideOnly p.rule || p.rule == .or)
  let (old, a) := if full then a.old loc else (0, a)
  let bytes := if full then toBytes (Rule.combine p.rule old v).toNat 8
    else ruleBytes p.rule a.nw va (a.s.cachedBytes loc n) (toBytes v.toNat n)
  (a.write p va bytes).countBytes va n

/-- An operation that a hive's revision lacks (R245). -/
def lacksOp (rev : Nat) (op : Aop) : Bool :=
  rev == 1 && !(match op with
    | .swap | .add | .cas => true
    | _ => false)

/-- The result record of an `XAMO` (R244). -/
def xamoResult (x : SteppedOp) (hive cause num : Nat) (old : Word) : XamoResult :=
  ⟨x.src, x.record, if cause = 0 then old else BitVec.ofNat 64 x.target,
    BitVec.ofNat 64 (hive * 2 ^ 48 + num % 2 ^ 32 * 2 ^ 16 + cause)⟩

/-- Later ordered atomics of the same stream (R245). -/
def laterOrdered (x : SteppedOp) (l : List SteppedOp) : Nat :=
  (l.filter fun y => y.src == x.src && y.slot == x.slot && match y.kind with
    | .xamo _ o => o
    | _ => false).length

/-- Perform an atomic at its sorted position (R244, R245); `later` are the entries after it. -/
def Apply.xamo (a : Apply) (x : SteppedOp) (op : Aop) (ord : Bool) (later : List SteppedOp) : Apply :=
  let stream := if ord then a.broken.find? fun b => b.1 == x.src && b.2.1 == x.slot else none
  let page := (a.s.jobAt x.job).bind fun j => j.homePage a.hive x.target
  let a := if page.isNone then a.fail x.target else a
  let ends (a : Apply) (cause num : Nat) (old : Word) : Apply :=
    { a with results := a.results ++ [xamoResult x a.hive cause num old] }
  match stream with
  | some (g, n, k) =>
    ends { a with broken := (g, n, k + 1) :: a.broken.filter fun b => !(b.1 == g && b.2.1 == n) } 0x1A (k + 1) 0
  | none =>
    let faults (cause : Nat) : Apply :=
      if ord then ends { a with broken := (x.src, x.slot, 0) :: a.broken } cause (laterOrdered x later) 0
      else ends a cause 0 0
    match page with
    | none => faults 0x05
    | some p =>
      if lacksOp (a.s.hiveAt a.hive).rev op then faults 0x16
      else
        let (old, a) := a.old (p.addr a.hive x.target)
        let new := aopNew op 0 old.toNat x.data.toNat x.cmp.toNat
        let a := a.write p x.target (toBytes new 8)
        ends { a with applied := a.applied + 1 } 0 0 old

/-- The data pass (R264). -/
def Apply.data (a : Apply) : List SteppedOp → Apply
  | [] => a
  | x :: r =>
    let a := match x.kind with
      | .xflag => a
      | .xam => { a with xam := a.xam ++ [(x.home, x)], applied := a.applied + 1 }
      | .xamo op ord => a.xamo x op ord r
      | .xst w =>
        match (a.s.jobAt x.job).bind fun j => j.homePage a.hive x.target with
        | some p => a.ruleWrite p x.target (2 ^ w.val) x.data
        | none => a.fail x.target
    a.data r

/-- The flag pass (R248, R264). -/
def Apply.flags (a : Apply) : List SteppedOp → Apply
  | [] => a
  | x :: r =>
    let a := if x.kind.isFlag then
        match (a.s.jobAt x.job).bind fun j => j.homePage a.hive x.target with
        | some p => a.ruleWrite p x.target 8 x.data
        | none => a.fail x.target
      else a
    a.flags r

/-- The partials that have reached their home are written before the data pass (R360). -/
def Apply.reductions (a : Apply) (j : Job) : List Partial → Apply
  | [] => a
  | p :: r =>
    let a := match j.homePage a.hive p.target with
      | none => a.fail p.target
      | some pg =>
        let (old, a) := a.old (pg.addr a.hive p.target)
        let a := a.write pg p.target (toBytes (Rule.combine pg.rule old p.value).toNat 8)
        { a with applied := a.applied + 1 }
    a.reductions j r

/-- Bytes of pages under `UNIQUE` that two or more entries wrote go back (R264, R265): the addresses in conflict. -/
def Apply.conflicts (a : Apply) (j : Job) : List Nat :=
  (a.nw.filter fun b => decide (2 ≤ b.2) && ((j.homePage a.hive b.1).map fun p => p.rule == .unique).getD false).map (·.1)

def Apply.restore (a : Apply) (j : Job) : List Nat → Apply
  | [] => a
  | va :: r =>
    let a := match j.homePage a.hive va, look a.pre va with
      | some p, some b => { a with s := a.s.cachedWrite (p.addr a.hive va) [b] }
      | _, _ => a
    a.restore j r

/-- The apply of one hive (R264, R360). -/
def State.applyHive (s : State) (n : Nat) (j : Job) (hive : Nat) : State :=
  let l := j.penOf hive
  let a := Apply.start s hive
  let a := a.reductions j (sortBy Partial.target (j.partials.filter fun p => p.hive == hive))
  let a := (a.data l).flags l
  let bad := a.conflicts j
  let a := a.restore j bad
  let f := j.figures
  a.s.setJob n { j with
    doneHives := hive :: j.doneHives
    figures := { f with failed := f.failed + a.failed, conflicts := f.conflicts + bad.length,
                        caddr := bad.foldl min f.caddr, faddr := min f.faddr a.faddr, applied := f.applied + a.applied }
    xamoResults := j.xamoResults ++ a.results, xamList := j.xamList ++ a.xam
    undo := if j.group = 0 then [] else a.undo ++ j.undo }

/-- Every hive of the job has done its part of the phase. -/
def Job.allDone (j : Job) : Bool := j.hives.all fun h => j.doneHives.contains h

/-- An entry of the hive's pen is uncorrectable: the apply stops before it changes a page, and the fold is not released
(R294; log entry 59). -/
def Job.penBad (j : Job) (hive : Nat) : Bool := (j.penOf hive).any fun op => j.badPen.contains (hive, op)

/-- APPLY (R264, R358): the home hive first waits for every partial that is to reach it (R360). -/
def execFoldApply (n hive : Nat) (s : State) : Host.Outcome State Fault Refusal :=
  .next (match s.jobAt n with
    | none => s
    | some j =>
      if j.phase != .apply || !j.hives.contains hive || j.doneHives.contains hive then s
      else if j.stopped || j.partials.any (fun p => p.hive != hive && j.homeOf p.target == hive) then
        s.stillPending (.foldApply n hive)
      else if j.penBad hive then (s.haltJob n 1).stillPending (.foldApply n hive)
      else
        let s := s.applyHive n j hive
        if ((s.jobAt n).map Job.allDone).getD false then s.push (.applyDone n) else s)

/-! ### Replicas (R379-R382) -/

/-- The figures of a step before its fold. -/
def FoldFigures.none : FoldFigures := ⟨0, 0, 2 ^ 64 - 1, 2 ^ 64 - 1, 0, 0, false⟩

/-- Start the install (R358): the undo log is discarded. -/
def State.startInstall (s : State) (n : Nat) : State :=
  match s.jobAt n with
  | none => s
  | some j =>
    let s := s.setJob n { j with phase := .install, doneHives := [], undo := [] }
    j.hives.foldl (fun s h => s.push (.install n h)) s

/-- What one replica's root knows of another at a fold: nothing yet, that it differs, or its step digest. -/
inductive ReplicaView where
  | waiting
  | differs
  | digest (d : Nat)
  deriving DecidableEq, Repr

/-- The replicas of a group that still take part. -/
def State.replicas (s : State) (group : Nat) : List (Nat × Job) := s.jobs.filter fun x => x.2.group == group && !x.2.ended

/-- How a replica shows at a fold (R381). -/
def replicaView (l : List (Nat × Job)) (n : Nat) (j : Job) : ReplicaView :=
  if j.halted.isSome || j.differed || l.any (fun x => x.2.lateRoots.contains n) then .differs
  else if j.phase = .applied then .digest j.stepDigest
  else .waiting

/-- Restore the values and the marks of an undo log (R381, R382). -/
def State.undoApply (s : State) (n : Nat) : State :=
  match s.jobAt n with
  | none => s
  | some j =>
    let s := j.undo.foldl (fun s u =>
      let s := s.cachedWrite u.1 (toBytes u.2.1.toNat 8)
      if u.2.2 then s.markAt u.1 else s) s
    s.setJob n { j with undo := [] }

/-- The order in which digests are compared (R381). -/
def digestKey (d : Nat × Nat × Nat) : Nat := if d.2.1 = 4096 then 2 ^ 32 + d.1 else d.1 * 2 ^ 12 + d.2.1

/-- The first digest that differs from another replica's (R381, R388): REPLREP. -/
def replicaReport (j o : Job) : List Word :=
  let other (d : Nat × Nat × Nat) : Nat := ((o.digests.find? fun e => e.1 == d.1 && e.2.1 == d.2.1).map fun e => e.2.2).getD 0
  match (sortBy digestKey j.digests).find? fun d => other d != d.2.2 with
  | none => [0, 0, 0, 0, 0]
  | some d =>
    let head := if d.2.1 = 4096 then 2 ^ 63 + d.1 % 64 * 2 ^ 56 else d.1 % 64 * 2 ^ 56 + d.2.1
    [BitVec.ofNat 64 head, BitVec.ofNat 64 d.2.2, BitVec.ofNat 64 (d.2.2 / 2 ^ 64),
     BitVec.ofNat 64 (other d), BitVec.ofNat 64 (other d / 2 ^ 64)]

/-- The replica with which a report compares: of the others, the one whose root has the lowest number. -/
def otherReplica (l : List (Nat × Job)) (n : Nat) : Option Job :=
  ((sortBy (fun x : Nat × Job => x.2.root) (l.filter fun x => x.1 != n)).head?).map (·.2)

/-- Post a replica's report in the registers of its root. -/
def State.postReport (s : State) (l : List (Nat × Job)) (n : Nat) : State :=
  match s.jobAt n, otherReplica l n with
  | some j, some o => s.setHive j.root { s.hiveAt j.root with replrep := replicaReport j o }
  | _, _ => s

/-- The step of a replica that has restored its values goes on before its seal, its pens and REDAB as they were (R382). -/
def Job.reopen (j : Job) : Job :=
  { j with phase := .open, doneHives := [], gather := none, partials := [], xamoResults := [], xamList := [], undo := [],
           digests := [], differed := false, lateRoots := []
           figures := { FoldFigures.none with penUsed := j.figures.penUsed, redAborted := j.figures.redAborted } }

def State.reopenStep (s : State) (n : Nat) : State :=
  match s.jobAt n with
  | none => s
  | some j => s.setJob n j.reopen

/-- A replica that is not deemed correct restores its undo log, reports and halts (R381). -/
def State.haltReplica (s : State) (l : List (Nat × Job)) (n : Nat) : State :=
  (((s.undoApply n).postReport l n).haltJob n 6).reopenStep n

/-- A cell that leaves its job. -/
def Cell.leaveJob (c : Cell) : Cell :=
  { Cell.reset with tcmpwr := c.tcmpwr, engctr := c.engctr, banks := c.banks, joins := c.joins, ports := c.ports,
                    pmask := c.pmask, schedcfg := c.schedcfg, nextId := c.nextId, fenced := c.fenced }

/-- The happening concerns a cell of a list. -/
def Instr.ofCells (l : List CellId) : Instr → Bool
  | .longLatencyResult g _ _ | .storeAcknowledgement g _ _ | .engineInstructionStart g _ | .engineInstructionRetire g _
  | .frameActivate g | .frameOpen g _ | .mailboxSpillEnter g | .streamBlockArrival g _ | .parkedStrandResume g _
  | .waitbtExpiry g _ | .watchdog g _ | .watchdogHandlerExpiry g _ | .feRetry g _ | .swarmClaimGrant g _
  | .inputAdvance g _ | .allowanceReturn g _ | .firingChoice g _ | .firingBind g _ | .strandFree g _ => l.contains g
  | .barrierArrival a => l.contains a.src || l.contains a.unitCell
  | .inputArrival i | .sortedEventAbsorb i => l.contains i.dst
  | .taskReturnArrival r => l.contains r.parent
  | .steppedOpAccept op => l.contains op.src
  | _ => false

/-- Close every open frame of a cell, as `FPRE` does (R305). -/
def State.closeFrames (s : State) (g : CellId) : State :=
  ([0, 1, 2, 3] : List (Fin 4)).foldl (fun s p => if (s.port g p).isOpen then s.closePort g p .closed else s) s

/-- A cell gives its frame banks back (R192, R305). -/
def State.dropGrants (s : State) (p : CellPlan) : State :=
  p.grants.foldl (fun s b => s.setFrameBank (combOf p.cell) b { s.frameBank (combOf p.cell) b with grant := none }) s

/-- A job leaves the machine: its cells are empty, and nothing of it is on its way (R305, R381). -/
def State.removeJob (s : State) (n : Nat) : State :=
  match s.jobAt n with
  | none => s
  | some j =>
    let s := j.plans.foldl State.dropGrants (j.cells.foldl State.closeFrames s)
    let s := j.cells.foldl (fun s g => s.setCell g (s.cellAt g).leaveJob) s
    let s := j.hives.foldl (fun s h =>
      let v := s.hiveAt h
      s.setHive h { v with waiting := v.waiting.filter fun x => !j.cells.contains x.dst
                           sorted := v.sorted.filter fun i => !j.cells.contains i.dst
                           sent := v.sent.filter fun x => !j.cells.contains x.1
                           absorbed := v.absorbed.filter fun x => !j.cells.contains x.1 }) s
    let s := { s with copies := s.copies.filter fun c => !j.cells.contains c.issuer }
    let s := s.withdraw (Instr.ofCells j.cells)
    s.setJob n { j with ended := true }

/-- The third replica is fenced: its hives leave the job, its state is discarded and the host is told (R381). -/
def State.fenceReplica (s : State) (l : List (Nat × Job)) (n : Nat) : State := (s.haltReplica l n).removeJob n

/-- The replicas of a list that show a digest. -/
def sameDigest (l : List (Nat × Job)) (d : Nat) : List Nat :=
  (l.filter fun x => replicaView l x.1 x.2 == .digest d).map (·.1)

/-- The decision of the roots (R381), once every replica has shown itself. -/
def State.replicaDecide (s : State) (group : Nat) : State :=
  let l := s.replicas group
  if l.any fun x => replicaView l x.1 x.2 == .waiting then s
  else
    let best := l.foldl (fun b x => match replicaView l x.1 x.2 with
      | .digest d => if b.length < (sameDigest l d).length then sameDigest l d else b
      | _ => b) []
    if best.length = l.length then best.foldl State.startInstall s
    else if l.length = 3 && best.length == 2 then
      let s := (l.filter fun x => !best.contains x.1).foldl (fun s x => s.fenceReplica l x.1) s
      best.foldl State.startInstall s
    else l.foldl (fun s x => s.haltReplica l x.1) s

/-- APPLY_DONE (R358, R381): the install starts; with replicas, the roots first exchange their step digests. -/
def execApplyDone (n : Nat) (s : State) : Host.Outcome State Fault Refusal :=
  .next (match s.jobAt n with
    | none => s
    | some j =>
      if j.phase != .apply || !j.allDone then s
      else if j.stopped then s.stillPending (.applyDone n)
      else if j.group = 0 then s.startInstall n
      else
        let s := s.setJob n { j with phase := .applied, appliedAt := s.now }
        (s.push (.replicaDigestTimeout n)).replicaDecide j.group)

/-- REPLICA_DIGEST_TIMEOUT (R381): replicas whose digest has not come within 2^24 cycles of this root's own count as
differing. -/
def execReplicaDigestTimeout (n : Nat) (s : State) : Host.Outcome State Fault Refusal :=
  .next (match s.jobAt n with
    | none => s
    | some j =>
      if j.phase != .applied || j.ended || j.halted.isSome then s
      else if s.now < j.appliedAt + 2 ^ 24 then s.stillPending (.replicaDigestTimeout n)
      else
        let late := ((s.replicas j.group).filter fun x => x.2.phase != .applied).map (·.1)
        (s.setJob n { j with lateRoots := late }).replicaDecide j.group)

/-! ### The install (R266, R267) -/

/-- The fold status block (R267). -/
def Job.statusWords (j : Job) : List Word :=
  let f := j.figures
  let sat (v : Nat) : Nat := min v (2 ^ 32 - 1)
  let bit (b : Bool) (n : Nat) : Nat := if b then 2 ^ n else 0
  [BitVec.ofNat 64 (j.step + 1), BitVec.ofNat 64 (sat f.failed * 2 ^ 32 + sat f.conflicts), BitVec.ofNat 64 f.caddr,
   BitVec.ofNat 64 f.faddr, BitVec.ofNat 64 f.applied, BitVec.ofNat 64 f.penUsed,
   BitVec.ofNat 64 (bit f.redAborted 2 + bit (f.failed != 0) 1 + bit (f.conflicts != 0) 0), 0]

/-- Write doublewords from a location. -/
def State.cachedWords (s : State) (loc : Nat) : List Word → State
  | [] => s
  | v :: r => (s.cachedWrite loc (toBytes v.toNat 8)).cachedWords (loc + 8) r

/-- Write a hive's copy of the fold status block (R267). -/
def State.writeStatus (s : State) (j : Job) (hive : Nat) : State :=
  match j.homePage hive statusPage with
  | some p => s.cachedWords (p.addr hive statusPage) j.statusWords
  | none => s

/-- The input that an `XAM` entry becomes (R247). -/
def xamInput (op : SteppedOp) : Input :=
  let v := op.data.toNat
  { dst := op.home * 4096 + v % 4096, slot := v / 2 ^ 18 % 64, kind := .message, net := .ev, w1 := op.cmp, w2 := op.m2,
    w3 := op.m3, w4 := op.m4, src := op.src, srcSlot := op.slot, seq := op.seq, cls := .add, edge := 0, charged := false,
    pathLo := 0, pathHi := 0, depth := 0, link := 0, hostTag := none }

/-- The install appends an input to its slot (R266), or refuses it (R225); one that is held up on its way to its ring or its
held event (R272, R286) waits in its cell's lane, ahead of every later input of the slot (R348). It counts as sent here, and as
absorbed with its arrival, so the totals stay equal (R357). -/
def State.installInput (s : State) (i : Input) : State :=
  let i := { i with charged := false }
  let s := s.countSent i.dst
  if s.arrivalFails i true then s.refuseInput i
  else if s.arrivalWaits i then (s.enterStage i .lane true).stillPending (.inputAdvance i.dst i.slot)
  else s.deliver i

/-- The `SORTED` events of a hive for a job's cells, in sort-key order, leave the sorted store. -/
def State.installSorted (s : State) (j : Job) (hive : Nat) : State :=
  let h := s.hiveAt hive
  let mine := h.sorted.filter fun i => j.cells.contains i.dst
  let s := s.setHive hive { h with sorted := h.sorted.filter fun i => !j.cells.contains i.dst }
  (sortBy Input.key mine).foldl State.installInput s

/-- Renew a cell's pen allotment and start its sequences again (R242). -/
def Cell.renewPen (c : Cell) : Cell :=
  { c with penLeft := c.penAllot, slots := c.slots.map fun x => (x.1, { x.2 with stepSeq := 0 }) }

/-- Write the result records of a hive's cells (R244, R266). -/
def State.writeResults (s : State) (l : List XamoResult) : State :=
  l.foldl (fun s r => (s.touch r.cell r.record).writeTcmWords r.cell r.record [r.first, r.status]) s

/-- The bank of a result record that a hive's install writes is being zeroed (R272). -/
def State.resultsHeld (s : State) (j : Job) (hive : Nat) : Bool :=
  (j.xamoResults.filter fun r => hiveOf r.cell == hive).any fun r => (s.cellAt r.cell).meetsZeroing r.record 16

/-- The hive is the first home of the page, where its requests take effect. -/
def homedAt (p : Page) (hive : Nat) : Bool := (p.homes.head?.map fun h => h.1 == hive).getD false

/-- A store that `DONE.nw` left behind is still to be performed to a page of the hive that is to change its state: the page
keeps its content from the open on (R262). -/
def State.storesHeld (s : State) (j : Job) (hive : Nat) : Bool :=
  (j.pages.filter fun p => homedAt p hive && p.request.isSome).any fun p => j.cells.any fun g => (s.cellAt g).storesTo p

/-- The install of one hive, in the order of R266. -/
def State.installHive (s : State) (n : Nat) (j : Job) (hive : Nat) : State :=
  let s := s.writeResults (j.xamoResults.filter fun r => hiveOf r.cell == hive)
  let pages := j.pages.map fun p => if homedAt p hive then p.takeRequest else p
  let j' := { j with doneHives := hive :: j.doneHives, pages := pages }
  let s := (s.setJob n j').installSorted j hive
  let xams := (j.xamList.filter fun x => x.1 == hive).map (·.2)
  let s := ((sortBy SteppedOp.key xams).map xamInput).foldl State.installInput s
  let s := s.writeStatus j hive
  (j.cells.filter fun g => hiveOf g == hive).foldl (fun s g => s.setCell g (s.cellAt g).renewPen) s

/-- INSTALL (R266); no hive installs while the job is halted (R371), nor while a bank that it writes is being zeroed (R272) or
a store is under way to a page that changes its state (R262; log entry 13). -/
def execInstall (n hive : Nat) (s : State) : Host.Outcome State Fault Refusal :=
  .next (match s.jobAt n with
    | none => s
    | some j =>
      if j.phase != .install || !j.hives.contains hive || j.doneHives.contains hive then s
      else if j.stopped || s.resultsHeld j hive || s.storesHeld j hive then s.stillPending (.install n hive)
      else
        let s := s.installHive n j hive
        if ((s.jobAt n).map Job.allDone).getD false then s.push (.installDone n) else s)

/-- INSTALL_DONE (R358): the root broadcasts the release. -/
def execInstallDone (n : Nat) (s : State) : Host.Outcome State Fault Refusal :=
  .next (match s.jobAt n with
    | none => s
    | some j =>
      if j.phase != .install || !j.allDone then s
      else if j.stopped then s.stillPending (.installDone n)
      else (s.setJob n { j with phase := .installed }).push (.release n))

/-! ### The release (R266, R268, R361) -/

/-- The job in the step that the release opens. -/
def Job.nextStep (j : Job) : Job :=
  { j with step := j.step + 1, phase := .open, doneHives := [], gather := none, pen := [], redEntries := [], partials := [],
           faultedCells := [], redSlots := [], figures := FoldFigures.none, xamoResults := [], xamList := [],
           badPen := [], undo := [], differed := false, digests := [], lateRoots := [], stallSince := none }

/-- A strand that is parked at `FOLD` goes on, or takes `REDUCTION_ABORTED` (R249, R361); a stepped operation that parked
is issued again (R242). -/
def State.releaseStrand (s : State) (j : Job) (g : CellId) (k : StrandId) : State :=
  let t := s.strandAt g k
  match t.run with
  | .folded =>
    let cut := j.figures.redAborted && j.redSlots.contains (g, t.slotNo)
    s.on g k fun s =>
      if cut then s.raise ⟨.reductionAborted, BitVec.ofNat 64 (j.step + 1), 0, 0, 0, 0⟩ else s.retire
  | .parked i => if i.isStepped then s.stillPending (.parkedStrandResume g k) else s
  | _ => s

/-- RELEASE (R28, R266, R364): STEP increments, strands resume, and the bridge writes the fold record. -/
def execRelease (n : Nat) (s : State) : Host.Outcome State Fault Refusal :=
  .next (match s.jobAt n with
    | none => s
    | some j =>
      if j.phase != .installed then s
      else if j.stopped then s.stillPending (.release n)
      else
        let s := s.setJob n j.nextStep
        let s := j.cells.foldl (fun s g =>
          (([0, 1, 2, 3] : List StrandId).foldl (fun s k => s.releaseStrand j g k) s).offer g) s
        let w := j.statusWords
        s.postRecord j.root ⟨0, 2, 0, w.headD 0, (w[6]?).getD 0, []⟩)

/-! ### The seal stall (R378) -/

/-- Every strand of the cell holds a firing that is FOLDED or awaits the drover; `aged` asks that those which await have
done so for 2^20 cycles. -/
def State.allHeld (s : State) (g : CellId) (aged : Bool) : Bool :=
  (s.cellAt g).strands.toList.all fun t => match t.run with
    | .folded => true
    | .awaiting .. => !aged || decide (t.since + 2 ^ 20 ≤ s.now)
    | _ => false

def State.cellStalls (s : State) (g : CellId) (aged : Bool) : Bool := s.allHeld g aged && (s.hasCand g || !(s.cellAt g).switched.isEmpty)

/-- The condition of R378. -/
def State.stalls (s : State) (j : Job) : Bool :=
  j.cells.all (fun g => s.cellQuiet g || s.cellStalls g true) && j.cells.any fun g => s.cellStalls g true

/-- SEAL_STALL (R378): the job is halted when the condition has held for 2^20 cycles. -/
def execSealStall (n hive : Nat) (s : State) : Host.Outcome State Fault Refusal :=
  .next (match s.jobAt n with
    | none => s
    | some j =>
      let again (s : State) : State := s.stillPending (.sealStall n hive)
      if j.phase != .open || j.ended || j.stopped || !j.hives.contains hive then s
      else if s.stalls j then
        match j.stallSince with
        | none => again (s.setJob n { j with stallSince := some s.now })
        | some t => if s.now < t + 2 ^ 20 then again s else s.haltJob n 3
      else
        let s := if j.stallSince.isSome then s.setJob n { j with stallSince := none } else s
        if j.cells.any fun g => s.cellStalls g false then again s else s)

end Sys2Proof.Machine
end

