-- ==== Sys2Proof/Machine/Happenings.lean ====
section
/-! DEFINITION. What comes about by itself in a cell and its memories: parked strands, the watchdog, cache and slice
fills, and the power states of banks (R35, R42, R218, R272, R273, R280, R284). -/

namespace Sys2Proof.Machine

/-! ### Parked strands (R218) -/

/-- A parked strand whose wait is over goes on; one whose wait is not over stays parked. -/
def State.resumeParked (s : State) (i : Instr) : State :=
  match i with
  | .waitm d => (s.takeMail d).getD s
  | .fork a n => (s.tryFork a n).getD s
  | .join d a => if s.zeroHeld s.curCell (s.w a).toNat 32 then s.stillPending (.parkedStrandResume s.curCell s.curStrand)
    else (s.tryJoin d a).getD s
  | .arrive _ | .arriveRemote .. | .arriveb .. | .arrivebRemote .. => if s.me.note = 1 then s.retire else s
  | .waitb _ => if s.me.note = waitMet then s.retire else s
  | .waitbt .. => if s.me.note = waitMet then (s.setCf false).retire else s
  | .stfe .. => if s.me.note = 0 then s.retire else s
  | .swarm _ => s.formSwarm
  | i => if i.isStepped then s.setMe { s.me with run := .issuing } else s

/-- PARKED_STRAND_RESUME (R218); a firing that the drover has ended looks again whether it can end (R368). -/
def execParkedStrandResume (g : CellId) (k : StrandId) (s : State) : Host.Outcome State Fault Refusal :=
  .next (match (s.strandAt g k).run with
    | .parked i => s.on g k fun s => s.resumeParked i
    | .ending => s.on g k State.endDrained
    | _ => s)

/-! ### The watchdog (R35, R42, R97, R175) -/

/-- The bundle of an address in the fetch buffer. -/
def Strand.buffered (t : Strand) (a : Nat) : Option Word := (t.buf.find? fun b => b.1 == a).map (·.2)

/-- Word 0 of a pair has gone, and word 1 follows in the same slot, with no boundary between them (R85, R97). -/
def Strand.midPair (t : Strand) : Bool :=
  t.run == .issuing && t.pc % 8 == 4 && t.replay.isNone &&
    ((t.buffered (t.pc / 8 * 8)).map fun b => !b.getLsbD 31).getD false

/-- The arrival of the instruction at which the strand is parked has been counted, and the other word of its pair must wait
(R85). -/
def Strand.arrived (t : Strand) : Bool :=
  t.note == 1 && match t.run with
    | .parked (.arrive _) | .parked (.arriveRemote ..) | .parked (.arriveb ..) | .parked (.arrivebRemote ..) => true
    | _ => false

/-- A window is open whose words can issue: the strand neither is parked nor parked at a word that waits for a request at
its bank (R97, R218). -/
def Strand.windowOpen (t : Strand) : Bool :=
  t.amov.isSome || t.midPair || t.arrived || ((match t.run with
    | .parked _ => false
    | _ => true) && t.longs.any (fun o => o.left != 0) && !(t.stuck && t.longs.any fun o => o.atBank))

/-- The strand can be struck between instructions: it issues, is parked, but not at `FOLD`, or drains at the end of its firing. -/
def Strand.strikable (t : Strand) : Bool :=
  match t.run with
  | .issuing | .parked _ | .ending => !t.windowOpen
  | _ => false

/-- The strand that answers for a member of a swarm: its leader (R175). -/
def State.answering (s : State) (g : CellId) (k : StrandId) : CellId × StrandId :=
  match (s.strandAt g k).swarm with
  | some w => if (s.strandAt g k).isFollower then (w.leaderCell, w.leaderStrand) else (g, k)
  | none => (g, k)

/-- WATCHDOG (R35, R44): LEFT has reached zero in user mode, and the strand is at a boundary. -/
def execWatchdog (g : CellId) (k : StrandId) (s : State) : Host.Outcome State Fault Refusal :=
  .next (
    let x := s.answering g k
    let t := s.strandAt x.1 x.2
    if t.left != 0 || t.sv || t.firing.isNone || t.run == .folded then s
    else if !t.strikable then (match t.run with
      | .issuing | .parked _ | .ending => s.stillPending (.watchdog g k)
      | _ => s)
    else s.on x.1 x.2 fun s => s.takeTrap ⟨.watchdog, BitVec.ofNat 64 t.deadline, 0, 0, 0, 0⟩ t.pc false 0)

/-- WATCHDOG_HANDLER_EXPIRY (R35, R42, R367): the budget of the handler that `WATCHDOG` entered has run out, and the
firing ends as by `DONE.nw`. -/
def execWatchdogHandlerExpiry (g : CellId) (k : StrandId) (s : State) : Host.Outcome State Fault Refusal :=
  .next (
    let t := s.strandAt g k
    if t.left != 0 || !t.inWdog then s
    else if !t.strikable then (match t.run with
      | .issuing | .parked _ | .ending => s.stillPending (.watchdogHandlerExpiry g k)
      | _ => s)
    else (s.sendFault 6 g t.slotNo k t.record t.status).on g k fun s => s.endFiring none true)

/-! ### Caches and slices (R280, R281, R284) -/

/-- The job whose cells a comb holds (R305). -/
def State.combJob (s : State) (n : Nat) : Option Nat := (List.range 16).findSome? fun c => (s.cellAt (n * 16 + c)).job

/-- PAGE_STATE_CACHE_FILL (R284): the entry of a page enters the comb's cache of 2,048. -/
def execPageStateCacheFill (hive comb page : Nat) (s : State) : Host.Outcome State Fault Refusal :=
  .next (
    let n := hive * 256 + comb
    let key := s.entryKey ((s.combJob n).getD 0) hive (page * 2 ^ 16)
    let c := s.combAt n
    if c.cached.contains key then s else s.setComb n { c with cached := key :: c.cached.take 2047 })

/-- SLICE_FILL (R280, R281): a missing sector is filled from its controller under its tag, and the line that the slice
gives up for it is evicted; both wait for their supers (R286). -/
def execSliceFill (job hive va : Nat) (victim : Option Nat) (s : State) : Host.Outcome State Fault Refusal :=
  .next (
    match (s.jobAt job).bind fun j => (j.homePage hive va).map fun p => (j.asid, p) with
    | none => s
    | some (asid, p) =>
      let loc := p.addr hive va
      match victim.filter (· != loc / 256) with
      | some line =>
        if s.lineWaits ((s.hiveAt hive).lineSectors line) 0 then s.stillPending (.sliceFill job hive va (some line))
        else if (s.evict hive line).fillWaits hive asid va loc then (s.evict hive line).stillPending (.sliceFill job hive va none)
        else (s.evict hive line).fill hive asid va loc
      | none => if s.fillWaits hive asid va loc then s.stillPending (.sliceFill job hive va none) else s.fill hive asid va loc)

/-! ### Power states of TCM banks (R271-R273) -/

/-- The mode of a bank (R272). -/
def bankMode (v : Word) (b : Fin 4) : Nat := v.toNat / 4 ^ b.val % 4

/-- Idle cycles after which a bank in mode 1 becomes drowsy; 0 acts as 1. -/
def idleLimit (v : Word) : Nat := max 1 (v.toNat / 2 ^ 16 % 2 ^ 16)

def State.setBank (s : State) (g : CellId) (b : Fin 4) (x : Bank) : State :=
  s.setCell g { s.cellAt g with banks := (s.cellAt g).banks.set b x }

/-- A bank is on from this cycle; in mode 1 its idle count runs. -/
def State.bankOn (s : State) (g : CellId) (b : Fin 4) : State :=
  let s := s.setBank g b ⟨.on, s.now⟩
  if bankMode (s.cellAt g).tcmpwr b = 1 then s.stillPending (.bankDrowsy g b) else s

/-- BANK_WAKE (R273): 12 cycles after the access that began it. -/
def execBankWake (g : CellId) (b : Fin 4) (s : State) : Host.Outcome State Fault Refusal :=
  .next (
    let x := (s.cellAt g).banks[b]
    if x.state != .waking then s
    else if s.now < x.lastUse + 12 then s.stillPending (.bankWake g b)
    else s.bankOn g b)

/-- Zero a range of physical memory with valid check bits. -/
def State.zero (s : State) (a n : Nat) : State :=
  { s with mem := s.mem.filter fun c => !(decide (a ≤ c.1) && decide (c.1 < a + n))
           marks := s.marks.filter fun w => !(decide (a ≤ w * 8) && decide (w * 8 < a + n)) }

/-- A load, an atomic or a store that some strand has issued to the bank is still to be served (R272). -/
def State.bankServes (s : State) (g : CellId) (b : Fin 4) : Bool :=
  s.cells.any fun x =>
    let reaches (a : Nat) : Bool := match s.place x.1 a with
      | .tcm d off => d == g && bankOf off == b
      | _ => false
    (x.2.strands.toList.any fun t => t.longs.any fun o => o.result.isNone && match o.kind with
      | .load _ a | .record a | .amo _ a _ _ => reaches a
      | _ => false) ||
    x.2.stores.any fun p => match p.kind with
      | .store a _ _ => reaches a
      | _ => false

/-- A bank in mode 2 is gated once no access to it is being served; its contents are lost, which the model shows as zeros at
once (R272). -/
def State.gateBank (s : State) (g : CellId) (b : Fin 4) : State :=
  if s.bankServes g b then s.stillPending (.bankDrowsy g b)
  else (s.setBank g b ⟨.gated, s.now⟩).zero (tcmBase g + b.val * 0x20000) 0x20000

/-- BANK_DROWSY (R272, R273): a bank in mode 1 has served no access for IDLE cycles, or one in mode 2 has served the last that
held up its gating. -/
def execBankDrowsy (g : CellId) (b : Fin 4) (s : State) : Host.Outcome State Fault Refusal :=
  .next (
    let c := s.cellAt g
    let x := c.banks[b]
    if bankMode c.tcmpwr b = 2 && x.state != .gated then s.gateBank g b
    else if x.state != .on || bankMode c.tcmpwr b != 1 then s
    else if s.now < x.lastUse + idleLimit c.tcmpwr then s.stillPending (.bankDrowsy g b)
    else s.setBank g b { x with state := .drowsy })

/-- BANK_ZERO_COMPLETE (R272): 2,048 cycles after the bank left mode 2. -/
def execBankZeroComplete (g : CellId) (b : Fin 4) (s : State) : Host.Outcome State Fault Refusal :=
  .next (
    let x := (s.cellAt g).banks[b]
    if x.state != .zeroing then s
    else if s.now < x.lastUse + 2048 then s.stillPending (.bankZeroComplete g b)
    else (s.bankOn g b).nudge (hiveOf g))

/-- A mode of TCMPWR that is reserved (R272). -/
def tcmpwrBad (v : Word) : Bool :=
  bankMode v 0 == 3 || bankMode v 1 == 3 || bankMode v 2 == 3 || decide (2 ≤ bankMode v 3)

/-- A bank takes its new mode (R272): it is gated as soon as it may be; a mode that was 2 leaves it to be zeroed
first, and a further change meanwhile takes effect when that ends. -/
def State.applyMode (s : State) (g : CellId) (old new : Word) (b : Fin 4) : State :=
  let was := bankMode old b
  let now := bankMode new b
  if was = now then s
  else if now != 2 && (s.cellAt g).banks[b].state == .zeroing then s
  else if now = 2 then s.gateBank g b
  else if was = 2 then
    ((s.setBank g b ⟨.zeroing, s.now⟩).zero (tcmBase g + b.val * 0x20000) 0x20000).push (.bankZeroComplete g b)
  else s.bankOn g b

end Sys2Proof.Machine
end

