-- ==== Sys2Proof/Machine/Service.lean ====
section
/-! DEFINITION. The service network: a cell's service registers, the drover's verbs and the debugger (R16, R271, R272,
R313, R339, R368, R389). -/

namespace Sys2Proof.Machine

/-- Service address of a cell's register (R389). -/
def serviceAddr (g : CellId) (off : Nat) : Nat := 0x40000000 + lcidOf g * 2 ^ 12 + off

/-- Report to the drover or the debugger of a hive. -/
def State.report (s : State) (hive : Nat) (r : Report) : State :=
  s.setHive hive { s.hiveAt hive with reports := r :: (s.hiveAt hive).reports }

/-- A service write that changes nothing is reported to the writing drover. -/
def State.dropWrite (s : State) (g : CellId) (off : Nat) (v : Word) : State :=
  s.report (hiveOf g) ⟨serviceAddr g off, v, 2⟩

/-- TCMPWR (R272). -/
def execTcmpwr (g : CellId) (v : Word) (s : State) : Host.Outcome State Fault Refusal :=
  .next (if tcmpwrBad v then s.dropWrite g 0 v
    else
      let old := (s.cellAt g).tcmpwr
      let new := v &&& 0xFFFF00FF
      let s := s.setCell g { s.cellAt g with tcmpwr := new }
      ([0, 1, 2, 3] : List (Fin 4)).foldl (fun s b => s.applyMode g old new b) s)

/-- The fields of SCHEDCFG lie in their ranges (R313). -/
def schedcfgOk (v : Word) : Bool :=
  decide (8 ≤ v.toNat / 2 ^ 20 % 16) && decide (8 ≤ v.toNat / 2 ^ 16 % 16) && decide (4 ≤ v.toNat % 64)

/-- SCHEDCFG (R313). -/
def execSchedcfg (g : CellId) (v : Word) (s : State) : Host.Outcome State Fault Refusal :=
  .next (if schedcfgOk v then (s.setCell g { s.cellAt g with schedcfg := v &&& 0xFF003F }).offer g
    else s.dropWrite g 8 v)

/-- ENGCTR (R339). -/
def execEngctr (g : CellId) (n : Fin 8) (v : Word) (s : State) : Host.Outcome State Fault Refusal :=
  .next (s.setCell g { s.cellAt g with engctr := (s.cellAt g).engctr.set n v })

/-! ### STRCTL (R368) -/

/-- What a strand waits for after a fault message: its kind, and the trap that DELIVER lets proceed. -/
def Strand.awaited (t : Strand) : Option (Nat × Option Trap) :=
  match t.run with
  | .awaiting kind p => some (kind, p)
  | _ => none

/-- Replace the trap record (WREC). -/
def Strand.replaceRecord (t : Strand) (r : Option (Word × Word × Word × Word)) : Strand :=
  match r with
  | some (c, p, v, a) => t.setRecord (c &&& trapCauseMask) (p &&& 0x7FFFF) v a
  | none => t

/-- A verb that is not legal for the strand's state is reported. -/
def State.badVerb (s : State) (g : CellId) (k : StrandId) (verb : Nat) : State :=
  s.dropWrite g (0x100 + 0x40 * k.val) (BitVec.ofNat 64 verb)

/-- Act on a strand that awaits the drover. -/
def State.verb (s : State) (g : CellId) (k : StrandId) (w : Option (Word × Word × Word × Word)) (f : State → State) :
    State :=
  (s.unstall g).on g k fun s => f (s.setMe (s.me.replaceRecord w))

/-- The strand's trap is `WATCHDOG`, or it runs the handler that `WATCHDOG` entered (R42). -/
def Strand.afterWatchdog (t : Strand) : Bool := t.inWdog || (t.dw 58).toNat % 64 == 0x0E

/-- RESUME (R42, R368). -/
def execResume (g : CellId) (k : StrandId) (w : Option (Word × Word × Word × Word)) (s : State) :
    Host.Outcome State Fault Refusal :=
  .next (
    let t := s.strandAt g k
    match t.awaited with
    | some _ => s.verb g k w fun s => if t.afterWatchdog then s.endFiring none true else s.resumeRecord
    | none => s.badVerb g k 1)

/-- DELIVER (R42, R368): legal after a message of kind 1. -/
def execDeliver (g : CellId) (k : StrandId) (w : Option (Word × Word × Word × Word)) (s : State) :
    Host.Outcome State Fault Refusal :=
  .next (match (s.strandAt g k).awaited with
    | some (1, some t) => s.verb g k w fun s => s.deliverTrap t.cause
    | _ => s.badVerb g k 2)

/-- ENDFIRING (R227, R368): the firing waits as `DONE` waits, and no other verb is legal meanwhile; then it ends with the cause
of its record. -/
def execEndfiring (g : CellId) (k : StrandId) (w : Option (Word × Word × Word × Word)) (s : State) :
    Host.Outcome State Fault Refusal :=
  .next (match (s.strandAt g k).awaited with
    | some _ => s.verb g k w State.endDrained
    | none => s.badVerb g k 3)

/-! ### Service addresses (R368, R389) -/

/-- What a service address names: the register of R389 at an offset of a cell's page. -/
inductive ServiceReg where
  | tcmpwr
  | schedcfg
  | engctr (n : Fin 8)
  | strctl (k : StrandId) (n : Nat)
  deriving DecidableEq, Repr

def serviceReg (off : Nat) : Option ServiceReg :=
  if off % 8 != 0 then none
  else if off = 0 then some .tcmpwr
  else if off = 8 then some .schedcfg
  else if 0x40 ≤ off ∧ off < 0x80 then some (.engctr (Fin.ofNat 8 ((off - 0x40) / 8)))
  else if 0x100 ≤ off ∧ off < 0x200 ∧ off % 0x40 < 40 then
    some (.strctl (Fin.ofNat 4 ((off - 0x100) / 0x40)) (off % 0x40 / 8))
  else none

/-- The cell and the register that a service address of a hive names (R389). -/
def State.serviceAt (s : State) (hive addr : Nat) : Option (CellId × ServiceReg) :=
  let o := addr - 0x40000000
  let g := hive * 4096 + o / 2 ^ 12
  if addr < 0x40000000 || 0x41000000 ≤ addr || !s.cellExists g then none else (serviceReg (o % 2 ^ 12)).map fun r => (g, r)

/-- The value that a drover reads from a service register: d0 of STRCTL is write-only, and its other doublewords show the
strand's trap record (DESIGN CHOICE, log entry 67). -/
def State.serviceValue (s : State) (g : CellId) : ServiceReg → Word
  | .tcmpwr => (s.cellAt g).tcmpwr
  | .schedcfg => (s.cellAt g).schedcfg
  | .engctr n => (s.cellAt g).engctr[n]
  | .strctl k n => if n = 0 then 0 else ((s.strandAt g k).record[n - 1]?).getD 0

/-- A drover reads a service register (R272, R313, R339, R389); an address that names none gives zero and says so (DESIGN CHOICE,
log entry 67). -/
def State.serviceRead (s : State) (hive addr : Nat) : State :=
  match s.serviceAt hive addr with
  | some (g, r) => s.report hive ⟨addr, s.serviceValue g r, 0⟩
  | none => s.report hive ⟨addr, 0, 2⟩

/-- A write of STRCTL (R368): VERB acts with the record that WREC asks for; VERB 0 and 4 to 15 only replace the record. -/
def State.writeStrctl (s : State) (g : CellId) (k : StrandId) (d0 : Word) (r : List Word) : State :=
  let x (n : Nat) : Word := (r[n]?).getD 0
  let w := if d0.getLsbD 4 then some (x 0, x 1, x 2, x 3) else none
  match d0.toNat % 16 with
  | 1 => outState s (execResume g k w s)
  | 2 => outState s (execDeliver g k w s)
  | 3 => outState s (execEndfiring g k w s)
  | _ => if (s.strandAt g k).bound then s.setStrand g k ((s.strandAt g k).replaceRecord w) else s

/-- A drover writes doublewords from a service address on: one register, or the five doublewords of STRCTL at once (R368,
R389). Any other write is dropped and reported (DESIGN CHOICE, log entry 67). -/
def State.serviceWrite (s : State) (hive addr : Nat) (l : List Word) : State :=
  match s.serviceAt hive addr, l with
  | some (g, .tcmpwr), [v] => outState s (execTcmpwr g v s)
  | some (g, .schedcfg), [v] => outState s (execSchedcfg g v s)
  | some (g, .engctr n), [v] => outState s (execEngctr g n v s)
  | some (g, .strctl k 0), d0 :: r => s.writeStrctl g k d0 r
  | _, l => s.report hive ⟨addr, l.headD 0, 2⟩

/-! ### The debugger (R16, R271) -/

/-- The strand whose bound workspace holds a TCM offset. -/
def Cell.boundAt (c : Cell) (off : Nat) : Option Strand := c.strands.toList.find? fun t => t.overlaps off 8

/-- Window address of a place that a debugger names (R7). -/
def placeAddr : DebugPlace → Nat
  | .tcm g off => tcmWindow + lcidOf g * 2 ^ 20 + off
  | .scratch _ c off => scratchWindow + c * 2 ^ 23 + off

def placeHive : DebugPlace → Nat
  | .tcm g _ => hiveOf g
  | .scratch h _ _ => h

/-- Physical address of the doubleword that a debugger names. -/
def placePhys : DebugPlace → Nat
  | .tcm g off => tcmBase g + off % 2 ^ 19 / 8 * 8
  | .scratch h c off => scratchAddr (h * 256 + c) (off % 2 ^ 22 / 8 * 8)

/-- Report a doubleword of memory; an uncorrectable one has no value, and a free value stands for it (log entry 6). -/
def State.reportDw (s : State) (p : DebugPlace) : State :=
  let a := placePhys p
  let s := match p with
    | .tcm g off => s.touch g (off % 2 ^ 19)
    | .scratch .. => s
  if s.marked a then
    let (v, s) := s.takeFree
    s.report (placeHive p) ⟨placeAddr p, v, 0⟩
  else s.report (placeHive p) ⟨placeAddr p, BitVec.ofNat 64 (s.read a 8), 0⟩

/-- The cell or the scratchpad that a debugger names exists (R6, R374). A window of none holds no storage: a read gives zero and
a write is dropped, and either says so in its report (DESIGN CHOICE, log entry 65). -/
def State.placeExists (s : State) : DebugPlace → Bool
  | .tcm g _ => s.cellExists g
  | .scratch h c _ => s.combExists h c

/-- DEBUGGER_READ (R16, R271, R272): a bound workspace gives the register-file value, a gated bank zero with `GATED`; a bank that
is being zeroed holds it up. -/
def execDebuggerRead (p : DebugPlace) (s : State) : Host.Outcome State Fault Refusal :=
  .next (if !s.placeExists p then s.report (placeHive p) ⟨placeAddr p, 0, 2⟩ else match p with
    | .tcm g off =>
      let c := s.cellAt g
      let o := off % 2 ^ 19 / 8 * 8
      match c.boundAt o with
      | some t => s.report (hiveOf g) ⟨placeAddr p, t.dw (Fin.ofNat 64 ((o - t.wp) / 8)), 0⟩
      | none =>
        if c.meetsGated o 8 then s.report (hiveOf g) ⟨placeAddr p, 0, 1⟩
        else if c.meetsZeroing o 8 then s.stillPending (.debuggerRead p)
        else s.reportDw p
    | .scratch .. => s.reportDw p)

/-- DEBUGGER_WRITE (R16, R271, R272): dropped and reported for a bound workspace or a gated bank. -/
def execDebuggerWrite (p : DebugPlace) (v : Word) (s : State) : Host.Outcome State Fault Refusal :=
  .next (if !s.placeExists p then s.report (placeHive p) ⟨placeAddr p, v, 2⟩ else match p with
    | .tcm g off =>
      let c := s.cellAt g
      let o := off % 2 ^ 19 / 8 * 8
      if c.meetsBound o 8 || c.meetsGated o 8 then s.report (hiveOf g) ⟨placeAddr p, v, 2⟩
      else if c.meetsZeroing o 8 then s.stillPending (.debuggerWrite p v)
      else (s.touch g o).writeTcm g o 8 v.toNat
    | .scratch .. => s.write (placePhys p) 8 v.toNat)

end Sys2Proof.Machine
end

