-- ==== Sys2Proof/Machine/Planner.lean ====
section
/-! DEFINITION. The run tree and the actor images in drover memory, and what the planner makes of them at launch: effective
fields, the placement, the relocated images, slot descriptors and edge routing (R57, R108, R299-R304, R318). -/

namespace Sys2Proof.Machine

/-! ### Drover memory (R57, R108) -/

/-- Key of a byte at a 48-bit drover address of a hive. -/
def droverKey (hive a : Nat) : Nat := hive * 2 ^ 48 + a % 2 ^ 48

/-- Bytes of a hive's drover memory. -/
def State.droverBytes (s : State) (hive a n : Nat) : List Byte := Memory.bytes s.drover (droverKey hive a) n

/-- Doubleword `k` from a drover address. -/
def State.droverDw (s : State) (hive a k : Nat) : Nat := ofBytes (s.droverBytes hive (a + 8 * k) 8)

/-- The drovers write their memory: the run tree and the images (R57). -/
def State.droverWrite (s : State) (hive a : Nat) (l : List Byte) : State :=
  { s with drover := Memory.setBytes s.drover (droverKey hive a) l }

/-! ### Run control blocks (R57, R299, R300) -/

/-- A run control block. -/
structure Rcb where
  level : Nat
  ovr : Nat
  parent : Nat
  cells : Nat
  penb : Nat
  banks : Nat
  fdom : Nat
  prio : Nat
  /-- graph data of an actor: number of instance 0, instances, image, edge table -/
  actno : Nat
  ninst : Nat
  image : Nat
  edges : Nat
  nedge : Nat
  deriving DecidableEq, Repr

/-- The run control block at a drover address. -/
def State.rcb (s : State) (hive a : Nat) : Rcb :=
  let d := s.droverDw hive a
  { level := d 0 / 2 ^ 62, ovr := d 0 / 2 ^ 56 % 32, parent := d 0 % 2 ^ 48, cells := d 1 % 2 ^ 32, penb := d 2
    banks := d 3 % 2 ^ 16, fdom := d 3 / 2 ^ 16 % 2 ^ 8, prio := d 3 / 2 ^ 24 % 4
    actno := d 4 % 2 ^ 20, ninst := d 4 / 2 ^ 20 % 2 ^ 16, image := d 5 % 2 ^ 48, edges := d 6 % 2 ^ 48, nedge := d 7 % 2 ^ 9 }

/-- The effective value of a field with override bit `k` (R57): the block's own where the bit is 1 or the block is a
partition's, else its parent's. -/
def State.effectiveFrom (s : State) (hive k : Nat) (f : Rcb → Nat) : Nat → Nat → Nat
  | 0, _ => 0
  | n + 1, a =>
    let r := s.rcb hive a
    if r.level = 0 || r.ovr / 2 ^ k % 2 = 1 then f r else s.effectiveFrom hive k f n r.parent

/-- The effective value of a field; the tree has four levels. -/
def State.effective (s : State) (hive k : Nat) (f : Rcb → Nat) (a : Nat) : Nat := s.effectiveFrom hive k f 4 a

def State.effCells (s : State) (hive a : Nat) : Nat := s.effective hive 0 Rcb.cells a
def State.effPenb (s : State) (hive a : Nat) : Nat := s.effective hive 1 Rcb.penb a
def State.effBanks (s : State) (hive a : Nat) : Nat := s.effective hive 2 Rcb.banks a
def State.effFdom (s : State) (hive a : Nat) : Nat := s.effective hive 3 Rcb.fdom a
def State.effPrio (s : State) (hive a : Nat) : Nat := s.effective hive 4 Rcb.prio a

/-- The block is an actor of a stage of the job whose block is at `job` (R57). -/
def State.actorOfJob (s : State) (hive job a : Nat) : Bool :=
  let r := s.rcb hive a
  let st := s.rcb hive r.parent
  r.level == 3 && st.level == 2 && st.parent == job && (s.rcb hive job).level == 1

/-! ### Actor images (R108, R301) -/

/-- The header of an actor image. -/
structure Header where
  encv : Nat
  codesz : Nat
  statesz : Nat
  trapv : Bool
  trapoff : Nat
  entry : Nat
  inkind : Nat
  fen : Nat
  defdl : Nat
  rate : Nat
  nedge : Nat
  nreloc : Nat
  deriving DecidableEq, Repr

def State.header (s : State) (hive a : Nat) : Header :=
  let d := s.droverDw hive a
  { encv := d 0 / 2 ^ 32 % 4, codesz := d 1 % 2 ^ 32, statesz := d 1 / 2 ^ 32, trapv := d 2 / 2 ^ 63 == 1
    trapoff := d 2 / 2 ^ 32 % 2 ^ 19, entry := d 2 % 2 ^ 19, inkind := d 3 / 2 ^ 33 % 4, fen := d 3 / 2 ^ 28 % 32
    defdl := d 3 / 2 ^ 16 % 2 ^ 12, rate := d 3 % 2 ^ 16, nedge := d 4 / 2 ^ 32, nreloc := d 4 % 2 ^ 32 }

/-- An offset that names an entry in the code: inside it and 8-byte aligned. -/
def Header.inCode (h : Header) (off : Nat) : Bool := decide (off < h.codesz) && off % 8 == 0

/-- The planner accepts the header (R108): TRAPOFF too lies in the code, whether TRAPV is 1 or not (log entry 70). -/
def State.headerOk (s : State) (hive a : Nat) : Bool :=
  let d := s.droverDw hive a
  let h := s.header hive a
  d 0 % 2 ^ 32 == 0x49414D4B && d 0 / 2 ^ 48 == 1 && h.encv != 0 && d 0 / 2 ^ 34 % 2 ^ 14 == 0 && d 2 / 2 ^ 51 % 2 ^ 12 == 0 &&
    d 2 / 2 ^ 19 % 2 ^ 13 == 0 && d 3 / 2 ^ 35 == 0 && d 5 == 0 && d 6 == 0 && d 7 == 0 && h.codesz % 8 == 0 &&
    h.inCode h.entry && h.inCode h.trapoff && h.rate != 0 && h.defdl != 0 && h.inkind != 3

def upTo8 (n : Nat) : Nat := (n + 7) / 8 * 8

/-- Where the parts of an image begin: code, state image, relocation records, edge records. -/
def codeAt (a : Nat) : Nat := a + 64
def stateAt (h : Header) (a : Nat) : Nat := codeAt a + h.codesz
def relocAt (h : Header) (a : Nat) : Nat := stateAt h a + upTo8 h.statesz
def edgesAt (h : Header) (a : Nat) : Nat := relocAt h a + 8 * h.nreloc

/-- The patched field of a relocation with `base` added, unless it leaves its range (R108): an `LI` IMM19 is signed
(R119). The range of a `.word` or a `.dword` is taken as unsigned (DESIGN CHOICE, log entry 78). -/
def relocValue (kind base v : Nat) : Option Nat :=
  match kind with
  | 0 =>
    let r := toSigned 19 v + base
    if r < (2 ^ 18 : Nat) then some (v / 2 ^ 19 * 2 ^ 19 + ofInt 19 r) else none
  | 1 =>
    let r := v % 2 ^ 16 + base / 2 ^ (16 * (v / 2 ^ 17 % 4)) % 2 ^ 16
    if r < 2 ^ 16 then some (v / 2 ^ 16 * 2 ^ 16 + r) else none
  | 2 => if v + base < 2 ^ 64 then some (v + base) else none
  | _ => if v + base < 2 ^ 32 then some (v + base) else none

/-- Apply a relocation record to the code and the state image, given their TCM bases (R108). A record whose word does not lie
within its image refuses the launch (DESIGN CHOICE, log entry 78). -/
def relocate (code state : Nat) (r : Nat) (x : List Byte × List Byte) : Option (List Byte × List Byte) :=
  let off := r % 2 ^ 32
  let kind := r / 2 ^ 32 % 4
  let base := if r / 2 ^ 34 % 2 = 1 then state else code
  let n := if kind = 2 then 8 else 4
  let l := if r / 2 ^ 35 % 2 = 1 then x.2 else x.1
  if r / 2 ^ 36 != 0 || decide (l.length < off + n) then none
  else (relocValue kind base (ofBytes ((l.drop off).take n))).map fun v =>
    let l := overwrite l off (toBytes v n)
    if r / 2 ^ 35 % 2 = 1 then (x.1, l) else (l, x.2)

/-- Apply the records from number `k` on. -/
def relocateAll (rec : Nat → Nat) (code state : Nat) : Nat → Nat → List Byte × List Byte → Option (List Byte × List Byte)
  | 0, _, x => some x
  | n + 1, k, x =>
    match relocate code state (rec k) x with
    | some y => relocateAll rec code state n (k + 1) y
    | none => none

/-- The code and the state image as the planner places them. -/
def State.placedImage (s : State) (hive a code state : Nat) : Option (List Byte × List Byte) :=
  let h := s.header hive a
  relocateAll (s.droverDw hive (relocAt h a)) code state h.nreloc 0
    (s.droverBytes hive (codeAt a) h.codesz, s.droverBytes hive (stateAt h a) h.statesz)

/-- The remote atomic operation that an instruction word names, if it does. -/
def remoteOpOf (encv : Nat) (w : Nat) : Option Aop :=
  match decodeWord encv w with
  | .ok (.xamo op ..) => some op
  | _ => none

/-- The remote atomic operations that an image uses: those that its code words name (R245, R304). -/
def State.imageOps (s : State) (hive a : Nat) : List Aop :=
  let h := s.header hive a
  (List.range (h.codesz / 4)).filterMap fun k => remoteOpOf h.encv (ofBytes (s.droverBytes hive (codeAt a + 4 * k) 4) % 2 ^ 31)

/-- The class and the consumer's name of an image's record of an edge (R301). -/
def State.edgeRecord (s : State) (hive a edge : Nat) : Option (Nat × List Byte) :=
  let h := s.header hive a
  ((List.range h.nedge).find? fun k => s.droverDw hive (edgesAt h a + 32 * k) 0 % 2 ^ 8 == edge).map fun k =>
    (s.droverDw hive (edgesAt h a + 32 * k) 0 / 2 ^ 8 % 4, s.droverBytes hive (edgesAt h a + 32 * k + 8) 24)

/-- A name as 24 bytes, zero-padded (R301). -/
def nameBytes (l : List Byte) : List Byte := l ++ List.replicate (24 - l.length) 0

/-! ### Stages and seats (R300, R303) -/

/-- An ordinary actor of a stage: its block and its range of numbers. -/
structure Range where
  actor : Nat
  first : Nat
  count : Nat
  deriving DecidableEq, Repr

/-- A stage of a job. -/
structure PlanStage where
  rcb : Nat
  ordinary : List Range
  /-- blocks of its task actors -/
  tasks : List Nat
  deriving DecidableEq, Repr

/-- The place of an instance: cell, slot, block and number. A task actor has one in every cell, without a number. -/
structure Seat where
  cell : CellId
  slot : Nat
  actor : Nat
  number : Option Nat
  deriving DecidableEq, Repr

/-- An actor is a task actor: its image's INKIND is 2 (R19). -/
def State.isTask (s : State) (hive a : Nat) : Bool := (s.header hive (s.rcb hive a).image).inkind == 2

/-- The stage of a block with those of its actors that the job has; task actors are in the order of their blocks' drover
addresses (R303; log entry 72). -/
def State.stageOf (s : State) (hive : Nat) (actors : List Nat) (st : Nat) : PlanStage :=
  let mine := actors.filter fun a => (s.rcb hive a).parent == st
  { rcb := st
    ordinary := sortBy Range.first ((mine.filter fun a => !s.isTask hive a).map fun a =>
      ⟨a, (s.rcb hive a).actno, (s.rcb hive a).ninst⟩)
    tasks := sortBy id (mine.filter fun a => s.isTask hive a) }

def PlanStage.instances (st : PlanStage) : Nat := st.ordinary.foldl (fun n r => n + r.count) 0
def PlanStage.first (st : PlanStage) : Nat := (st.ordinary.head?.map Range.first).getD 0

/-- The stages of a job in ascending order of their ranges (R300, R303). -/
def State.stages (s : State) (hive : Nat) (actors : List Nat) : List PlanStage :=
  sortBy PlanStage.first (((actors.map fun a => (s.rcb hive a).parent).eraseDups).map (s.stageOf hive actors))

/-- Ranges follow one another without a gap. -/
def contiguousRanges : List Range → Bool
  | r :: q :: l => r.first + r.count == q.first && contiguousRanges (q :: l)
  | _ => true

/-- Actor numbers are distinct, each stage's form one range, and every actor has an instance (R300). -/
def rangesOk (l : List PlanStage) : Bool :=
  let all := l.flatMap PlanStage.ordinary
  l.all (fun st => contiguousRanges st.ordinary) && all.all (fun r => r.count != 0) &&
    decide ((sortBy Range.first all).Pairwise fun r q => r.first + r.count ≤ q.first)

/-- The working cells of a partition that hold no job, in ascending order (R303, R372). -/
def State.workingCells (s : State) (hives : List Nat) : List CellId :=
  (sortBy id hives).flatMap fun h => if (s.hiveAt h).lost then [] else (List.range 256).flatMap fun c =>
    if s.combExists h c then ((List.range 16).map fun k => h * 4096 + c * 16 + k).filter fun g =>
      s.cellExists g && !(s.cellAt g).fenced && (s.cellAt g).job.isNone
    else []

/-- Step 2 of R303: cells for each stage from the front of the list; none when a budget cannot be met. `last` is the last cell
taken with its stage's fault domain. -/
def State.stageCells (s : State) (hive : Nat) : List CellId → Option (CellId × Nat) → List PlanStage → Option (List (PlanStage × List CellId))
  | _, _, [] => some []
  | avail, last, st :: r =>
    let fd := s.effFdom hive st.rcb
    let avail := match last with
      | some (g, f) => if f = fd then avail else avail.dropWhile fun x => combOf x == combOf g
      | none => avail
    let n := st.instances
    let c := min (s.effCells hive st.rcb) n
    let mine := avail.take c
    if (n != 0 && c == 0) || decide (mine.length < c) then none
    else
      let last := match mine.getLast? with
        | some g => some (g, fd)
        | none => last
      (s.stageCells hive (avail.drop c) last r).map fun l => (st, mine) :: l

/-- The block of instance `j` of a stage, counted over its ranges, with its actor number. -/
def instanceAt : List Range → Nat → Option (Nat × Nat)
  | [], _ => none
  | r :: l, j => if j < r.count then some (r.actor, r.first + j) else instanceAt l (j - r.count)

/-- Steps 3 and 4 of R303: the seats of a stage on its cells. -/
def seatsOf (st : PlanStage) (cells : List CellId) : List Seat :=
  let n := st.instances
  let at_ (j : Nat) : Nat := j * cells.length / n
  let own := (List.range n).filterMap fun j =>
    match instanceAt st.ordinary j, cells[at_ j]? with
    | some (a, num), some g => some ⟨g, ((List.range j).filter fun i => at_ i == at_ j).length, a, some num⟩
    | _, _ => none
  let tasks := cells.flatMap fun g => (List.range st.tasks.length).filterMap fun i => (st.tasks[i]?).map fun a => ⟨g, 63 - i, a, none⟩
  own ++ tasks

/-! ### Edges and task placement (R221, R250, R301, R302, R304, R318) -/

/-- The instances of an actor in actor-number order. -/
def instancesOf (seats : List Seat) (actor : Nat) : List Seat :=
  sortBy (fun x => x.number.getD 0) (seats.filter fun x => x.actor == actor && x.number.isSome)

/-- A graph edge entry of an actor: edge, class, BSHIFT and the consumer's block (R301). -/
def State.graphEdge (s : State) (hive actor k : Nat) : Nat × Nat × Nat × Nat :=
  let a := (s.rcb hive actor).edges + 16 * k
  let d := s.droverDw hive a 0
  (d % 2 ^ 8, d / 2 ^ 8 % 4, d / 2 ^ 10 % 64, s.droverDw hive a 1 % 2 ^ 48)

/-- The graph edges of an actor. -/
def State.graphEdges (s : State) (hive actor : Nat) : List (Nat × Nat × Nat × Nat) :=
  (List.range (s.rcb hive actor).nedge).map (s.graphEdge hive actor)

/-- A graph edge that the planner accepts: the producer's image has a record of the edge with its class and the name of the
consumer's image (R301). -/
def State.graphEdgeOk (s : State) (hive : Nat) (names : List (Nat × List Byte)) (actor : Nat) (e : Nat × Nat × Nat × Nat) : Bool :=
  match s.edgeRecord hive (s.rcb hive actor).image e.1, look names (s.rcb hive e.2.2.2).image with
  | some (c, n), some name => c == e.2.1 && e.2.1 != 3 && n == nameBytes name && decide (name.length ≤ 24)
  | _, _ => false

def classOf (c : Nat) : EvClass := if c = 0 then .add else if c = 1 then .seq else .sorted

/-- The producer slot recorded for a `SEQ` edge (R250, R304): that of the actor's instance with the lowest number. A task
actor's instances have no number; cell 0, slot 0 is recorded for it (log entry 71). -/
def seqProducer (seats : List Seat) (actor : Nat) : CellId × Nat :=
  ((instancesOf seats actor).head?.map fun x => (x.cell, x.slot)).getD (0, 0)

/-- The routing of an actor's edges (R302): the consumer's instances in actor-number order, and the producer slot recorded for
a `SEQ` edge. -/
def State.routes (s : State) (hive : Nat) (seats : List Seat) (actor : Nat) : List EdgeRoute :=
  (s.graphEdges hive actor).map fun e =>
    { edge := e.1, cls := classOf e.2.1, bshift := e.2.2.1
      cons := (instancesOf seats e.2.2.2).map fun x => (x.cell, x.slot)
      producer := seqProducer seats actor }

/-- The sources recorded for messages to a slot of an actor: one for each `SEQ` edge into it (R250, R304). -/
def State.seqSources (s : State) (hive : Nat) (actors : List Nat) (seats : List Seat) (actor : Nat) : List (CellId × Nat) :=
  actors.flatMap fun a =>
    ((s.graphEdges hive a).filter fun e => e.2.1 == 1 && e.2.2.2 == actor).map fun _ => seqProducer seats a

/-- The task slots that a cell of a stage may fork, each with the stage's cells of the hive in ascending LCID (R303, R304,
R318). A stage forks its own task actors (log entry 57). -/
def forksOf (st : PlanStage) (cells : List CellId) (g : CellId) : List (Nat × List CellId) :=
  (List.range st.tasks.length).map fun i => (63 - i, sortBy id (cells.filter fun x => hiveOf x == hiveOf g))

/-! ### What the planner writes (R50, R108, R304) -/

/-- The spot that the planner chose for a seat. -/
def planSpot (p : LaunchPlan) (x : Seat) : Option SlotSpot := p.spots.find? fun y => y.cell == x.cell && y.slot == x.slot

/-- The slot of a seat: the descriptor of R50 from the image's header, and its routing. -/
def State.slotPlan (s : State) (hive : Nat) (p : LaunchPlan) (seats : List Seat) (st : PlanStage) (cells : List CellId) (x : Seat)
    (y : SlotSpot) : SlotPlan :=
  let h := s.header hive (s.rcb hive x.actor).image
  let forks := forksOf st cells x.cell
  let trap := if h.trapv then y.code + h.trapoff else 0
  { slot := x.slot, actor := x.actor, number := x.number
    d0 := BitVec.ofNat 64 (2 ^ 63 + h.encv * 2 ^ 61 + s.effPrio hive x.actor * 2 ^ 59 + h.inkind * 2 ^ 57 + trap * 2 ^ 19 +
      (y.code + h.entry))
    d1 := BitVec.ofNat 64 (h.rate * 2 ^ 48 + h.defdl * 2 ^ 32 + h.fen)
    d2 := BitVec.ofNat 64 (y.qlog * 2 ^ 20 + y.qbase)
    d4 := BitVec.ofNat 64 y.state
    d5 := BitVec.ofNat 64 (forks.foldl (fun m f => m + 2 ^ f.1) 0)
    edges := s.routes hive seats x.actor, forkTo := forks
    seqFrom := s.seqSources hive p.actors seats x.actor
    stateSize := h.statesz }

/-- Ranges of TCM that a slot takes: code, state, ring. -/
def spotRanges (h : Header) (y : SlotSpot) : List (Nat × Nat) :=
  [(y.code, h.codesz), (y.state, h.statesz), (y.qbase, 32 * 2 ^ y.qlog)]

/-- Two ranges have no byte in common, or are one and the same code. -/
def rangesApart (x y : Nat × Nat) : Bool := decide (x.1 + x.2 ≤ y.1) || decide (y.1 + y.2 ≤ x.1)

/-- The seats of a cell fit its TCM with its pool, outside gated banks (R304, R313); instances of one image may share its
code. -/
def State.cellFits (s : State) (hive : Nat) (c : CellChoice) (l : List (Seat × SlotSpot)) : Bool :=
  let h (x : Seat) : Header := s.header hive (s.rcb hive x.actor).image
  let pool := (0x60000, 512 * (c.schedcfg.toNat % 64))
  let code := (l.map fun x => ((s.rcb hive x.1.actor).image, (x.2.code, (h x.1).codesz))).eraseDups
  let data := l.flatMap fun x => (spotRanges (h x.1) x.2).drop 1
  let all := pool :: (code.map (fun x => x.2) ++ data).filter fun x => x.2 != 0
  l.all (fun x => x.2.code % 8 == 0 && x.2.state % 8 == 0 && decide (x.2.qlog < 16)) &&
    all.all (fun x => decide (x.1 + x.2 ≤ 0x7F000) && !(s.cellAt c.cell).meetsGated x.1 x.2) && decide (all.Pairwise fun x y => rangesApart x y = true)

/-- The bytes of a slot's code and state image in TCM, unless a relocation leaves its range. -/
def State.slotBytes (s : State) (hive : Nat) (x : Seat) (y : SlotSpot) : Option (List (Nat × Byte)) :=
  (s.placedImage hive (s.rcb hive x.actor).image y.code y.state).map fun b =>
    ((List.range b.1.length).map fun k => (y.code + k, (b.1[k]?).getD 0)) ++
      (List.range b.2.length).map fun k => (y.state + k, (b.2[k]?).getD 0)

/-- All of a list's answers, or none. -/
def allSome {α : Type} : List (Option α) → Option (List α)
  | [] => some []
  | x :: r =>
    match x, allSome r with
    | some a, some l => some (a :: l)
    | _, _ => none

/-- What the planner writes into one cell (R304), unless something there is refused. -/
def State.buildCell (s : State) (hive : Nat) (p : LaunchPlan) (seats : List Seat) (st : PlanStage) (cells : List CellId)
    (c : CellChoice) : Option CellPlan :=
  let here := seats.filter fun x => x.cell == c.cell
  match allSome (here.map fun x => (planSpot p x).map fun y => (x, y)) with
  | none => none
  | some l =>
    let ordinary := (here.filter fun x => x.number.isSome).length
    if decide (64 < here.length) || !s.cellFits hive c l || decide (c.schedcfg.toNat % 64 < min 63 (4 + ordinary)) then none
    else (allSome (l.map fun x => s.slotBytes hive x.1 x.2)).map fun bytes =>
      { cell := c.cell, slots := l.map fun x => s.slotPlan hive p seats st cells x.1 x.2, image := bytes.flatten
        allowEv := c.allowEv, allowRq := c.allowRq, allowSv := c.allowSv, pmask := c.pmask &&& 0x3FFFF, grants := c.grants
        schedcfg := c.schedcfg &&& 0xFF003F }

/-- What the planner has made of a job, or of one replica of it. -/
structure Placement where
  asid : Nat
  hives : List Nat
  cells : List CellPlan
  pages : List Page
  /-- effective PENB of the job (R57, R299) -/
  penb : Nat
  /-- remote atomic operations that the images use (R304) -/
  remoteOps : List Aop
  deriving DecidableEq, Repr

/-- The fault domains of the actors of a comb are one (R299). -/
def State.domainsOk (s : State) (hive : Nat) (seats : List Seat) : Bool :=
  seats.all fun x => seats.all fun y => combOf x.cell != combOf y.cell || s.effFdom hive x.actor == s.effFdom hive y.actor

/-- The stage of a cell, with all its cells. -/
def stageAt (l : List (PlanStage × List CellId)) (g : CellId) : Option (PlanStage × List CellId) := l.find? fun x => x.2.contains g

/-- Frame banks that the planner grants to a stage: as many as its budget (R299). -/
def State.banksMet (s : State) (hive : Nat) (p : LaunchPlan) (x : PlanStage × List CellId) : Bool :=
  ((p.cells.filter fun c => x.2.contains c.cell).flatMap CellChoice.grants).length == s.effBanks hive x.1.rcb

/-- The placement that R299-R304 make of a launch, or none where they refuse it; `job` is JOBRCB. -/
def State.buildPlan (s : State) (hive job : Nat) (p : LaunchPlan) : Option Placement :=
  let stages := s.stages hive p.actors
  let images := (p.actors.map fun a => (s.rcb hive a).image).eraseDups
  if !p.actors.all (s.actorOfJob hive job) || !images.all (s.headerOk hive) || !rangesOk stages || !decide p.actors.Nodup ||
      !(p.actors.all fun a => (s.graphEdges hive a).all (s.graphEdgeOk hive p.names a)) then none
  else match s.stageCells hive (s.workingCells p.hives) none stages with
    | none => none
    | some l =>
      let seats := l.flatMap fun x => seatsOf x.1 x.2
      let cells := l.flatMap fun x => x.2
      if p.cells.map CellChoice.cell != cells || !s.domainsOk hive seats || !l.all (s.banksMet hive p) then none
      else (allSome (p.cells.map fun c => (stageAt l c.cell).bind fun x => s.buildCell hive p seats x.1 x.2 c)).map fun cs =>
        { asid := p.asid, hives := p.hives, cells := cs, pages := p.pages, penb := s.effPenb hive job
          remoteOps := images.flatMap (s.imageOps hive) }

end Sys2Proof.Machine
end

