-- ==== Sys2Proof/Machine/Launch.lean ====
section
/-! DEFINITION. Launching, resuming and ending a job (R283, R295, R298-R305, R350, R359, R379, R388). What the
planner makes of the run tree (`Planner.lean`) is checked here and put into place. -/

namespace Sys2Proof

open Machine

/-- Virtual pages have their first address below 2^57. -/
def Page.isVirtual (p : Page) : Bool := decide (p.base < 2 ^ 57)

/-- Two page entries of a hive share storage (R282, R283): units of the same rows of a bank, or LPDDR6 frames. A 2 MiB page
takes its unit in each of 32 banks. -/
def entriesMeet (d e : Nat) (bigD bigE : Bool) : Bool :=
  let n (big : Bool) : Nat := if big then 32 else 1
  let meet (a b : Nat) : Bool := decide (a < b + n bigE) && decide (b < a + n bigD)
  d / 2 ^ 60 % 4 == e / 2 ^ 60 % 4 &&
    (if d / 2 ^ 60 % 4 = 0 then
      d / 2 ^ 40 % 256 == e / 2 ^ 40 % 256 && d / 2 ^ 25 % 256 == e / 2 ^ 25 % 256 && meet (d / 2 ^ 33 % 128) (e / 2 ^ 33 % 128)
    else meet (d % 2 ^ 24) (e % 2 ^ 24))

end Sys2Proof

namespace Sys2Proof.Machine

/-! ### What the planner refuses -/

/-- The reserved REPL of a launch descriptor (R298). -/
def launchBad (l : List Word) : Bool := ((l[1]?).getD 0).toNat / 4 % 4 == 1

def launchRcb (l : List Word) : Nat := ((l[0]?).getD 0).toNat % 2 ^ 48
def launchRepl (l : List Word) : Nat := max 1 (((l[1]?).getD 0).toNat / 4 % 4)
def launchAllowOld (l : List Word) : Bool := ((l[1]?).getD 0).getLsbD 1
def launchDchk (l : List Word) : Bool := ((l[1]?).getD 0).getLsbD 0

/-- A slot descriptor that R108 and R304 accept. -/
def slotPlanOk (p : SlotPlan) : Bool :=
  let d0 := p.d0.toNat
  let d1 := p.d1.toNat
  let kind := d0 / 2 ^ 57 % 4
  let rate := d1 / 2 ^ 48
  decide (p.slot < 64) && d0 / 2 ^ 63 == 1 && d0 / 2 ^ 61 % 4 != 0 && kind != 3 && rate != 0 && d1 / 2 ^ 32 % 2 ^ 12 != 0 &&
    (kind != 2 || rate == 1) && decide (rate ≤ 2 ^ (p.d2.toNat / 2 ^ 20 % 16)) && d0 % 8 == 0

/-- Every edge but a `SORTED` one stays in its hive (R221, R304), and every edge leads to an ordinary instance of its consumer; a
launch with an edge that leads to none is refused (DESIGN CHOICE, log entry 79). -/
def edgesOk (g : CellId) (p : SlotPlan) : Bool :=
  p.edges.all fun e => !e.cons.isEmpty && (e.cls == .sorted || e.cons.all fun c => hiveOf c.1 == hiveOf g)

/-- A cell that the planner may place a job on (R303, R305, R372). -/
def State.cellFree (s : State) (g : CellId) : Bool :=
  s.cellExists g && !(s.cellAt g).fenced && (s.combJob (combOf g)).isNone && !(s.hiveAt (hiveOf g)).lost

def State.cellPlanOk (s : State) (p : CellPlan) : Bool :=
  s.cellFree p.cell && decide (p.slots.length ≤ 64) && p.slots.all slotPlanOk && p.slots.all (edgesOk p.cell) &&
    decide ((p.slots.map SlotPlan.slot).Nodup) && schedcfgOk p.schedcfg && p.grants.all (fun b => decide (b < 128)) &&
    p.image.all fun x => decide (x.1 < 0x7F000)

/-- Allowances have 8 bits (R36), and the EV and RQ allowances of a comb sum to at most 2,048 each (R350). -/
def allowancesOk (l : List CellPlan) : Bool :=
  l.all fun p => decide (p.allowEv < 256) && decide (p.allowRq < 256) && decide (p.allowSv < 256) &&
    let mates := l.filter fun q => combOf q.cell == combOf p.cell
    decide (mates.foldl (fun n q => n + q.allowEv) 0 ≤ 2048) && decide (mates.foldl (fun n q => n + q.allowRq) 0 ≤ 2048)

/-- Two entries of a page set give no address of one page twice (R267); a scratchpad page is one of its hive. -/
def addressesApart (p q : Page) : Bool :=
  decide (p.base + p.size ≤ q.base) || decide (q.base + q.size ≤ p.base) ||
    (!p.isVirtual && !q.isVirtual && p.homes.all fun h => q.homes.all fun k => h.1 != k.1)

/-- Every page of a set stands in it once. -/
def pagesOnce : List Page → Bool
  | [] => true
  | p :: r => r.all (addressesApart p) && pagesOnce r

/-- The doubleword d0 of a page entry (R282, R283, R289): VALID, SZ and HOME as the page has them, reserved bits zero, a unit
below 192 of the super, or a location of LPDDR6 below the reserved region. -/
def entryOk (hive : Nat) (p : Page) (d : Nat) : Bool :=
  (d / 2 ^ 63 == 1) == p.mapped && (!p.mapped ||
    ((d / 2 ^ 62 % 2 == 1) == p.big && d / 2 ^ 54 % 64 == hive && d / 2 ^ 48 % 64 == 0 && d / 2 ^ 24 % 2 == 0 &&
      (if d / 2 ^ 60 % 4 = 0 then
        d % 2 ^ 24 == 0 && decide (d / 2 ^ 25 % 2 ^ 8 < 192) && (!p.big || d / 2 ^ 33 % 2 ^ 7 % 32 == 0)
      else d / 2 ^ 60 % 4 == 1 && d / 2 ^ 25 % 2 ^ 23 == 0 && decide (2 ^ 16 * (d % 2 ^ 24) + p.size ≤ 0xFE00000000) &&
        (!p.big || d % 32 == 0))))

/-- One page of a page set (R51, R267, R282, R283, R289, R359). The fold status page is mapped into the super of every hive
that holds a copy. -/
def pageOk (hives : List Nat) (p : Page) : Bool :=
  let isStatus := p.base == statusPage
  p.base % p.size == 0 && (p.homes.length == 1 || isStatus) &&
    p.homes.all (fun h => hives.contains h.1 && (!p.isVirtual || entryOk h.1 p h.2.toNat)) &&
    !(p.isVirtual && inReductionRange p.base && Rule.notReducing p.rule) &&
    (!isStatus || (p.state == .frozen && p.mapped && !p.big && p.homes.all fun h => h.2.toNat / 2 ^ 60 % 4 == 0))

/-- A scratchpad page lies in a comb that is there (R2, R341). -/
def State.scratchOk (s : State) (p : Page) : Bool :=
  p.isVirtual || p.homes.all fun h => decide (scratchWindow ≤ p.base) && decide (p.base < scratchWindow + 2 ^ 31) && !p.big &&
    decide ((p.base - scratchWindow) % 2 ^ 23 < 2 ^ 22) && s.combExists h.1 ((p.base - scratchWindow) / 2 ^ 23)

/-- A page that stays frozen for the life of its job: it is frozen, and no cell of the job may make a request for it, for
its last holder is none of them (R52, R240, R281; log entry 58). -/
def frozenForLife (cells : List CellId) (p : Page) : Bool :=
  p.state == .frozen && !p.homes.any fun h => cells.contains (h.1 * 4096 + p.last % 4096)

/-- Two valid entries of one hive share no storage unless both pages are frozen for life (R281, R283). -/
def pagesApart (x y : Page × Bool) : Bool :=
  let p := x.1
  let q := y.1
  !(p.mapped && q.mapped && p.isVirtual && q.isVirtual) || (x.2 && y.2) ||
    p.homes.all fun h => q.homes.all fun k => h.1 != k.1 || !entriesMeet h.2.toNat k.2.toNat p.big q.big

def allApart : List (Page × Bool) → Bool
  | [] => true
  | x :: r => r.all (pagesApart x) && allApart r

/-- The pages of a job with whether they are frozen for life. -/
def lifePages (cells : List CellId) (l : List Page) : List (Page × Bool) := l.map fun p => (p, frozenForLife cells p)

/-- A page lies in a logical bank of a comb's super: one of 64 KiB in one bank, one of 2 MiB in 32 (R282, R283). -/
def pageInBank (hive comb bank : Nat) (p : Page) : Bool :=
  p.mapped && p.isVirtual && p.homes.any fun h =>
    let d := h.2.toNat
    let b := d / 2 ^ 33 % 2 ^ 7
    h.1 == hive && d / 2 ^ 60 % 4 == 0 && d / 2 ^ 40 % 256 == comb && decide (b ≤ bank) &&
      decide (bank < b + (if p.big then 32 else 1))

/-- A super page lies in a frame bank that a cell is granted (R192, R283). -/
def pageInGrant (c : CellPlan) (p : Page) : Bool := c.grants.any fun n => pageInBank (hiveOf c.cell) (combIndex c.cell) n p

/-- A super bank that is withheld from placement (R374). -/
def State.bankWithheld (s : State) (hive comb bank : Nat) : Bool :=
  (s.hiveAt hive).fencedUnits.contains (.superBank hive comb bank)

/-- The super of a comb has left the working list: with its die, with its comb, or until a spare comes in (R372, R374). -/
def State.superAway (s : State) (hive comb : Nat) : Bool :=
  let h := s.hiveAt hive
  h.absentDies.contains (comb / 16) || h.absentCombs.contains comb || h.fencedUnits.contains (.comb hive comb) ||
    h.fencedUnits.contains (.die hive (comb / 16))

/-- The banks of a super page are on what remains (R374). -/
def State.pagePlaced (s : State) (q : Page) : Bool :=
  !(q.mapped && q.isVirtual) || q.homes.all fun h =>
    let d := h.2.toNat
    d / 2 ^ 60 % 4 != 0 || (!s.superAway h.1 (d / 2 ^ 40 % 256) && (List.range (if q.big then 32 else 1)).all fun k =>
      !s.bankWithheld h.1 (d / 2 ^ 40 % 256) (d / 2 ^ 33 % 2 ^ 7 + k))

/-- A placement uses no super bank that is withheld or absent (R374). -/
def State.banksOk (s : State) (p : Placement) : Bool :=
  p.cells.all (fun c => c.grants.all fun b => !s.bankWithheld (hiveOf c.cell) (combIndex c.cell) b) && p.pages.all s.pagePlaced

/-- Jobs that hold cells. -/
def State.liveJobs (s : State) : List Job := (s.jobs.map (·.2)).filter fun j => !j.ended

/-- No bank is granted twice, and none that is granted, by this launch or to another job, holds a page (R192, R283). -/
def State.grantsOk (s : State) (p : Placement) : Bool :=
  decide ((p.cells.flatMap fun c => c.grants.map fun b => combOf c.cell * 128 + b).Nodup) &&
    let plans := p.cells ++ s.liveJobs.flatMap Job.plans
    let pages := p.pages ++ s.liveJobs.flatMap Job.pages
    !(plans.any fun c => pages.any (pageInGrant c))

/-- What R303-R305, R280, R295, R350 and R359 ask of a placement. -/
def State.planOk (s : State) (allowOld : Bool) (p : Placement) : Bool :=
  !p.hives.isEmpty && p.hives.all (fun h => decide (h < 64) && (s.hiveAt h).stage == 6) &&
    p.cells.all (fun c => p.hives.contains (hiveOf c.cell) && s.cellPlanOk c) && !p.cells.isEmpty &&
    decide ((p.cells.map CellPlan.cell).Nodup) && allowancesOk p.cells &&
    decide (p.asid < 2 ^ 16) && p.pages.all (pageOk p.hives) && p.pages.all s.scratchOk && pagesOnce p.pages && p.pages.any (fun q => q.base == statusPage && p.hives.all fun h => q.homes.any fun k => k.1 == h) &&
    allApart (lifePages (p.cells.map CellPlan.cell) p.pages ++ s.liveJobs.flatMap fun j => lifePages j.cells j.pages) && s.banksOk p &&
    s.grantsOk p &&
    (allowOld || p.hives.all fun h => p.remoteOps.all fun o => !lacksOp (s.hiveAt h).rev o) &&
    s.liveJobs.all (fun j => j.asid != p.asid || j.hives.all fun h => !p.hives.contains h) &&
    p.hives.all fun h =>
      decide ((s.liveJobs.filter fun j => j.hives.contains h).foldl (fun n j => n + j.penb) p.penb ≤ 2 ^ 32)

/-- Where a plan puts its actors: hive position, LCID, and the slot of each actor and number (R379). -/
def planShape (p : Placement) : List (Nat × Nat × List (Nat × Nat × Option Nat)) :=
  p.cells.map fun c => ((p.hives.filter fun h => decide (h < hiveOf c.cell)).length, lcidOf c.cell,
    c.slots.map fun x => (x.slot, x.actor, x.number))

/-- Replicas lie on disjoint hives and are placed alike (R379). -/
def replicasOk : List Placement → Bool
  | [] => true
  | p :: r => r.all (fun q => planShape p == planShape q && p.hives.all fun h => !q.hives.contains h) && replicasOk r

/-! ### Putting cells into their state at launch (R305) -/

/-- Doublewords of a slot descriptor (R50); QPTR is 0. -/
def slotPlanWords (p : SlotPlan) : List Word := [p.d0, p.d1, p.d2, 0, p.d4, p.d5]

/-- What the cell keeps of a slot beside its descriptor. -/
def slotPlanDyn (p : SlotPlan) (now : Nat) : SlotDyn :=
  ⟨p.slot, p.edges, [], 0, p.forkTo, p.seqFrom, p.stateSize, now, [], [], []⟩

/-- The words of full/empty bits and ZOV bits in a range of physical memory are cleared. -/
def clearWords (l : List Nat) (a n : Nat) : List Nat := l.filter fun w => !(decide (a ≤ w * 8) && decide (w * 8 < a + n))

/-- The generation of every join buffer is incremented, and none has entries (R305, R319). -/
def Cell.freshJoins (c : Cell) : List (Nat × JoinBuf) :=
  (List.range 64).map fun k => (k, ⟨((((look c.joins k).map fun b => b.gen).getD 0) + 1) % 2 ^ 16, []⟩)

/-- Zero a cell's TCM and Z array, and load what the planner placed (R305). -/
def State.loadCell (s : State) (p : CellPlan) : State :=
  let g := p.cell
  let s := (s.zero (tcmBase g) (2 ^ 19)).zero (zAddr g 0) (2 ^ 17)
  let s := { s with zov := clearWords s.zov (zAddr g 0) (2 ^ 17)
                    mem := p.image.foldl (fun m x => Memory.set m (tcmBase g + x.1) x.2) s.mem }
  p.slots.foldl (fun s x => s.writeBytes (descAddr g x.slot 0) ((slotPlanWords x).flatMap fun v => toBytes v.toNat 8)) s

/-- Each cell's pen allotment (R299). -/
def penAllotment (penb cells : Nat) : Nat := penb / cells / 64 * 64

/-- Nothing that waits for a cell is left from before (R305). -/
def State.emptySpill (s : State) (g : CellId) : State :=
  let h := s.hiveAt (hiveOf g)
  s.setHive (hiveOf g) { h with waiting := h.waiting.filter fun x => x.dst != g }

/-- A cell as the planner sets it for job `n` (R305, R373). -/
def State.initCell (s : State) (n allot : Nat) (p : CellPlan) : State :=
  let s := s.loadCell p
  let c := s.cellAt p.cell
  s.setCell p.cell { Cell.reset with
    job := some n, slots := sortBy (fun x : Nat × SlotDyn => x.1) (p.slots.map fun x => (x.slot, slotPlanDyn x s.now))
    allowEv := p.allowEv, allowRq := p.allowRq, allowSv := p.allowSv, pmask := p.pmask, schedcfg := p.schedcfg
    tcmpwr := c.tcmpwr, engctr := c.engctr, banks := c.banks, joins := c.freshJoins, nextId := c.nextId
    penLeft := allot, penAllot := allot }

/-- Grant a frame bank; one last granted to another job is cleared (R305). `rcb` is the job's block with its hive. -/
def State.grantBank (s : State) (rcb : Nat) (g : CellId) (b : Nat) : State :=
  let n := combOf g
  let f := s.frameBank n b
  let s := if f.lastJob = some rcb then s else s.zero (frameAddr n b 0) (12288 * 1024)
  s.setFrameBank n b { f with grant := some g, lastJob := some rcb }

/-- The comb of a launched cell: function slots 0 and no page-state entry of another job (R232, R305). -/
def State.initComb (s : State) (g : CellId) : State :=
  let n := combOf g
  s.setComb n { s.combAt n with fns := Vector.replicate 8 0, waiters := [], cached := [] }

/-- Clear the scratchpad pages of a page set with F = 0 (R277, R305). -/
def State.clearScratch (s : State) (p : Page) : State :=
  if p.isVirtual then s
  else match p.homes.head? with
    | none => s
    | some (h, _) =>
      let o := p.base - scratchWindow
      let a := scratchAddr (h * 256 + o / 2 ^ 23) (o % 2 ^ 23)
      let s := s.zero a p.size
      { s with full := clearWords s.full a p.size }

/-- The fold status block before the first fold (R267). -/
def State.clearStatus (s : State) (p : Placement) : State :=
  match p.pages.find? fun q => q.base == statusPage with
  | none => s
  | some q => q.homes.foldl (fun s h =>
      s.cachedWords (q.addr h.1 statusPage) [0, 0, BitVec.allOnes 64, BitVec.allOnes 64, 0, 0, 0, 0]) s

/-- The lowest job number from 1 that no job on the machine has (log entry 32). -/
def State.freeNumber (s : State) : Nat :=
  ((List.range 255).find? fun k => s.liveJobs.all fun j => j.number != k + 1).getD 254 + 1

/-- The job of a plan. -/
def planJob (p : Placement) (number rcb group replica : Nat) (dchk : Bool) : Job where
  number := number
  asid := p.asid
  hives := p.hives
  cells := p.cells.map CellPlan.cell
  rcb := rcb
  plans := p.cells
  penb := p.penb
  step := 0
  dchk := dchk
  phase := .open
  doneHives := []
  gather := none
  pages := p.pages.map fun q => { q with request := none, dirty := false }
  pen := []
  redEntries := []
  partials := []
  faultedCells := []
  redSlots := []
  figures := FoldFigures.none
  xamoResults := []
  xamList := []
  badPen := []
  undo := []
  differed := false
  group := group
  replica := replica
  digests := []
  lateRoots := []
  appliedAt := 0
  stallSince := none
  stopped := false
  halted := none
  ended := false

/-- Launch one plan, of the run tree at `rcb` of a hive (R305). -/
def State.launchPlan (s : State) (hive rcb number group replica : Nat) (dchk : Bool) (p : Placement) : State :=
  let n := s.nextId
  let s := { s with nextId := n + 1 }
  let s := s.setJob n (planJob p number rcb group replica dchk)
  let s := p.cells.foldl (fun s c => ((s.initCell n (penAllotment p.penb p.cells.length) c).emptySpill c.cell).initComb c.cell) s
  let s := p.cells.foldl (fun s c => c.grants.foldl (fun s b => s.grantBank (droverKey hive rcb) c.cell b) s) s
  let s := (p.pages.foldl State.clearScratch s).clearStatus p
  p.cells.foldl (fun s c => s.offer c.cell) s

def launchAll (hive rcb number group : Nat) (dchk : Bool) : Nat → List Placement → State → State
  | _, [], s => s
  | k, p :: r, s => launchAll hive rcb number group dchk (k + 1) r (s.launchPlan hive rcb number group k dchk p)

/-- The answer of a JOBCTL verb (R388). -/
def State.jobctl (s : State) (hive status : Nat) : State := s.setHive hive { s.hiveAt hive with jobctlStatus := status }

/-! ### Spares at the next launch (R376, R377) -/

/-- A unit's jobs are stopped, and it has been put aside: a cell that only hung comes back (R376). -/
def State.returnCell (s : State) (g : CellId) : State :=
  let h := s.hiveAt (hiveOf g)
  let s := s.setCell g { Cell.reset with nextId := (s.cellAt g).nextId, joins := (s.cellAt g).joins }
  s.setHive (hiveOf g) { h with fencedUnits := h.fencedUnits.filter (· != .cell g) }

/-- Hung cells whose fault is transient return when a launch begins (R376). -/
def State.returnCells (s : State) (hive : Nat) : State :=
  let h := s.hiveAt hive
  let stays : Faulty → Bool := fun u => match u with
    | .cell g => (s.cellAt g).job.isSome
    | _ => true
  let s := s.setHive hive { h with returning := h.returning.filter stays }
  h.returning.foldl (fun s u => match u with
    | .cell g => if (s.cellAt g).job.isNone then s.returnCell g else s
    | _ => s) s

/-! ### Resuming and ending (R305, R370, R388) -/

/-- The jobs on the machine with a number. -/
def State.jobsNumbered (s : State) (number : Nat) : List Nat :=
  (s.jobs.filter fun x => x.2.number == number && !x.2.ended).map (·.1)

/-! ### Stopping (R370) -/

/-- A strand counts as stopped: no window or shadow is open, and what `DONE` waits for is over. -/
def State.strandStopped (s : State) (g : CellId) (k : StrandId) : Bool :=
  match (s.strandAt g k).run with
  | .free | .leaving | .starting _ | .claimed => true
  | _ => (s.strandAt g k).amov.isNone && (s.at g k).drained

/-- Every strand of a stopped job has stopped; those of a fenced cell do nothing (R372). -/
def State.jobStopped (s : State) (j : Job) : Bool :=
  j.stopped && j.cells.all fun g => (s.cellAt g).fenced || ([0, 1, 2, 3] : List StrandId).all fun k => s.strandStopped g k

/-- The drovers' route tables name the links that are fenced now (R354). -/
def State.rerouted (s : State) : State :=
  { s with hives := s.hives.map fun x => (x.1, { x.2 with offLinks := x.2.fencedUnits.filterMap fun u => match u with
    | .link _ p => some p
    | _ => none }) }

/-- The jobs of which a route would change with the route tables (R354). -/
def State.routeUsers (s : State) : List Nat :=
  let t := s.rerouted
  if s.hives == t.hives then []
  else (s.jobs.filter fun x => !x.2.ended && x.2.hives.any fun a => x.2.hives.any fun b => s.fabricRoute a b != t.fabricRoute a b).map (·.1)

/-- The routes change, once every firing of every job whose route changes is stopped (R354). -/
def State.settleRoutes (s : State) : State :=
  if s.routeUsers.all fun n => ((s.jobAt n).map s.jobStopped).getD true then s.rerouted else s

/-- Every unit that the job was placed on is still on the hive's working list (R374), and its cells hold it. -/
def State.jobWhole (s : State) (j : Job) : Bool :=
  (j.hives.all fun h => !(s.hiveAt h).lost) && (j.cells.all fun g => s.cellExists g && (s.cellAt g).job.isSome) &&
    j.pages.all s.pagePlaced &&
    j.plans.all fun p => p.grants.all fun b => !s.bankWithheld (hiveOf p.cell) (combIndex p.cell) b

/-- A job goes on where it stopped (R370). -/
def State.releaseJob (s : State) (n : Nat) : State :=
  match s.jobAt n with
  | none => s
  | some j =>
    let s := s.setJob n { j with stopped := false, halted := none, lateRoots := [] }
    let s := if s.anyFolded j then s.stillPending (.foldGather n) else s
    j.cells.foldl State.offer s

/-- A ready hive has taken a verb of JOBCTL and not answered it (R388). -/
def Hive.asked (h : Hive) (verb : Nat) : Bool := h.stage == 6 && h.jobctlStatus == 2 && h.jobctlVerb == verb

/-- JOB_RESUME (R370, R388): verb 2 of JOBCTL has been written; legal for a halted job that has lost no unit for good, for that
one waits to be restarted (R374). The routes change first that wait for the job to stand still (R354). -/
def execJobResume (hive : Nat) (s : State) : Host.Outcome State Fault Refusal :=
  .next (
    let l := (s.jobsNumbered (s.hiveAt hive).jobctlJob).filter fun n =>
      ((s.jobAt n).map fun j => j.halted.isSome).getD false
    if !(s.hiveAt hive).asked 2 then s
    else if l.isEmpty || l.any (fun n => !((s.jobAt n).map s.jobWhole).getD false) then s.jobctl hive 3
    else
      let s := s.settleRoutes
      if l.any s.routeUsers.contains then s.stillPending (.jobResume hive)
      else (l.foldl State.releaseJob s).jobctl hive 0)

/-- JOB_END (R305, R388): verb 3 of JOBCTL has been written. -/
def execJobEnd (hive : Nat) (s : State) : Host.Outcome State Fault Refusal :=
  .next (
    let l := s.jobsNumbered (s.hiveAt hive).jobctlJob
    if !(s.hiveAt hive).asked 3 then s
    else if l.isEmpty then s.jobctl hive 3
    else (l.foldl State.removeJob s).jobctl hive 0)

end Sys2Proof.Machine
end

