-- ==== Sys2Proof/Machine/Bridge.lean ====
section
/-! DEFINITION. The host's side: the host ring and its descriptors, the management registers, attestation (R290, R362-R364,
R386, R388). -/

namespace Sys2Proof

/-! ### Boot images (R385) -/

/-- The parts lie in the image. -/
def ImageLayout.fits (y : ImageLayout) (size : Nat) : Bool :=
  decide (y.length ≤ size) && decide (y.keyAt + 57 ≤ y.length) && decide (y.signatureAt + 114 ≤ y.length) &&
    decide (y.svnAt + 4 ≤ y.length) && decide (y.repairAt + y.repairLength ≤ y.length)

/-- The image at the start of a slot's bytes. -/
def imageOf (l : List Byte) : Option Image :=
  (Config.imageLayout l).bind fun y => if y.fits l.length then some ⟨l.take y.length, y⟩ else none

/-- Bytes of an image. -/
def Image.part (i : Image) (a n : Nat) : List Byte := (i.bytes.drop a).take n
/-- The 57-byte key, the 114-byte signature, and what the signature is over: every byte but its own. -/
def Image.key (i : Image) : List Byte := i.part i.layout.keyAt 57
def Image.signature (i : Image) : List Byte := i.part i.layout.signatureAt 114
def Image.body (i : Image) : List Byte := i.bytes.take i.layout.signatureAt ++ i.bytes.drop (i.layout.signatureAt + 114)
/-- The 32-bit security version and the bytes of the repair map. -/
def Image.svn (i : Image) : Nat := Machine.ofBytes (i.part i.layout.svnAt 4)
def Image.repair (i : Image) : List Byte := i.part i.layout.repairAt i.layout.repairLength

end Sys2Proof

namespace Sys2Proof.Machine

/-! ### The flash (R383, R385) -/

/-- Byte of a hive's flash of 256 MiB: as it was last written, else as it left the factory. -/
def State.flashByte (s : State) (hive k : Nat) : Byte := (look s.flash (hive * 2 ^ 28 + k)).getD (Config.factoryFlash hive k)

def State.flashBytes (s : State) (hive k n : Nat) : List Byte := (List.range n).map fun i => s.flashByte hive (k + i)

def writeFlashFrom (key : Nat) : List Byte → List (Nat × Byte) → List (Nat × Byte)
  | [], m => m
  | b :: r, m => writeFlashFrom (key + 1) r (put m key b)

def State.writeFlash (s : State) (hive k : Nat) (l : List Byte) : State :=
  { s with flash := writeFlashFrom (hive * 2 ^ 28 + k) l s.flash }

/-- Where image slots A and B and the counter block lie in the flash (log entry 20). -/
def slotAt (slot : Nat) : Nat := slot * 2 ^ 26
def counterAt : Nat := 2 ^ 27

/-- The 64 MiB of an image slot. -/
def State.slotBytesOf (s : State) (hive slot : Nat) : List Byte := s.flashBytes hive (slotAt slot) (2 ^ 26)

/-- The counter block: the counter, and whether its MAC is right (R385). -/
def counterMac (hive counter : Nat) : List Byte := shake256 (Config.counterKey hive ++ toBytes counter 4) 32
def State.counter (s : State) (hive : Nat) : Nat := ofBytes (s.flashBytes hive counterAt 4)
def State.counterOk (s : State) (hive : Nat) : Bool :=
  s.flashBytes hive (counterAt + 4) 32 == counterMac hive (s.counter hive)

/-- Advance the counter block. -/
def State.setCounter (s : State) (hive counter : Nat) : State :=
  s.writeFlash hive counterAt (toBytes counter 4 ++ counterMac hive counter)

/-! ### The host ring (R362, R363) -/

/-- The hive's endpoint faces the host and has trained, and its registers are open (R362, R385). -/
def State.bridgeReady (s : State) (hive : Nat) : Bool :=
  s.bridgeOf hive == hive && (s.hiveAt hive).stage == 6 && (s.hiveAt hive).endpoint

/-- HRTAIL (R363, R388): the doorbell of the bridge hive announces the descriptors up to the tail, counted in descriptors of
the ring (log entry 61). They lie in host memory and come as happenings of their own. -/
def execHrtail (hive tail : Nat) (s : State) : Host.Outcome State Fault Refusal :=
  .next (if s.bridgeReady hive then s.setHive hive { s.hiveAt hive with hrtail := BitVec.ofNat 64 tail } else s)

/-- A descriptor has been announced and not been read (R363). -/
def Hive.ringHas (h : Hive) : Bool := h.hrsize.toNat != 0 && h.hrhead != h.hrtail.toNat % h.hrsize.toNat

/-- The bridge reads the next descriptor of its ring: each is read once, in ring order (R363). A read that finds another
TYPE than the happening is for is none of it. -/
def State.takeDescriptor (s : State) (hive : Nat) (mine : Bool) : Option State :=
  let h := s.hiveAt hive
  if s.bridgeReady hive && h.ringHas && mine then some (s.setHive hive { h with hrhead := (h.hrhead + 1) % h.hrsize.toNat })
  else none

/-! ### Descriptors (R363) -/

/-- Doubleword `k` of a descriptor. -/
def descWord (d : List Word) (k : Nat) : Nat := ((d[k]?).getD 0).toNat

def descType (d : List Word) : Nat := descWord d 0 / 2 ^ 62
def transferLpddr (d : List Word) : Bool := descWord d 0 / 2 ^ 61 % 2 == 1
def transferHive (d : List Word) : Nat := descWord d 0 / 2 ^ 54 % 64
def transferLen (d : List Word) : Nat := descWord d 0 % 2 ^ 25
def transferLoc (d : List Word) : Nat := descWord d 1 % 2 ^ 40

/-- The reserved fields that every descriptor has. -/
def descReserved (d : List Word) : Bool :=
  descWord d 0 / 2 ^ 60 % 2 != 0 || descWord d 0 / 2 ^ 25 % 2 ^ 29 != 0 || descWord d 6 != 0

/-- The range of a super transfer stays in rows that exist; it steps as an integer. -/
def superRangeOk (loc len : Nat) : Bool :=
  loc / 2 ^ 24 == (loc + len - 1) / 2 ^ 24 && decide ((loc + len - 1) / 2 ^ 10 % 2 ^ 14 < 12288) && decide (loc < 2 ^ 39)

/-- A transfer descriptor of TYPE `t` that the bridge accepts. The target hive's memories can be reached once its image is
verified and it is ready (R385). -/
def State.transferOk (s : State) (t : Nat) (d : List Word) : Bool :=
  let len := transferLen d
  descWord d 0 / 2 ^ 62 == t && !descReserved d && descWord d 1 / 2 ^ 40 == 0 && len % 32 == 0 && decide (32 ≤ len) &&
    decide (len ≤ 2 ^ 24) && (s.hiveAt (transferHive d)).stage == 6 &&
    (if transferLpddr d then decide (transferLoc d + len ≤ 0xFE00000000) else superRangeOk (transferLoc d) len)

/-- First byte of a transfer at its controllers. -/
def transferPhys (d : List Word) : Nat :=
  if transferLpddr d then lpddrAddr (transferHive d) (transferLoc d) else superAddr (transferHive d) (transferLoc d)

/-- The completion record of a descriptor. -/
def hostRecord (d : List Word) (kind status : Nat) (data : List Byte) : HostRecord :=
  ⟨BitVec.ofNat 64 (descWord d 7), kind, status, 0, 0, data⟩

/-- The bridge keeps an accepted descriptor until it completes. -/
def State.addHostJob (s : State) (hive : Nat) (x : HostJob) : State :=
  s.setHive hive { s.hiveAt hive with hostJobs := (s.hiveAt hive).hostJobs ++ [x] }

/-- TRANSFER_IN (R290, R363): the bytes go to the controllers without passing the slices. A descriptor of the reserved TYPE 3
is refused here. -/
def execTransferIn (hive : Nat) (d : List Word) (data : List Byte) (s : State) : Host.Outcome State Fault Refusal :=
  .next (match s.takeDescriptor hive (descType d == 0 || descType d == 3) with
    | none => s
    | some s => if !s.transferOk 0 d then s.postRecord hive (hostRecord d 0 1 [])
    else
      let bytes := (List.range (transferLen d)).map fun k => (data[k]?).getD 0
      let s := s.writeBytes (transferPhys d) bytes
      (s.addHostJob hive ⟨0, transferHive d, d, [], 0⟩).push (.transferComplete hive))

/-- A word at its controller cannot be read: it is marked, or the controller delivers no data (R292; log entry 69). -/
def State.wordLost (s : State) (a : Nat) : Bool := s.marked a || s.silent a

/-- Bytes of a range at the controllers, with every word that cannot be read as zeros (R293). -/
def State.unmarkedBytes (s : State) (a n : Nat) : List Byte :=
  (List.range n).map fun k => if s.wordLost (a + k) then 0 else s.byte (a + k)

/-- TRANSFER_OUT (R290, R293, R363): the bytes come from the controllers. -/
def execTransferOut (hive : Nat) (d : List Word) (s : State) : Host.Outcome State Fault Refusal :=
  .next (match s.takeDescriptor hive (descType d == 1) with
    | none => s
    | some s => if !s.transferOk 1 d then s.postRecord hive (hostRecord d 0 1 [])
    else
      let a := transferPhys d
      let st := if (List.range (transferLen d)).any fun k => s.wordLost (a + k) then 2 else 0
      (s.addHostJob hive ⟨1, transferHive d, d, s.unmarkedBytes a (transferLen d), st⟩).push (.transferComplete hive))

/-- Take the first entry that satisfies a test. -/
def takeFirst {α : Type} (p : α → Bool) : List α → Option (α × List α)
  | [] => none
  | a :: r => if p a then some (a, r) else (takeFirst p r).map fun x => (x.1, a :: x.2)

/-- TRANSFER_COMPLETE (R364): the oldest transfer's bytes are performed, its record is written and vector 0 raised; a
message that waited for it may go. -/
def execTransferComplete (hive : Nat) (s : State) : Host.Outcome State Fault Refusal :=
  .next (match takeFirst (fun x : HostJob => x.kind != 2) (s.hiveAt hive).hostJobs with
    | none => s
    | some (x, rest) =>
      let s := s.setHive hive { s.hiveAt hive with hostJobs := rest }
      s.postRecord hive (hostRecord x.d 0 x.status x.data))

/-! ### Messages of the host (R23, R363, R364) -/

/-- The cell and the slot that the `m0` of a host message names. -/
def hostDst (d : List Word) : CellId := descWord d 1 / 2 ^ 12 % 64 * 4096 + descWord d 1 % 4096
def hostSlot (d : List Word) : Nat := descWord d 1 / 2 ^ 18 % 64

/-- A message descriptor that the bridge accepts. -/
def State.hostMessageOk (s : State) (d : List Word) : Bool :=
  descWord d 0 / 2 ^ 62 == 2 && !descReserved d && !transferLpddr d && transferHive d == 0 && descWord d 1 / 2 ^ 26 == 0 &&
    s.cellExists (hostDst d) && (s.jobOf (hostDst d)).isSome

/-- HOST_MESSAGE (R363): a message that passes the checks is held behind the transfers before it. -/
def execHostMessage (hive : Nat) (d : List Word) (s : State) : Host.Outcome State Fault Refusal :=
  .next (match s.takeDescriptor hive (descType d == 2) with
    | none => s
    | some s => if !s.hostMessageOk d then s.postRecord hive (hostRecord d 1 1 [])
    else (s.addHostJob hive ⟨2, hiveOf (hostDst d), d, [], 0⟩).push (.hostMessageDelivery hive))

/-- The source that stands for the host: no cell has this number. -/
def hostCell : CellId := 64 * 4096

/-- The input that a host message becomes (R364): INKIND 1 on RQ, counted against no cell's allowance. -/
def hostInput (d : List Word) : Input where
  dst := hostDst d
  slot := hostSlot d
  kind := .message
  net := .rq
  w1 := BitVec.ofNat 64 (descWord d 2)
  w2 := BitVec.ofNat 64 (descWord d 3)
  w3 := BitVec.ofNat 64 (descWord d 4)
  w4 := BitVec.ofNat 64 (descWord d 5)
  src := hostCell
  srcSlot := 0
  seq := 0
  cls := .add
  edge := 0
  charged := false
  pathLo := 0
  pathHi := 0
  depth := 0
  link := 0
  hostTag := some (BitVec.ofNat 64 (descWord d 7))

/-- The message may be delivered: its job is not between seal and release (R263, R364). -/
def State.mayDeliver (s : State) (x : HostJob) : Bool :=
  match s.jobOf (hostDst x.d) with
  | some (_, j) => j.phase == .open
  | none => true

/-- The messages of a ring that nothing before them holds back: no transfer to their hive (R364), and no message to their
cell, since messages of one path arrive in the order in which the bridge read them (R342, R363). -/
def State.messages (s : State) (hives : List Nat) (cells : List CellId) : List HostJob → List HostJob
  | [] => []
  | x :: r =>
    let dst := hostDst x.d
    let rest := s.messages (if x.kind = 0 then x.hive :: hives else hives) (if x.kind = 2 then dst :: cells else cells) r
    if x.kind = 2 && !hives.contains x.hive && !cells.contains dst && s.mayDeliver x then x :: rest else rest

/-- The message that is delivered next: no rule orders messages to different cells, so a free value chooses (R258, R342,
log entry 37). -/
def State.nextMessage (s : State) (l : List HostJob) : Option (HostJob × List HostJob) :=
  let m := s.messages [] [] l
  (m[s.takeFree.1.toNat % m.length]?).map fun x => (x, l.erase x)

/-- HOST_MESSAGE_DELIVERY (R225, R364): the message reaches its slot, or fails the arrival checks with STATUS 3; its record
is written and vector 0 raised. -/
def execHostMessageDelivery (hive : Nat) (s : State) : Host.Outcome State Fault Refusal :=
  .next (match s.nextMessage (s.hiveAt hive).hostJobs with
    | none => if (s.hiveAt hive).hostJobs.any (fun x => x.kind == 2) then s.stillPending (.hostMessageDelivery hive) else s
    | some (x, rest) =>
      let i := hostInput x.d
      let bad := (s.cellAt i.dst).job.isNone || (!(s.cellAt i.dst).fenced && s.arrivalFails i false)
      if !bad && s.arrivalWaits i then s.stillPending (.hostMessageDelivery hive) else
      let s := s.takeFree.2
      let s := s.setHive hive { s.hiveAt hive with hostJobs := rest }
      let s := s.countSent i.dst
      let s := if bad then s.refuseInput i else s.deliver i
      s.postRecord hive (hostRecord x.d 1 (if bad then 3 else 0) []))

/-! ### Attestation (R386) -/

/-- IDENT.PART (R388). -/
def State.part (s : State) : Nat := if s.combsPerDie = 16 then 0x4096 else 0x3584

def padTo (n : Nat) (l : List Byte) : List Byte := l.take n ++ List.replicate (n - l.length) 0

/-- Bytes 0-141 of the report: the repair map together with the retirement log is digested. -/
def State.reportBody (s : State) (hive : Nat) : List Byte :=
  let h := s.hiveAt hive
  padTo 32 h.attnonce ++ shake256 h.image 64 ++ toBytes h.svn 4 ++ toBytes s.part 2 ++ toBytes h.rev 2 ++
    shake256 (h.repair ++ h.retlog.flatMap fun e => e.flatMap fun v => toBytes v.toNat 8) 32 ++
    List.replicate 6 0

/-- The private seed of DevID (R386): it is never readable, and the flash keeps the certificate of its public key. -/
def devIdSeed (hive : Nat) : List Byte := shake256 (Config.pufKey hive 0) 57

/-- ATTEST (R386, R388): verb 4 of JOBCTL has been written. -/
def execAttest (hive : Nat) (s : State) : Host.Outcome State Fault Refusal :=
  .next (
    if !(s.hiveAt hive).asked 4 then s
    else
      let b := s.reportBody hive
      let s := s.setHive hive { s.hiveAt hive with attrep := b ++ edSign (devIdSeed hive) b }
      s.jobctl hive 0)

/-! ### Management registers (R388) -/

/-- Boot from stage 1 on: nothing that a failed boot has set up is in use (R385). -/
def Hive.bootsAgain (h : Hive) : Hive := { h with stage := 1, code := 0, sparesUsed := [], unitMap := [], linked := false }

/-- BOOTST.RETRY (R385, R388): boot begins again at stage 1, only while STAGE is 15. -/
def State.retryBoot (s : State) (hive : Nat) : State :=
  if (s.hiveAt hive).stage = 15 then s.setHive hive (s.hiveAt hive).bootsAgain else s

/-- RETRY (R385). -/
def execRetry (hive : Nat) (s : State) : Host.Outcome State Fault Refusal := .next (s.retryBoot hive)

/-- A verb waits for its answer. -/
def State.takeVerb (s : State) (hive verb : Nat) : State :=
  s.setHive hive { s.hiveAt hive with jobctlVerb := verb, jobctlStatus := 2 }

/-- A write to JOBCTL (R388): dropped while STATUS is 2. Verbs 2 to 4 are set going; the planner answers verb 1. -/
def State.writeJobctl (s : State) (hive : Nat) (v : Word) : State :=
  let h := s.hiveAt hive
  if h.jobctlStatus = 2 then s
  else
    let s := s.setHive hive { h with jobctlJob := v.toNat / 2 ^ 56 }
    match v.toNat % 16 with
    | 1 => s.takeVerb hive 1
    | 2 => (s.takeVerb hive 2).push (.jobResume hive)
    | 3 => (s.takeVerb hive 3).push (.jobEnd hive)
    | 4 => (s.takeVerb hive 4).push (.attest hive)
    | _ => s

/-- Replace a doubleword of a byte string of `n` bytes. -/
def setDword (n : Nat) (l : List Byte) (off : Nat) (v : Word) : List Byte := overwrite (padTo n l) off (toBytes v.toNat 8)

/-- Bits of the launch descriptor's doublewords that are not reserved (R298). -/
def launchMask (n : Nat) : Word := if n = 0 then 0xFFFFFFFFFFFF else if n = 1 then 0xF else 0

/-- A write to a management register of a ready hive; a register not listed drops it. -/
def Hive.writeReg (h : Hive) (bridge : Bool) (offset : Nat) (v : Word) : Hive :=
  if offset = 0 then (if bridge then { h with hrtail := v } else h)
  else if offset = 0x08 then { h with hrbase := v }
  else if offset = 0x10 then (if 64 ≤ v.toNat ∧ v.toNat ≤ 65536 then { h with hrsize := v } else h)
  else if offset = 0x18 then { h with crbase := v }
  else if offset = 0x20 then { h with crsize := v }
  else if offset = 0x50 then
    (if 600 ≤ v.toNat % 2 ^ 16 ∧ v.toNat % 2 ^ 16 ≤ 1500 then { h with cap := v.toNat % 2 ^ 16 } else h)
  else if 0x100 ≤ offset ∧ offset ≤ 0x118 ∧ offset % 8 = 0 then
    { h with launch := h.launch.set ((offset - 0x100) / 8) (v &&& launchMask ((offset - 0x100) / 8)) }
  else if 0x1000 ≤ offset ∧ offset ≤ 0x1018 ∧ offset % 8 = 0 then
    { h with attnonce := setDword 32 h.attnonce (offset - 0x1000) v }
  else h

/-- MANAGEMENT_REGISTER_WRITE (R385, R388): before stage 6 only BOOTST.RETRY acts. -/
def execManagementRegisterWrite (hive offset : Nat) (v : Word) (s : State) : Host.Outcome State Fault Refusal :=
  .next (
    if offset = 0x48 then (if v.getLsbD 63 then s.retryBoot hive else s)
    else if (s.hiveAt hive).stage != 6 then s
    else if offset = 0x120 then s.writeJobctl hive v
    else s.setHive hive ((s.hiveAt hive).writeReg (s.bridgeOf hive == hive) offset v))

/-! ### Reading registers, and BAR0 (R385, R388) -/

/-- IDENT (R388). -/
def State.ident (s : State) (hive : Nat) : Nat :=
  s.part * 2 ^ 48 + (s.hiveAt hive).rev % 256 * 2 ^ 40 + s.combsPerDie * 2 ^ 32 + hive

/-- BOOTST (R388): RETRY reads as zero. -/
def Hive.bootst (h : Hive) : Nat := h.svn % 2 ^ 31 * 2 ^ 32 + h.code % 256 * 2 ^ 16 + h.bootSlot % 2 * 16 + h.stage % 16

/-- CLKST (R388). -/
def Hive.clkst (h : Hive) : Nat := h.temp % 2 ^ 16 * 2 ^ 32 + h.avgPower % 2 ^ 16 * 2 ^ 16 + h.clock

/-- Doubleword `n` of a list of doublewords, or of bytes. -/
def dwOf (l : List Word) (n : Nat) : Nat := ((l[n]?).getD 0).toNat
def dwOfBytes (l : List Byte) (n : Nat) : Nat := ofBytes ((l.drop (8 * n)).take 8)

/-- A management register as the host reads it (R388): write-only ones and those not listed read zero. -/
def State.readReg (s : State) (hive offset : Nat) : Nat :=
  let h := s.hiveAt hive
  let k := offset / 8
  if offset % 8 != 0 then 0
  else if offset = 0x40 then s.ident hive
  else if offset = 0x48 then h.bootst
  else if h.stage != 6 then 0
  else if offset = 0x08 then h.hrbase.toNat
  else if offset = 0x10 then h.hrsize.toNat
  else if offset = 0x18 then h.crbase.toNat
  else if offset = 0x20 then h.crsize.toNat
  else if offset = 0x28 then h.crhead.toNat
  else if offset = 0x50 then h.cap
  else if offset = 0x58 then h.clkst
  else if 0x100 ≤ offset ∧ offset < 0x120 then dwOf h.launch (k - 0x20)
  else if offset = 0x120 then h.jobctlJob % 256 * 2 ^ 56 + h.jobctlStatus * 256
  else if offset = 0x128 then h.haltst.toNat
  else if offset = 0x130 then h.haltstep.toNat
  else if offset = 0x138 then h.appliedMask.toNat
  else if 0x140 ≤ offset ∧ offset < 0x168 then dwOf h.replrep (k - 0x28)
  else if 0x200 ≤ offset ∧ offset < 0x1000 then dwOf ((h.retlog[(offset - 0x200) / 32]?).getD []) (k % 4)
  else if 0x1000 ≤ offset ∧ offset < 0x1020 then dwOfBytes h.attnonce (k - 0x200)
  else if 0x1100 ≤ offset ∧ offset < 0x1200 then dwOfBytes h.attrep (k - 0x220)
  else 0

/-- The hive whose block an address of BAR0 lies in, with its offset there (R388). -/
def barPlace (bridge addr : Nat) : Option (Nat × Nat) :=
  if addr < 8 * 0x40000 then some (bridge / 8 * 8 + addr / 0x40000, addr % 0x40000) else none

/-- An endpoint answers the host: that of the bridge hive, trained (R362); before stage 6, and where boot has failed, it
answers too, for R385 exposes BAR0 there (log entry 73). -/
def State.barOpen (s : State) (bridge : Nat) : Bool :=
  let h := s.hiveAt bridge
  s.bridgeOf bridge == bridge && h.stage != 0 && (h.stage != 6 || h.endpoint)

/-- BAR0 exposes a register: before the bridge is in stage 6, IDENT and BOOTST alone (R385). -/
def State.barShows (s : State) (bridge offset : Nat) : Bool :=
  (s.hiveAt bridge).stage == 6 || offset == 0x40 || offset == 0x48

/-- The host reads eight bytes of BAR0. -/
def State.barRead (s : State) (bridge addr : Nat) : State :=
  if !s.barOpen bridge then s
  else
    let v := match barPlace bridge addr with
      | some (hive, offset) => if s.barShows bridge offset then s.readReg hive offset else 0
      | none => 0
    s.setHive bridge { s.hiveAt bridge with barData := BitVec.ofNat 64 v }

/-- The host writes eight bytes of BAR0, outside the recovery window: the doorbell, or a register of the block's hive. -/
def State.barWrite (s : State) (bridge addr : Nat) (v : Word) : State :=
  if !s.barOpen bridge then s
  else match barPlace bridge addr with
    | some (hive, offset) => if !s.barShows bridge offset then s else
      outState s (if offset = 0 then execHrtail hive v.toNat s else execManagementRegisterWrite hive offset v s)
    | none => s

end Sys2Proof.Machine
end

