-- ==== Sys2Proof/Machine/Drover.lean ====
section
/-! DEFINITION. The drovers: stopping a job, counting faults, fencing, spares and the recovery window (R353, R369-R377,
R385). -/

namespace Sys2Proof

open Machine

/-- A happening of the cell itself, and not one that is on its way to it. -/
def Instr.ownedBy (g : CellId) (i : Instr) : Bool :=
  Machine.Instr.ofCells [g] i && match i with
    | .inputArrival _ | .sortedEventAbsorb _ | .barrierArrival _ | .taskReturnArrival _ | .steppedOpAccept _ => false
    | _ => true

end Sys2Proof

namespace Sys2Proof.Machine

/-! ### Changing routes (R354) -/

/-- The routes change, and jobs whose routes wait for it are stopped (R354, R370). -/
def State.changeRoutes (s : State) : State :=
  let s := s.settleRoutes
  s.routeUsers.foldl (fun s n => s.stillPending (.stop n)) s

/-- STOP (R354, R370): a job is stopped, and is released once every strand has stopped and the drovers have made their change;
a change of routes waits for every job that it touches. A halted job then waits for the host. -/
def execStop (n : Nat) (s : State) : Host.Outcome State Fault Refusal :=
  .next (match s.jobAt n with
    | none => s
    | some j =>
      if j.ended then s
      else if !j.stopped then (s.setJob n { j with stopped := true }).stillPending (.stop n)
      else if !s.jobStopped j then s.stillPending (.stop n)
      else
        let s := s.settleRoutes
        if s.routeUsers.contains n then s.stillPending (.stop n) else if j.halted.isSome then s else s.releaseJob n)

/-! ### Counting faults (R375-R377) -/

/-- The hive in which a unit lies. -/
def unitHive : Faulty → Nat
  | .cell g | .tcmBank g _ | .zArray g => hiveOf g
  | .comb h _ | .die h _ | .slice h _ _ | .superBank h _ _ | .link h _ | .scratchBank h _ _ | .channel h _ => h

/-- A unit's number in a report (R377): global, or its bank, slice, channel or link number. -/
def unitNumber : Faulty → Nat
  | .cell g | .zArray g => g
  | .comb h c => h * 256 + c
  | .die _ d => d
  | .slice _ d n => d * 16 + n
  | .superBank _ _ b | .scratchBank _ _ b => b
  | .tcmBank _ b => b.val
  | .link _ p => p
  | .channel _ n => n

/-- The unit that is fenced, retired or replaced for a faulty memory: the cell of a TCM bank or a Z array, the comb of a
scratchpad bank (R373; log entry 60). -/
def unitPart : Faulty → Faulty
  | .tcmBank g _ | .zArray g => .cell g
  | .scratchBank h c _ => .comb h c
  | u => u

/-- The policy entry of a class (R376). -/
def Hive.policy (h : Hive) (cls : Nat) : Nat := ((h.fltpol[cls]?).getD 0).toNat

/-- Events of a unit in the window that ends now, the present one included (R376). -/
def Hive.eventCount (h : Hive) (now cls : Nat) (u : Faulty) : Nat :=
  (h.events.filter fun e => e.1 == cls && e.2.1 == u && decide (now < e.2.2 + 2 ^ (h.policy cls / 2 ^ 40 % 64))).length

/-- The verdict on a count (R376). -/
def lastingFault (policy count : Nat) : Bool := policy % 2 == 1 && decide (policy / 2 ^ 32 % 256 ≤ count)

/-- A report of R377: class, unit, count and cycle. -/
def reportWords (cls : Nat) (u : Faulty) (count now : Nat) : List Word :=
  [BitVec.ofNat 64 cls, BitVec.ofNat 64 (unitNumber u), BitVec.ofNat 64 count, BitVec.ofNat 64 now]

/-- A lasting fault enters the retirement log (R377). -/
def Hive.logLasting (h : Hive) (words : List Word) : Hive := { h with retlog := (h.retlog ++ [words]).take 112 }

/-- Count an event of a class (R376, R377): a kind 5 message goes out where the policy asks for it, and a lasting fault
enters the retirement log. Answers whether the fault is lasting. -/
def State.countEvent (s : State) (cls : Nat) (u : Faulty) : Bool × State :=
  let hv := unitHive u
  let h := s.hiveAt hv
  let h := { h with events := (cls, u, s.now) :: h.events }
  let n := h.eventCount s.now cls u
  let words := reportWords cls u n s.now
  let lasting := lastingFault (h.policy cls) n
  let h := if lasting then h.logLasting words else h
  let s := s.setHive hv h
  let g := match unitPart u with
    | .cell g => g
    | _ => hv * 4096
  (lasting, if h.policy cls / 2 % 2 = 1 then s.sendFault 5 g 0 0 words 0 else s)

/-- The drovers write a policy entry (R376): WIN of 16 to 47, LIMIT not 0, reserved bits as they are; the classes from 4 on
have no event. -/
def State.setPolicy (s : State) (hive cls : Nat) (v : Word) : State :=
  let h := s.hiveAt hive
  let win := v.toNat / 2 ^ 40 % 64
  if 4 ≤ cls || decide (win < 16) || decide (47 < win) || v.toNat / 2 ^ 32 % 256 = 0 then s
  else s.setHive hive { h with fltpol := h.fltpol.set cls (v &&& 0x3FFF00000003) }

/-! ### What uses a unit (R353, R354, R369, R373) -/

/-- A page lies in a comb's super or scratchpad. -/
def pageInComb (hive comb : Nat) (p : Page) : Bool :=
  p.homes.any fun h => h.1 == hive &&
    (if p.isVirtual then h.2.toNat / 2 ^ 60 % 4 == 0 && h.2.toNat / 2 ^ 40 % 256 == comb
     else (p.base - scratchWindow) / 2 ^ 23 == comb)

/-- A route from a hive takes the link at a port. -/
def routeTakes (hive port : Nat) : Nat → List Nat → Bool
  | _, [] => false
  | a, b :: r =>
    (a == hive && portTo a b == some port) || (b == hive && portTo b a == some port) || routeTakes hive port b r

/-- A job uses a unit; a link, when a route between two of its hives takes it. -/
def State.uses (s : State) (j : Job) (u : Faulty) : Bool :=
  match unitPart u with
  | .cell g => j.cells.contains g
  | .comb h c => j.cells.any (fun g => hiveOf g == h && combIndex g == c) || j.pages.any (pageInComb h c)
  | .superBank h c b => j.plans.any (fun p => hiveOf p.cell == h && combIndex p.cell == c && p.grants.contains b) ||
      j.pages.any (pageInBank h c b)
  | .link h p => j.hives.any fun a => j.hives.any fun b => routeTakes h p a (s.fabricRoute a b)
  | u => j.hives.contains (unitHive u)

/-- The jobs on the machine that use a unit. -/
def State.usersOf (s : State) (u : Faulty) : List Nat := (s.jobs.filter fun x => !x.2.ended && s.uses x.2 u).map (·.1)

/-- Every job that uses the unit is stopped. -/
def State.unitIdle (s : State) (u : Faulty) : Bool := (s.usersOf u).all fun n => ((s.jobAt n).map s.jobStopped).getD true

/-! ### Fencing (R171, R369, R372) -/

/-- A leader that is parked at `SWARM` with a claim in a cell that is fenced withdraws it and traps (R171). -/
def State.trapLeader (s : State) (g lead : CellId) (k : StrandId) : State :=
  match (s.strandAt lead k).run with
  | .parked (.swarm n) =>
    if lead < g ∧ g < lead + n.cells then
      s.on lead k fun s => s.raise ⟨.access, s.cellid lead, BitVec.ofNat 64 (0x100 + (g - lead)), 0, 0, 0⟩
    else s
  | _ => s

def State.trapLeaders (s : State) (g : CellId) : State :=
  (List.range 16).foldl (fun s c =>
    ([0, 1, 2, 3] : List StrandId).foldl (fun s k => s.trapLeader g (combOf g * 16 + c) k) s) s

/-- A unit is on the hive's list of fenced ones. -/
def Hive.fence (h : Hive) (u : Faulty) : Hive :=
  { h with fencedUnits := if h.fencedUnits.contains u then h.fencedUnits else u :: h.fencedUnits }

/-- Fence a cell (R372): the reductions of its job's step abort (R361), and the job is halted with cause 4 when the cell
hosts an actor (R369). -/
def State.fenceCell (s : State) (g : CellId) : State :=
  if (s.cellAt g).fenced then s
  else
    let s := s.setCell g { s.cellAt g with fenced := true }
    let s := s.setHive (hiveOf g) ((s.hiveAt (hiveOf g)).fence (.cell g))
    let s := s.trapLeaders g
    match s.jobOf g with
    | some (n, j) =>
      let s := s.setJob n { j with faultedCells := ins j.faultedCells g }
      if (s.cellAt g).slots.isEmpty then s else s.haltJob n 4
    | none => s

/-- A cell of a lost hive is fenced. -/
def fenceIn (hive : Nat) : Nat × Cell → Nat × Cell
  | (g, c) => (g, if hiveOf g = hive then { c with fenced := true } else c)

/-- Halt every job on a hive. -/
def State.haltHive (s : State) (hive cause : Nat) : State :=
  s.jobs.foldl (fun s (x : Nat × Job) => if x.2.hives.contains hive then s.haltJob x.1 cause else s) s

/-- The hive is lost: it is fenced, and every job on it is halted with cause 5 (R369). -/
def State.loseHive (s : State) (hive : Nat) : State :=
  let s := s.setHive hive { s.hiveAt hive with lost := true }
  let s := { s with cells := s.cells.map (fenceIn hive) }
  s.haltHive hive 5

/-- The cells of a comb or of a die. -/
def unitCells : Faulty → List CellId
  | .comb h c => (List.range 16).map fun k => h * 4096 + c * 16 + k
  | .die h d => (List.range 256).map fun k => h * 4096 + d * 256 + k
  | _ => []

/-- Fence a unit for a lasting fault (R369, R372, R376): the jobs that use it are halted. A lost LPDDR6 channel takes the hive
with it; a fenced link stops the jobs that use it only while the route changes (R354). -/
def State.fenceUnit (s : State) (u : Faulty) : State :=
  match unitPart u with
  | .cell g => s.fenceCell g
  | .channel h _ => s.loseHive h
  | u =>
    if (s.hiveAt (unitHive u)).fencedUnits.contains u then s
    else
      let users := s.usersOf u
      let s := s.setHive (unitHive u) ((s.hiveAt (unitHive u)).fence u)
      let s := (unitCells u).foldl State.fenceCell s
      match u with
      | .link .. => s.changeRoutes
      | _ => users.foldl (fun s n => s.haltJob n 4) s

/-- CELL_PROBE (R372, R376): a cell that fails to answer two successive probes is hung and is fenced; a transient hang
lets it return at the next launch. -/
def execCellProbe (g : CellId) (answered : Bool) (s : State) : Host.Outcome State Fault Refusal :=
  .next (
    let hv := hiveOf g
    let h := s.hiveAt hv
    if (s.cellAt g).fenced then s
    else if answered then s.setHive hv { h with missedProbes := drop h.missedProbes g }
    else if (look h.missedProbes g).getD 0 = 0 then s.setHive hv { h with missedProbes := put h.missedProbes g 1 }
    else
      let s := s.setHive hv { h with missedProbes := drop h.missedProbes g }
      let (lasting, s) := s.countEvent 3 (.cell g)
      let h := s.hiveAt hv
      let s := if lasting then s else s.setHive hv { h with returning := .cell g :: h.returning }
      s.fenceCell g)

/-- FLIT_RETRANSMISSION (R354, R375, R376): it changes only timing; a link whose fault is lasting is fenced. -/
def execFlitRetransmission (hive link : Nat) (s : State) : Host.Outcome State Fault Refusal :=
  .next (
    let (lasting, s) := s.countEvent 2 (.link hive link)
    if lasting then s.fenceUnit (.link hive link) else s)

/-- HIVE_LOST (R369). -/
def execHiveLost (hive : Nat) (s : State) : Host.Outcome State Fault Refusal := .next (s.loseHive hive)

/-- A word lies in a memory unit (R272, R285, R289, R291). -/
def unitHolds (u : Faulty) (a : Nat) : Bool :=
  let within (base n : Nat) : Bool := decide (base ≤ a) && decide (a < base + n)
  match u with
  | .tcmBank g b => within (tcmBase g) (2 ^ 19) && bankOf (a - tcmBase g) == b
  | .zArray g => within (zAddr g 0) (2 ^ 17)
  | .scratchBank h c b => within (scratchAddr (h * 256 + c) 0) (2 ^ 22) && bankOfWord a == b
  | .superBank h c b => within (superAddr h (c * 2 ^ 31 + b * 2 ^ 24)) (2 ^ 24)
  | .channel h n => within (lpddrAddr h 0) (2 ^ 40) && lpddrChannel a == n
  | _ => false

/-- The sector of a location, if slice `u` holds it. -/
def State.sectorIn (s : State) (u : Faulty) (a : Nat) : Option Sector :=
  let hv := unitHive u
  ((s.hiveAt hv).sector a).filter fun x => hiveOfPhys a == hv && sliceUnit hv (homeSlice (s.hiveAt hv) (x.va * 32)) == u

/-- What an uncorrectable error of a unit leaves marked (R292, R293): all four words of a granule of the super or of LPDDR6, and
one word of any other memory; nothing where the unit does not hold the word. -/
def State.spoil (s : State) (u : Faulty) (a : Nat) : Option State :=
  match u with
  | .slice .. => (s.sectorIn u a).map fun x =>
    s.setHive (unitHive u) ((s.hiveAt (unitHive u)).setSector { x with marks := x.marks.set (a % 32 / 8) true })
  | .superBank .. | .channel .. => if unitHolds u a then
      some { s with marks := [0, 1, 2, 3].foldl (fun m k => ins m (a / 32 * 4 + k)) s.marks } else none
  | _ => if unitHolds u a then some { s with marks := ins s.marks (a / 8) } else none

/-- An error of a memory (R292, R375-R377). A corrected one changes no result; once its unit's fault is lasting, the unit is
to be retired at the next launch. An uncorrectable one leaves what it has spoilt marked; once lasting, its unit is fenced at
once. -/
def State.memoryError (s : State) (u : Faulty) : Option Nat → State
  | none =>
    let (lasting, s) := s.countEvent 0 u
    let h := s.hiveAt (unitHive u)
    if lasting && !h.retiring.contains (unitPart u) then s.setHive (unitHive u) { h with retiring := unitPart u :: h.retiring } else s
  | some a => match s.spoil u a with
    | none => s
    | some s =>
      let (lasting, s) := s.countEvent 1 u
      if lasting then s.fenceUnit u else s

/-- An uncorrectable error in the tags of a slice or in the line tags of a controller, a comb's or a channel's: an event of class
1 that is a lasting fault whatever the count; the unit is fenced, and no data from it is delivered (R292, R375; log entry
69). -/
def State.tagError (s : State) (u : Faulty) : State :=
  let hv := unitHive u
  match u with
  | .slice .. | .comb .. | .channel .. =>
    let (lasting, s) := s.countEvent 1 u
    let h := s.hiveAt hv
    let h := if lasting then h else h.logLasting (reportWords 1 u (h.eventCount s.now 1 u) s.now)
    (s.setHive hv { h with mutes := u :: h.mutes }).fenceUnit u
  | _ => s

/-- The `n`-th entry of a hive's pen becomes uncorrectable (R294). -/
def State.penError (s : State) (job hive n : Nat) : State :=
  match s.jobAt job with
  | none => s
  | some j =>
    match (j.penOf hive)[n]? with
    | some op => s.setJob job { j with badPen := (hive, op) :: j.badPen }
    | none => s

/-! ### Spares (R373, R374) -/

/-- The brood that a unit draws on: its scope and how many spares it has. -/
def State.brood (s : State) : Faulty → Faulty × Nat
  | .cell g => (.comb (hiveOf g) (combIndex g), 2)
  | .comb h c => (.die h (c / 16), if s.combsPerDie = 16 then 1 else 3)
  | .slice h d _ => (.slice h d 0, 1)
  | .superBank h c _ => (.superBank h c 0, 2)
  | .link h p => (.link h (p / 8 * 8), 1)
  | .die h d => (.die h d, 0)
  | .channel h n => (.channel h n, 0)
  | u => (u, 0)

/-- Physical number of a scope's `n`-th spare (R285, R353, R373). -/
def State.spareNumber (s : State) (u : Faulty) (n : Nat) : Nat :=
  match u with
  | .comb .. => if n = 0 then 16 else if s.combsPerDie = 16 then 16 + n else 13 + n
  | .superBank .. => 128 + n
  | .link _ p => p / 8 * 8 + 7
  | _ => 16 + n

/-- Spares of a scope that are in use. -/
def Hive.used (h : Hive) (scope : Faulty) : Nat := ((h.sparesUsed.find? fun x => x.1 == scope).map (·.2)).getD 0

/-- The comb that a unit is a part of. -/
def unitComb : Faulty → Option Faulty
  | .cell g | .tcmBank g _ | .zArray g => some (.comb (hiveOf g) (combIndex g))
  | .superBank h c _ | .scratchBank h c _ => some (.comb h c)
  | _ => none

/-- What goes with a unit when another takes its place: the unit, its memories and, of a comb, its parts. -/
def goesWith (u v : Faulty) : Bool := v == u || unitPart v == u || unitComb v == some u

/-- A spare stands in for a unit (R373): the logical-to-physical table says which. It is another unit, with counts of its own
(R375); a comb comes with its own cells, banks and spares. -/
def State.useSpare (s : State) (u : Faulty) : State :=
  let (scope, _) := s.brood u
  let h := s.hiveAt (unitHive u)
  let stays (v : Faulty) : Bool := !goesWith u v
  s.setHive (unitHive u) { h with
    sparesUsed := (scope, h.used scope + 1) :: h.sparesUsed.filter fun x => x.1 != scope && stays x.1
    unitMap := (u, s.spareNumber u (h.used scope)) :: h.unitMap.filter fun x => stays x.1
    absentCells := h.absentCells.filter fun c => unitComb (.cell (unitHive u * 4096 + c)) != some u
    fencedUnits := h.fencedUnits.filter stays
    mutes := h.mutes.filter stays
    returning := h.returning.filter stays
    retiring := h.retiring.filter stays
    events := h.events.filter fun e => stays e.2.1 }

/-- What must be replaced together: a link has a port in each of two hives (R353). -/
def unitEnds : Faulty → List Faulty
  | .link h p => .link h p :: (portTo (portPeer h p) h).toList.map fun q => .link (portPeer h p) q
  | u => [u]

/-- A spare is left in the brood of a unit. -/
def State.hasSpare (s : State) (u : Faulty) : Bool :=
  (unitEnds u).all fun e => decide ((s.hiveAt (unitHive e)).used (s.brood e).1 < (s.brood e).2)

/-- The copies that a lost cell was to read end with it: its own are gone with its forager's queue, and those that it read for
others trap there as they do at a fenced cell (R372, R373). -/
def State.loseCopies (s : State) (g : CellId) : State :=
  (s.copies.filter fun c => c.reader == g && CopyStage.unwritten c.stage).foldl (fun s c =>
    if c.issuer = g then { s.countAbsorbed c.destCell with copies := s.copies.filter fun o => o.id != c.id }
    else s.copyTrap c (accessTrap (BitVec.ofNat 64 (c.srcName c.src)) 0)) s

/-- A spare cell in the place of `g`: TCM and Z zero, everything reset, and what the planner placed loaded again; the host is
told of the lost state. What waits for the cell looks again whether it can go in (R372). -/
def State.freshCell (s : State) (g : CellId) : State :=
  let c := s.cellAt g
  let s := (s.loseCopies g).withdraw (Instr.ownedBy g)
  let s := s.setCell g { Cell.reset with nextId := c.nextId, joins := c.joins }
  let h := s.hiveAt (hiveOf g)
  let s := s.setHive (hiveOf g) { h with fencedUnits := h.fencedUnits.filter (· != .cell g)
                                         missedProbes := drop h.missedProbes g }
  let s := s.nudge (hiveOf g)
  let blank := (s.zero (tcmBase g) (2 ^ 19)).zero (zAddr g 0) (2 ^ 17)
  match c.job.bind fun n => (s.jobAt n).map fun j => (n, j) with
  | none => blank
  | some (n, j) =>
    let told (s : State) : State :=
      let h := s.hiveAt (hiveOf g)
      s.setHive (hiveOf g) { h with lostCells := (j.number, lcidOf g) :: h.lostCells }
    match j.plans.find? fun p => p.cell == g with
    | some p => told (s.initCell n (penAllotment j.penb j.cells.length) p)
    | none => told blank

/-- A spare comb: 16 cells, a zero scratchpad, and a super with the old contents. -/
def State.freshComb (s : State) (hive comb : Nat) : State :=
  let n := hive * 256 + comb
  let s := (List.range 16).foldl (fun s c => s.freshCell (n * 16 + c)) s
  let s := s.zero (scratchAddr n 0) (2 ^ 22)
  let s := { s with full := clearWords s.full (scratchAddr n 0) (2 ^ 22) }
  s.setComb n { s.combAt n with fns := Vector.replicate 8 0, waiters := [], cached := [] }

/-- The slices of a hive give up for good the sectors of which `p` holds; dirty ones are written back (R292, R373). -/
def State.giveUpAll (s : State) (hive : Nat) (p : Sector → Bool) : State :=
  let s := ((s.hiveAt hive).sectors.filter p).foldl State.sectorBack s
  s.setHive hive { s.hiveAt hive with sectors := (s.hiveAt hive).sectors.filter fun x => !p x }

/-- A spare slice is empty (R373). -/
def State.freshSlice (s : State) (hive die slice : Nat) : State :=
  let n := die * 16 + slice
  let s := s.giveUpAll hive fun x => homeSlice (s.hiveAt hive) (x.va * 32) == n
  s.setHive hive { s.hiveAt hive with remap := (s.hiveAt hive).remap.filter fun q => q.1 != n }

/-- The spare takes the unit's place. -/
def State.bringIn (s : State) : Faulty → State
  | .cell g => s.freshCell g
  | .comb h c => s.freshComb h c
  | .slice h d n => s.freshSlice h d n
  | _ => s

/-- The home-die table (R279): the entry of an absent die names the lowest working die that no other absent die's names
yet, and the lowest working die when all are named. Absent dies choose in ascending order, each time a die is added (log
entry 40). -/
def homeTable (absent : List Nat) : List Nat :=
  let working := (List.range 16).filter fun d => !absent.contains d
  ((List.range 16).foldl (fun (x : List Nat × List Nat) d =>
    if absent.contains d then
      let w := ((working.find? fun v => !x.2.contains v).or working.head?).getD d
      (x.1 ++ [w], w :: x.2)
    else (x.1 ++ [d], x.2)) ([], [])).1

/-- A die is absent whole: its cells, its super and its slices, whose lines fill into their new home slices (R279, R374). -/
def State.removeDie (s : State) (hive die : Nat) : State :=
  let h := s.hiveAt hive
  let t := homeTable (ins h.absentDies die)
  let moves (x : Sector) : Bool := homeSlice h (x.va * 32) != homeSlice { h with homeDie := t } (x.va * 32)
  let s := s.giveUpAll hive fun x => moves x || homeSlice h (x.va * 32) / 16 == die
  let h := s.hiveAt hive
  s.setHive hive { h with absentDies := ins h.absentDies die, homeDie := t, remap := h.remap.filter fun q => q.1 / 16 != die }

/-- A unit without a spare leaves the working list (R374); without a channel the hive is lost (R373). -/
def State.removeUnit (s : State) (u : Faulty) : State :=
  let h := s.hiveAt (unitHive u)
  let h := { h with retiring := h.retiring.filter (· != u) }
  match u with
  | .cell g => s.setHive (unitHive u) { h with absentCells := ins h.absentCells (lcidOf g) }
  | .comb _ c => s.setHive (unitHive u) { h with absentCombs := ins h.absentCombs c }
  | .die hv d | .slice hv d _ => (s.setHive hv h).removeDie hv d
  | .channel hv _ => (s.setHive hv h).loseHive hv
  | _ => s.setHive (unitHive u) (h.fence u)

/-- A spare comes in, or the unit leaves the working list (R373, R374); what the old one held is read before it goes. A link
changes routes (R354). -/
def State.replaceUnit (s : State) (u : Faulty) : State :=
  let s := if s.hasSpare u then (unitEnds u).foldl State.useSpare (s.bringIn u) else s.removeUnit u
  match u with
  | .link .. => s.changeRoutes
  | _ => s

/-- SPARE_BRING_IN (R373, R374), only while every job that uses the unit is stopped. Such a job stays halted until the host
resumes it; where only a link is replaced, it goes on once released (R370). -/
def execSpareBringIn (u : Faulty) (s : State) : Host.Outcome State Fault Refusal :=
  .next (
    let u := unitPart u
    if !s.unitIdle u then s
    else
      let users := match u with
        | .link .. => []
        | u => s.usersOf u
      users.foldl (fun s n => s.haltJob n 4) (s.replaceUnit u))

/-- Units whose corrected errors have become a lasting fault are replaced when a launch begins (R377), but not under a job
that runs (log entry 60). -/
def State.retireUnits (s : State) (hive : Nat) : State :=
  (s.hiveAt hive).retiring.foldl (fun s u => if (s.usersOf u).isEmpty then s.replaceUnit u else s) s

/-! ### Launching (R298-R305, R377, R388) -/

/-- JOB_LAUNCH (R298-R305, R388): verb 1 of JOBCTL has been written. Units whose corrected errors have become a lasting fault
are replaced first (R377). A refused launch starts no firing and changes no memory. -/
def execJobLaunch (hive : Nat) (l : List LaunchPlan) (s : State) : Host.Outcome State Fault Refusal :=
  .next (
    let h := s.hiveAt hive
    if !h.asked 1 then s
    else
      let d := h.launch
      let s := (l.flatMap LaunchPlan.hives).foldl (fun s h => (s.returnCells h).retireUnits h) s
      let built := if launchBad d || l.length != launchRepl d then none else allSome (l.map (s.buildPlan hive (launchRcb d)))
      match built with
      | none => s.jobctl hive 1
      | some l =>
        if !replicasOk l || !l.all (s.planOk (launchAllowOld d)) then s.jobctl hive 1 else
        let number := s.freeNumber
        let group := if l.length = 1 then 0 else s.nextId + 1
        let s := (launchAll hive (launchRcb d) number group (launchDchk d) 0 l s).changeRoutes
        (s.setHive hive { s.hiveAt hive with jobctlJob := number }).jobctl hive 0)

/-! ### Page entries of a stopped job (R284) -/

/-- Two pages are one entry of a job's table: of one address, and of one hive when it is a scratchpad page. -/
def sameEntry (p q : Page) : Bool :=
  p.base == q.base && (p.isVirtual || p.homes.map (·.1) == q.homes.map (·.1))

/-- A page entry that the drovers may put into a job's table: one that the planner would accept there (R267, R281-R283,
R289, R374). -/
def State.entryFits (s : State) (n : Nat) (j : Job) (p : Page) : Bool :=
  let rest := j.pages.filter fun q => !sameEntry p q
  pageOk j.hives p && s.scratchOk p && s.pagePlaced p && rest.all (addressesApart p) &&
    (s.jobs.filter fun x => !x.2.ended).all fun x =>
      (lifePages x.2.cells (if x.1 = n then rest else x.2.pages)).all (pagesApart (p, frozenForLife j.cells p)) &&
        !x.2.plans.any fun c => pageInGrant c p

/-- The drovers change a page entry of a job whose strands have stopped; every cache of its hives has the change before any
access is checked against it (R284). A request that waits for the page's fold stays. -/
def State.changeEntry (s : State) (n : Nat) (p : Page) : State :=
  match s.jobAt n with
  | none => s
  | some j =>
    if !s.jobStopped j || !s.entryFits n j p then s
    else
      let change (q : Page) : Page := if sameEntry p q then { p with request := q.request, dirty := q.dirty } else q
      let s := s.setJob n { j with pages := j.pages.map change }
      { s with combs := s.combs.map fun x => (x.1, { x.2 with
          cached := if j.hives.contains (x.1 / 256) then [] else x.2.cached }) }

/-! ### The recovery window (R385) -/

/-- RECOVERY_WINDOW_WRITE (R385): the host's image bytes go into slot B, only while STAGE is 15. -/
def execRecoveryWindowWrite (hive offset : Nat) (v : Byte) (s : State) : Host.Outcome State Fault Refusal :=
  .next (
    if (s.hiveAt hive).stage = 15 ∧ 0x01000000 ≤ offset ∧ offset < 0x04000000 then
      s.writeFlash hive (slotAt 1 + (offset - 0x01000000)) [v]
    else s)

end Sys2Proof.Machine
end

