-- ==== Sys2Proof/Machine/Boot.lean ====
section
/-! DEFINITION. Power, temperature and boot of a hive (R277, R287, R362, R373, R374, R383-R387). -/

namespace Sys2Proof.Machine

/-- Change a hive. -/
def State.onHive (s : State) (hive : Nat) (f : Hive → Hive) : State := s.setHive hive (f (s.hiveAt hive))

/-- Boot stops (R385, R388). -/
def Hive.bootFails (h : Hive) (code : Nat) : Hive := { h with stage := 15, code := code }

/-! ### Clearing a hive -/

/-- The cells and combs of a hive are at their reset states. -/
def State.resetCells (s : State) (hive : Nat) : State :=
  { s with cells := s.cells.filter fun x => hiveOf x.1 != hive
           combs := s.combs.filter fun x => x.1 / 256 != hive
           copies := s.copies.filter fun c => hiveOf c.issuer != hive && hiveOf c.reader != hive }

/-- The words of a range leave a list of word numbers. -/
def State.clearBits (s : State) (a n : Nat) : State :=
  { s with full := clearWords s.full a n, zov := clearWords s.zov a n }

/-- Zero a range with its full/empty and overflow bits. -/
def State.wipe (s : State) (a n : Nat) : State := (s.zero a n).clearBits a n

/-- Every TCM bank, Z array and scratchpad of a hive is zero (R277, R385). -/
def State.wipeOnDie (s : State) (hive : Nat) : State :=
  ((s.wipe (tcmBase (hive * 4096)) (2 ^ 31)).wipe (zAddr (hive * 4096) 0) (2 ^ 29)).wipe (scratchAddr (hive * 256) 0) (2 ^ 30)

/-- The super and the LPDDR6 of a hive lose their contents with the power (log entry 2). -/
def State.wipeDram (s : State) (hive : Nat) : State := (s.wipe (superAddr hive 0) (2 ^ 39)).wipe (lpddrAddr hive 0) (2 ^ 40)

/-- What a hive keeps without power or through a reset, beside its flash (R383). The route tables name its links until the jobs
that they serve stand still (R354). -/
def Hive.bare (h : Hive) : Hive := { Hive.reset with rev := h.rev, offLinks := h.offLinks }

/-- The drovers' memory of a hive starts empty: every field of a run control block is 0 after a reset (R9, R57). -/
def State.wipeDrover (s : State) (hive : Nat) : State :=
  { s with drover := s.drover.filter fun c => c.1 / 2 ^ 48 != hive }

/-- A hive without power: its jobs are halted as those of a lost hive. -/
def State.powerOff (s : State) (hive : Nat) : State :=
  let s := (s.haltHive hive 5).onHive hive Hive.bare
  ((((s.resetCells hive).wipeOnDie hive).wipeDram hive).wipeDrover hive).changeRoutes

/-! ### The stages of boot (R385) -/

/-- POWER_ON (R383, R385): a module whose thermal alarm stands is powered down until its power has been removed. -/
def execPowerOn (hive : Nat) (s : State) : Host.Outcome State Fault Refusal :=
  .next (s.onHive hive fun h => if h.stage = 0 ∧ h.alarm = false then { h with stage := 1, code := 0 } else h)

/-- PUF_EVALUATION (R385): the end of stage 1. -/
def execPufEvaluation (hive : Nat) (ok : Bool) (s : State) : Host.Outcome State Fault Refusal :=
  .next (s.onHive hive fun h => if h.stage != 1 then h else if ok then { h with stage := 2 } else h.bootFails 4)

/-- The digest of an image's key is one of the vendor's (R385). -/
def keyKnown (i : Image) : Bool :=
  i.key.length == 57 && (shake256 i.key 32 == Config.vendorDigest false || shake256 i.key 32 == Config.vendorDigest true)

/-- The code with which the bytes of an image slot fail, 0 when they verify (R385). Bytes that are no image have no key that is
recognised. -/
def imageCode (l : List Byte) (counter : Nat) : Nat :=
  match imageOf l with
  | none => 2
  | some i => if !keyKnown i then 2 else if !edVerify i.key i.body i.signature then 1 else if i.svn < counter then 3 else 0

/-- Boot goes on with the image of a slot's bytes. -/
def Hive.takeImage (h : Hive) (slot : Nat) (l : List Byte) : Hive :=
  { h with stage := 3, code := 0, bootSlot := slot, image := ((imageOf l).map Image.bytes).getD [], svn := ((imageOf l).map Image.svn).getD 0
           repair := ((imageOf l).map Image.repair).getD []
           maps := ((imageOf l).map fun i => i.layout.maps).getD h.maps }

/-- What the boot ROM reads in the flash of a hive: whether the counter block passes its MAC, and the images of slots A and B. -/
def State.flashFinding (s : State) (hive : Nat) : Bool × Option Image × Option Image :=
  (s.counterOk hive, imageOf (s.slotBytesOf hive 0), imageOf (s.slotBytesOf hive 1))

/-- IMAGE_VERIFICATION (R385): slot A, then slot B; a counter block that fails its MAC stops the boot at once. The operands are
what the boot ROM read, and the flash itself says what that is: other operands do not come about (log entry 20). -/
def execImageVerification (hive : Nat) (counterOk : Bool) (slotA slotB : Option Image) (s : State) :
    Host.Outcome State Fault Refusal :=
  .next (s.onHive hive fun h =>
    let a := s.slotBytesOf hive 0
    let b := s.slotBytesOf hive 1
    if h.stage != 2 || (counterOk, slotA, slotB) != s.flashFinding hive then h
    else if !s.counterOk hive then h.bootFails 5
    else if imageCode a (s.counter hive) = 0 then h.takeImage 0 a
    else if imageCode b (s.counter hive) = 0 then h.takeImage 1 b
    else h.bootFails (imageCode b (s.counter hive)))

/-- The tables of a boot image are set (R279, R288, R353, R373, R374, R385): each unit that a spare stands in for takes one of
its brood, combs before the units in them. -/
def State.applyMaps (s : State) (hive : Nat) (m : BootMaps) : State :=
  let whole := m.units.filter fun u => (unitComb u.1).isNone
  let s := (whole ++ m.units.filter fun u => (unitComb u.1).isSome).foldl (fun s u => s.useSpare u.1) s
  s.onHive hive fun h => { h with
    stage := 4, absentCells := m.absentCells, absentCombs := m.absentCombs, absentDies := m.absentDies
    homeDie := homeTable m.absentDies, bridgeColumn := m.bridgeColumn % 8, unitMap := m.units }

/-- REPAIR_MAP_APPLY (R362, R373, R374, R385): the end of stage 3. The operand is what the maps of the verified image say: other
maps do not come about (log entry 20). -/
def execRepairMapApply (hive : Nat) (maps : BootMaps) (s : State) : Host.Outcome State Fault Refusal :=
  .next (
    if (s.hiveAt hive).stage != 3 || (s.hiveAt hive).maps != maps then s
    else if maps.wellFormed && maps.units.all (fun u => unitHive u.1 == hive) then s.applyMaps hive maps
    else s.onHive hive fun h => h.bootFails 6)

/-- MEMORY_CLEAR (R277, R287, R385): the end of stage 4. -/
def execMemoryClear (hive : Nat) (s : State) : Host.Outcome State Fault Refusal :=
  .next (
    if (s.hiveAt hive).stage != 4 then s
    else ((s.resetCells hive).wipeOnDie hive).onHive hive fun h =>
      { h with stage := 5, sectors := [], remap := [], waiting := [], sorted := [], t0 := s.now })

/-- LINK_TRAINING (R362, R383, R385): stage 5, and the endpoint's training after a PERST#; only the bridge's trains. -/
def execLinkTraining (hive : Nat) (ok : Bool) (s : State) : Host.Outcome State Fault Refusal :=
  .next (s.onHive hive fun h =>
    let bridge := s.bridgeOf hive == hive
    if h.stage = 5 then (if ok then { h with linked := true, endpoint := bridge } else h.bootFails 7)
    else if h.stage = 6 && ok then { h with endpoint := bridge }
    else h)

/-- FIRMWARE_START (R385): stage 6; the counter block advances to a higher SVN. -/
def execFirmwareStart (hive : Nat) (s : State) : Host.Outcome State Fault Refusal :=
  .next (
    let h := s.hiveAt hive
    if h.stage != 5 || !h.linked then s
    else
      let s := if s.counter hive < h.svn then s.setCounter hive h.svn else s
      s.onHive hive fun h => { h with stage := 6 })

/-! ### Power and clock (R387) -/

/-- A step change stops issue throughout the hive for 1,024 cycles. -/
def State.setClock (s : State) (hive k : Nat) : State :=
  if (s.hiveAt hive).clock = k then s
  else (s.onHive hive fun h => { h with clock := k, stallUntil := s.now + 1024 }).stillPending .clockStallEnd

/-- The step after a period. -/
def Hive.nextClock (h : Hive) (watts : Nat) : Nat :=
  if h.hot then 4
  else if h.cap < watts then min 4 (h.clock + 1)
  else if watts + 50 < h.cap ∧ 1 ≤ h.lowPeriods then h.clock - 1
  else h.clock

/-- POWER_PERIOD_END (R387), at the end of a period of 2^16 cycles. -/
def execPowerPeriodEnd (hive watts : Nat) (s : State) : Host.Outcome State Fault Refusal :=
  .next (
    let h := s.hiveAt hive
    if h.stage != 6 || decide (s.now < h.periodAt + 2 ^ 16) then s
    else (s.onHive hive fun h => { h with
      periodAt := s.now, avgPower := watts, lowPeriods := if watts + 50 < h.cap then h.lowPeriods + 1 else 0 }).setClock hive (h.nextClock watts))

/-- The stall of a hive ends. -/
def endStall (now : Nat) : Nat × Hive → Nat × Hive
  | (n, h) => (n, if h.stallUntil ≤ now then { h with stallUntil := 0 } else h)

/-- CLOCK_STALL_END (R387): the stalls whose 1,024 cycles have passed end. -/
def execClockStallEnd (s : State) : Host.Outcome State Fault Refusal :=
  .next (
    let s := { s with hives := s.hives.map (endStall s.now) }
    if s.hives.any fun x => x.2.stallUntil != 0 then s.stillPending .clockStallEnd else s)

/-! ### Temperature (R384) -/

/-- The thermal trip (R384): the jobs of the hive are halted and the alarm is asserted; the hive powers down 2^20 cycles
after the first. -/
def State.thermalTrip (s : State) (hive : Nat) : State :=
  let s := s.haltHive hive 7
  if (s.hiveAt hive).alarm then s
  else (s.onHive hive fun h => { h with alarm := true, powerDownAt := some (s.now + 2 ^ 20) }).stillPending .thermalPowerDown

/-- THERMAL_SAMPLE (R384), every 2^16 cycles: the hottest die reads `celsius`. -/
def execThermalSample (hive celsius : Nat) (s : State) : Host.Outcome State Fault Refusal :=
  .next (
    if (s.hiveAt hive).stage != 6 || decide (s.now < (s.hiveAt hive).sampledAt + 2 ^ 16) then s
    else
      let s := s.onHive hive fun h => { h with
        sampledAt := s.now, temp := celsius, hot := if 100 ≤ celsius then true else if celsius ≤ 95 then false else h.hot }
      let s := if (s.hiveAt hive).hot then s.setClock hive 4 else s
      if celsius < 115 then s else s.thermalTrip hive)

/-- A hive that tripped 2^20 cycles ago powers down; the alarm stays asserted. -/
def State.powerDownDue (s : State) (hive : Nat) : State :=
  match (s.hiveAt hive).powerDownAt with
  | none => s
  | some t => if s.now < t then s else (s.powerOff hive).onHive hive fun h => { h with alarm := true }

/-- THERMAL_POWER_DOWN (R384): 2^20 cycles after the trip. -/
def execThermalPowerDown (s : State) : Host.Outcome State Fault Refusal :=
  .next (
    let s := s.hives.foldl (fun s (x : Nat × Hive) => s.powerDownDue x.1) s
    if s.hives.any fun x => x.2.powerDownAt.isSome then s.stillPending .thermalPowerDown else s)

/-- MODULE_RESET (R383): a powered hive starts again at stage 1; the super and the LPDDR6 keep their contents. -/
def execModuleReset (hive : Nat) (s : State) : Host.Outcome State Fault Refusal :=
  .next (
    let h := s.hiveAt hive
    if h.stage = 0 then s
    else ((((s.haltHive hive 5).resetCells hive).wipeDrover hive).onHive hive fun h =>
      { h.bare with stage := 1, alarm := h.alarm, powerDownAt := h.powerDownAt }).changeRoutes)

/-- PERST# at a hive: its PCIe endpoint is reset, and nothing else. -/
def Hive.resetEndpoint (h : Hive) : Hive := { h with endpoint := false }

/-- PERST (R383): it resets the PCIe endpoints only, which are to be trained again; the schedule's `.perst` asserts it at one
bridge hive (log entry 41). -/
def execPerst (s : State) : Host.Outcome State Fault Refusal :=
  .next { s with hives := s.hives.map fun x => (x.1, x.2.resetEndpoint) }

/-- POWER_REMOVAL (R383): the hive stops, and the alarm ends. -/
def execPowerRemoval (hive : Nat) (s : State) : Host.Outcome State Fault Refusal := .next (s.powerOff hive)

end Sys2Proof.Machine
end

