-- ==== Sys2Proof/Machine/Dispatch.lean ====
section
/-! DEFINITION. Which meaning each instruction and happening has. -/

namespace Sys2Proof.Machine

def exec (i : Instr) (s : State) : Host.Outcome State Fault Refusal :=
  match i with
  | .add f d a b => Sys2Proof.Machine.execAdd f d a b s
  | .sub f d a b => Sys2Proof.Machine.execSub f d a b s
  | .and f d a b => Sys2Proof.Machine.execAnd f d a b s
  | .or f d a b => Sys2Proof.Machine.execOr f d a b s
  | .xor f d a b => Sys2Proof.Machine.execXor f d a b s
  | .shl f d a b => Sys2Proof.Machine.execShl f d a b s
  | .shr f d a b => Sys2Proof.Machine.execShr f d a b s
  | .sha f d a b => Sys2Proof.Machine.execSha f d a b s
  | .rot f d a b => Sys2Proof.Machine.execRot f d a b s
  | .slt f d a b => Sys2Proof.Machine.execSlt f d a b s
  | .sltz f d a b => Sys2Proof.Machine.execSltz f d a b s
  | .min f d a b => Sys2Proof.Machine.execMin f d a b s
  | .max f d a b => Sys2Proof.Machine.execMax f d a b s
  | .minz f d a b => Sys2Proof.Machine.execMinz f d a b s
  | .maxz f d a b => Sys2Proof.Machine.execMaxz f d a b s
  | .sel f d a b => Sys2Proof.Machine.execSel f d a b s
  | .mul f d a b => Sys2Proof.Machine.execMul f d a b s
  | .mulh f d a b => Sys2Proof.Machine.execMulh f d a b s
  | .mulhz f d a b => Sys2Proof.Machine.execMulhz f d a b s
  | .clz f d a => Sys2Proof.Machine.execClz f d a s
  | .ctz f d a => Sys2Proof.Machine.execCtz f d a s
  | .popc f d a => Sys2Proof.Machine.execPopc f d a s
  | .bswap f d a => Sys2Proof.Machine.execBswap f d a s
  | .div f d a b la => Sys2Proof.Machine.execDiv f d a b la s
  | .divz f d a b la => Sys2Proof.Machine.execDivz f d a b la s
  | .rem f d a b la => Sys2Proof.Machine.execRem f d a b la s
  | .remz f d a b la => Sys2Proof.Machine.execRemz f d a b la s
  | .li d imm => Sys2Proof.Machine.execLi d imm s
  | .lih d h imm => Sys2Proof.Machine.execLih d h imm s
  | .addi f d a imm => Sys2Proof.Machine.execAddi f d a imm s
  | .andi f d a imm => Sys2Proof.Machine.execAndi f d a imm s
  | .ori f d a imm => Sys2Proof.Machine.execOri f d a imm s
  | .xori f d a imm => Sys2Proof.Machine.execXori f d a imm s
  | .shli f d a imm => Sys2Proof.Machine.execShli f d a imm s
  | .shri f d a imm => Sys2Proof.Machine.execShri f d a imm s
  | .shai f d a imm => Sys2Proof.Machine.execShai f d a imm s
  | .roti f d a imm => Sys2Proof.Machine.execRoti f d a imm s
  | .slti f d a imm => Sys2Proof.Machine.execSlti f d a imm s
  | .bext d a wid off => Sys2Proof.Machine.execBext d a wid off s
  | .bextz d a wid off => Sys2Proof.Machine.execBextz d a wid off s
  | .bins d a wid off => Sys2Proof.Machine.execBins d a wid off s
  | .fadd f rm sat d a b => Sys2Proof.Machine.execFadd f rm sat d a b s
  | .fsub f rm sat d a b => Sys2Proof.Machine.execFsub f rm sat d a b s
  | .fmul f rm sat d a b => Sys2Proof.Machine.execFmul f rm sat d a b s
  | .fma f rm sat d a b => Sys2Proof.Machine.execFma f rm sat d a b s
  | .fms f rm sat d a b => Sys2Proof.Machine.execFms f rm sat d a b s
  | .fnma f rm sat d a b => Sys2Proof.Machine.execFnma f rm sat d a b s
  | .fdiv dbl rm sat d a b la => Sys2Proof.Machine.execFdiv dbl rm sat d a b la s
  | .fsqrt dbl rm sat d a la => Sys2Proof.Machine.execFsqrt dbl rm sat d a la s
  | .fmin f d a b => Sys2Proof.Machine.execFmin f d a b s
  | .fmax f d a b => Sys2Proof.Machine.execFmax f d a b s
  | .fcmp p f d a b => Sys2Proof.Machine.execFcmp p f d a b s
  | .fclass f d a => Sys2Proof.Machine.execFclass f d a s
  | .fsgn o f d a b => Sys2Proof.Machine.execFsgn o f d a b s
  | .fcvt fd fs rm sat d a => Sys2Proof.Machine.execFcvt fd fs rm sat d a s
  | .fcvti fd fs rm sat d a => Sys2Proof.Machine.execFcvti fd fs rm sat d a s
  | .icvtf fd fs rm sat d a => Sys2Proof.Machine.execIcvtf fd fs rm sat d a s
  | .fmvi f d imm => Sys2Proof.Machine.execFmvi f d imm s
  | .cdmac fb bn d a b => Sys2Proof.Machine.execCdmac fb bn d a b s
  | .cdmacv fb bn d a b => Sys2Proof.Machine.execCdmacv fb bn d a b s
  | .mma fa fb bn d a b => Sys2Proof.Machine.execMma fa fb bn d a b s
  | .zld d a => Sys2Proof.Machine.execZld d a s
  | .zst a b => Sys2Proof.Machine.execZst a b s
  | .zclr a b => Sys2Proof.Machine.execZclr a b s
  | .zcvt f rm sat d a b => Sys2Proof.Machine.execZcvt f rm sat d a b s
  | .sdcfg a b => Sys2Proof.Machine.execSdcfg a b s
  | .sdscan a b => Sys2Proof.Machine.execSdscan a b s
  | .sdflush a => Sys2Proof.Machine.execSdflush a s
  | .vadd f rm sat d a b => Sys2Proof.Machine.execVadd f rm sat d a b s
  | .vsub f rm sat d a b => Sys2Proof.Machine.execVsub f rm sat d a b s
  | .vmul f rm sat d a b => Sys2Proof.Machine.execVmul f rm sat d a b s
  | .vma f rm sat d a b => Sys2Proof.Machine.execVma f rm sat d a b s
  | .vmin f rm d a b => Sys2Proof.Machine.execVmin f rm d a b s
  | .vmax f rm d a b => Sys2Proof.Machine.execVmax f rm d a b s
  | .vand f d a b => Sys2Proof.Machine.execVand f d a b s
  | .vor f d a b => Sys2Proof.Machine.execVor f d a b s
  | .vxor f d a b => Sys2Proof.Machine.execVxor f d a b s
  | .vshl f d a b => Sys2Proof.Machine.execVshl f d a b s
  | .vshr f d a b => Sys2Proof.Machine.execVshr f d a b s
  | .vcmp p f d a b => Sys2Proof.Machine.execVcmp p f d a b s
  | .vsel f d a b m => Sys2Proof.Machine.execVsel f d a b m s
  | .vcvt fd fs rm sat d a => Sys2Proof.Machine.execVcvt fd fs rm sat d a s
  | .vred o f rm d a => Sys2Proof.Machine.execVred o f rm d a s
  | .vdot f rm d a b => Sys2Proof.Machine.execVdot f rm d a b s
  | .vscan o f rm d a => Sys2Proof.Machine.execVscan o f rm d a s
  | .vperm f d a b => Sys2Proof.Machine.execVperm f d a b s
  | .vgath f d a b => Sys2Proof.Machine.execVgath f d a b s
  | .vscat f d a b => Sys2Proof.Machine.execVscat f d a b s
  | .vfill f d a => Sys2Proof.Machine.execVfill f d a s
  | .vcopy f d a => Sys2Proof.Machine.execVcopy f d a s
  | .vclmul f d a b => Sys2Proof.Machine.execVclmul f d a b s
  | .vhash f d a b => Sys2Proof.Machine.execVhash f d a b s
  | .vcmpb d a b => Sys2Proof.Machine.execVcmpb d a b s
  | .vfindb d a b => Sys2Proof.Machine.execVfindb d a b s
  | .fence c => Sys2Proof.Machine.execFence c s
  | .yield n => Sys2Proof.Machine.execYield n s
  | .trap n a => Sys2Proof.Machine.execTrap n a s
  | .swarm n => Sys2Proof.Machine.execSwarm n s
  | .mfs d n => Sys2Proof.Machine.execMfs d n s
  | .mts n a => Sys2Proof.Machine.execMts n a s
  | .pset p a => Sys2Proof.Machine.execPset p a s
  | .pget d p => Sys2Proof.Machine.execPget d p s
  | .setvl d a => Sys2Proof.Machine.execSetvl d a s
  | .cinv a => Sys2Proof.Machine.execCinv a s
  | .cflush a => Sys2Proof.Machine.execCflush a s
  | .ld w acq d a off la => Sys2Proof.Machine.execLd w acq d a off la s
  | .st w rel d a off => Sys2Proof.Machine.execSt w rel d a off s
  | .ldx w acq d a b la => Sys2Proof.Machine.execLdx w acq d a b la s
  | .stx w rel d a b => Sys2Proof.Machine.execStx w rel d a b s
  | .ldfe acq d a off la => Sys2Proof.Machine.execLdfe acq d a off la s
  | .ldff acq d a off la => Sys2Proof.Machine.execLdff acq d a off la s
  | .stfe rel d a off => Sys2Proof.Machine.execStfe rel d a off s
  | .feq acq d a off la => Sys2Proof.Machine.execFeq acq d a off la s
  | .amo op ord d a b la => Sys2Proof.Machine.execAmo op ord d a b la s
  | .amov op ord a pa pb => Sys2Proof.Machine.execAmov op ord a pa pb s
  | .amocfg n a => Sys2Proof.Machine.execAmocfg n a s
  | .xamo op ord d a b la => Sys2Proof.Machine.execXamo op ord d a b la s
  | .xld w acq d a off la => Sys2Proof.Machine.execXld w acq d a off la s
  | .xst w d a off => Sys2Proof.Machine.execXst w d a off s
  | .xam a => Sys2Proof.Machine.execXam a s
  | .xflag a b => Sys2Proof.Machine.execXflag a b s
  | .beq a b off => Sys2Proof.Machine.execBeq a b off s
  | .bne a b off => Sys2Proof.Machine.execBne a b off s
  | .blt a b off => Sys2Proof.Machine.execBlt a b off s
  | .bge a b off => Sys2Proof.Machine.execBge a b off s
  | .bltz a off => Sys2Proof.Machine.execBltz a off s
  | .bgez a off => Sys2Proof.Machine.execBgez a off s
  | .bcf off => Sys2Proof.Machine.execBcf off s
  | .bncf off => Sys2Proof.Machine.execBncf off s
  | .j off => Sys2Proof.Machine.execJ off s
  | .jl d off => Sys2Proof.Machine.execJl d off s
  | .jr a => Sys2Proof.Machine.execJr a s
  | .jlr d a => Sys2Proof.Machine.execJlr d a s
  | .evsend d a b edge => Sys2Proof.Machine.execEvsend d a b edge s
  | .evcnt d => Sys2Proof.Machine.execEvcnt d s
  | .mbw n a => Sys2Proof.Machine.execMbw n a s
  | .waitm d => Sys2Proof.Machine.execWaitm d s
  | .fork a slot => Sys2Proof.Machine.execFork a slot s
  | .join d a => Sys2Proof.Machine.execJoin d a s
  | .arrive b => Sys2Proof.Machine.execArrive b s
  | .arriveRemote b a => Sys2Proof.Machine.execArriveRemote b a s
  | .arriveb b wb => Sys2Proof.Machine.execArriveb b wb s
  | .arrivebRemote b wb a => Sys2Proof.Machine.execArrivebRemote b wb a s
  | .waitb b => Sys2Proof.Machine.execWaitb b s
  | .waitbt b a => Sys2Proof.Machine.execWaitbt b a s
  | .bcfgSet b a => Sys2Proof.Machine.execBcfgSet b a s
  | .bcfgGet b a => Sys2Proof.Machine.execBcfgGet b a s
  | .cpass a b => Sys2Proof.Machine.execCpass a b s
  | .cqry d a => Sys2Proof.Machine.execCqry d a s
  | .freeze a => Sys2Proof.Machine.execFreeze a s
  | .land r a => Sys2Proof.Machine.execLand r a s
  | .publish a => Sys2Proof.Machine.execPublish a s
  | .push d a b bar => Sys2Proof.Machine.execPush d a b bar s
  | .pushx d a b bar => Sys2Proof.Machine.execPushx d a b bar s
  | .sbind w n a b => Sys2Proof.Machine.execSbind w n a b s
  | .sunbind n => Sys2Proof.Machine.execSunbind n s
  | .srd d n => Sys2Proof.Machine.execSrd d n s
  | .fact n a => Sys2Proof.Machine.execFact n a s
  | .fconsA n => Sys2Proof.Machine.execFconsA n s
  | .fconsB n => Sys2Proof.Machine.execFconsB n s
  | .fconsM n a => Sys2Proof.Machine.execFconsM n a s
  | .fwrite n a => Sys2Proof.Machine.execFwrite n a s
  | .fpre n => Sys2Proof.Machine.execFpre n s
  | .fstat d n => Sys2Proof.Machine.execFstat d n s
  | .longLatencyResult g k seq => Sys2Proof.Machine.execLongLatencyResult g k seq s
  | .storeAcknowledgement g k seq => Sys2Proof.Machine.execStoreAcknowledgement g k seq s
  | .engineInstructionStart g e => Sys2Proof.Machine.execEngineInstructionStart g e s
  | .engineInstructionRetire g e => Sys2Proof.Machine.execEngineInstructionRetire g e s
  | .frameActivate g => Sys2Proof.Machine.execFrameActivate g s
  | .frameOpen g port => Sys2Proof.Machine.execFrameOpen g port s
  | .refresh hive comb bank => Sys2Proof.Machine.execRefresh hive comb bank s
  | .refreshEnd hive comb bank => Sys2Proof.Machine.execRefreshEnd hive comb bank s
  | .copyBlockWrite id => Sys2Proof.Machine.execCopyBlockWrite id s
  | .copyCompletion id => Sys2Proof.Machine.execCopyCompletion id s
  | .copyRetirement id => Sys2Proof.Machine.execCopyRetirement id s
  | .mailboxSpillEnter g => Sys2Proof.Machine.execMailboxSpillEnter g s
  | .pushxProxyEntry id => Sys2Proof.Machine.execPushxProxyEntry id s
  | .streamBlockArrival g sid => Sys2Proof.Machine.execStreamBlockArrival g sid s
  | .barrierArrival arr => Sys2Proof.Machine.execBarrierArrival arr s
  | .parkedStrandResume g k => Sys2Proof.Machine.execParkedStrandResume g k s
  | .waitbtExpiry g k => Sys2Proof.Machine.execWaitbtExpiry g k s
  | .watchdog g k => Sys2Proof.Machine.execWatchdog g k s
  | .watchdogHandlerExpiry g k => Sys2Proof.Machine.execWatchdogHandlerExpiry g k s
  | .feRetry g k => Sys2Proof.Machine.execFeRetry g k s
  | .swarmClaimGrant g k => Sys2Proof.Machine.execSwarmClaimGrant g k s
  | .inputArrival inp => Sys2Proof.Machine.execInputArrival inp s
  | .inputAdvance g slot => Sys2Proof.Machine.execInputAdvance g slot s
  | .sortedEventAbsorb inp => Sys2Proof.Machine.execSortedEventAbsorb inp s
  | .allowanceReturn g net => Sys2Proof.Machine.execAllowanceReturn g net s
  | .taskReturnArrival ret => Sys2Proof.Machine.execTaskReturnArrival ret s
  | .firingChoice g k => Sys2Proof.Machine.execFiringChoice g k s
  | .firingBind g k => Sys2Proof.Machine.execFiringBind g k s
  | .strandFree g k => Sys2Proof.Machine.execStrandFree g k s
  | .steppedOpAccept op => Sys2Proof.Machine.execSteppedOpAccept op s
  | .foldGather job => Sys2Proof.Machine.execFoldGather job s
  | .foldApply job hive => Sys2Proof.Machine.execFoldApply job hive s
  | .reductionPartialArrival job hive target => Sys2Proof.Machine.execReductionPartialArrival job hive target s
  | .applyDone job => Sys2Proof.Machine.execApplyDone job s
  | .install job hive => Sys2Proof.Machine.execInstall job hive s
  | .replicaDigestTimeout job => Sys2Proof.Machine.execReplicaDigestTimeout job s
  | .installDone job => Sys2Proof.Machine.execInstallDone job s
  | .release job => Sys2Proof.Machine.execRelease job s
  | .sealStall job hive => Sys2Proof.Machine.execSealStall job hive s
  | .pageStateCacheFill hive comb page => Sys2Proof.Machine.execPageStateCacheFill hive comb page s
  | .sliceFill job hive va victim => Sys2Proof.Machine.execSliceFill job hive va victim s
  | .bankWake g bank => Sys2Proof.Machine.execBankWake g bank s
  | .bankDrowsy g bank => Sys2Proof.Machine.execBankDrowsy g bank s
  | .bankZeroComplete g bank => Sys2Proof.Machine.execBankZeroComplete g bank s
  | .tcmpwr g v => Sys2Proof.Machine.execTcmpwr g v s
  | .schedcfg g v => Sys2Proof.Machine.execSchedcfg g v s
  | .engctr g n v => Sys2Proof.Machine.execEngctr g n v s
  | .resume g k wrec => Sys2Proof.Machine.execResume g k wrec s
  | .deliver g k wrec => Sys2Proof.Machine.execDeliver g k wrec s
  | .endfiring g k wrec => Sys2Proof.Machine.execEndfiring g k wrec s
  | .debuggerRead place => Sys2Proof.Machine.execDebuggerRead place s
  | .debuggerWrite place v => Sys2Proof.Machine.execDebuggerWrite place v s
  | .hrtail hive tail => Sys2Proof.Machine.execHrtail hive tail s
  | .transferIn hive d data => Sys2Proof.Machine.execTransferIn hive d data s
  | .transferOut hive d => Sys2Proof.Machine.execTransferOut hive d s
  | .transferComplete hive => Sys2Proof.Machine.execTransferComplete hive s
  | .hostMessage hive d => Sys2Proof.Machine.execHostMessage hive d s
  | .hostMessageDelivery hive => Sys2Proof.Machine.execHostMessageDelivery hive s
  | .jobLaunch hive replicas => Sys2Proof.Machine.execJobLaunch hive replicas s
  | .jobResume hive => Sys2Proof.Machine.execJobResume hive s
  | .jobEnd hive => Sys2Proof.Machine.execJobEnd hive s
  | .attest hive => Sys2Proof.Machine.execAttest hive s
  | .retry hive => Sys2Proof.Machine.execRetry hive s
  | .managementRegisterWrite hive offset v => Sys2Proof.Machine.execManagementRegisterWrite hive offset v s
  | .stop job => Sys2Proof.Machine.execStop job s
  | .spareBringIn u => Sys2Proof.Machine.execSpareBringIn u s
  | .cellProbe g answered => Sys2Proof.Machine.execCellProbe g answered s
  | .flitRetransmission hive link => Sys2Proof.Machine.execFlitRetransmission hive link s
  | .powerPeriodEnd hive watts => Sys2Proof.Machine.execPowerPeriodEnd hive watts s
  | .thermalSample hive celsius => Sys2Proof.Machine.execThermalSample hive celsius s
  | .moduleReset hive => Sys2Proof.Machine.execModuleReset hive s
  | .powerOn hive => Sys2Proof.Machine.execPowerOn hive s
  | .pufEvaluation hive ok => Sys2Proof.Machine.execPufEvaluation hive ok s
  | .imageVerification hive counterOk slotA slotB => Sys2Proof.Machine.execImageVerification hive counterOk slotA slotB s
  | .repairMapApply hive maps => Sys2Proof.Machine.execRepairMapApply hive maps s
  | .memoryClear hive => Sys2Proof.Machine.execMemoryClear hive s
  | .linkTraining hive ok => Sys2Proof.Machine.execLinkTraining hive ok s
  | .firmwareStart hive => Sys2Proof.Machine.execFirmwareStart hive s
  | .powerRemoval hive => Sys2Proof.Machine.execPowerRemoval hive s
  | .perst => Sys2Proof.Machine.execPerst s
  | .hiveLost hive => Sys2Proof.Machine.execHiveLost hive s
  | .recoveryWindowWrite hive offset v => Sys2Proof.Machine.execRecoveryWindowWrite hive offset v s
  | .nop => Sys2Proof.Machine.execNop s
  | .ifence => Sys2Proof.Machine.execIfence s
  | .done => Sys2Proof.Machine.execDone s
  | .doneNw => Sys2Proof.Machine.execDoneNw s
  | .rtt => Sys2Proof.Machine.execRtt s
  | .fold => Sys2Proof.Machine.execFold s
  | .unswarm => Sys2Proof.Machine.execUnswarm s
  | .evpop => Sys2Proof.Machine.execEvpop s
  | .sendm => Sys2Proof.Machine.execSendm s
  | .sendmT => Sys2Proof.Machine.execSendmT s
  | .clockStallEnd => Sys2Proof.Machine.execClockStallEnd s
  | .thermalPowerDown => Sys2Proof.Machine.execThermalPowerDown s

end Sys2Proof.Machine
end

