-- ==== Sys2Proof/Machine/Regs.lean ====
section
/-! DEFINITION. Which registers a word reads and writes (R86, R94), and what kind of word it is for windows, shadows and
pairs (R85, R86, R94, R95, R153, R179). -/

namespace Sys2Proof

open Machine

/-- Register numbers for interlocks: `w0`-`w31` are 0-31, `p0`-`p7` 32-39, `m0`-`m4` 40-44, CF 45. -/
def wr (r : WReg) : Nat := r.val
def pr (r : PReg) : Nat := 32 + r.val
def cfReg : Nat := 45
def mRegs : List Nat := [40, 41, 42, 43, 44]

/-- Pointers that a post-increment writes. -/
def incs (l : List PtrArg) : List Nat := (l.filter PtrArg.inc).map fun p => pr p.reg

/-- The registers that a word reads (R86); `w0` never counts. -/
def Instr.rawReads : Instr → List Nat
  | .add _ _ a b | .sub _ _ a b | .and _ _ a b | .or _ _ a b | .xor _ _ a b | .shl _ _ a b | .shr _ _ a b | .sha _ _ a b
  | .rot _ _ a b | .slt _ _ a b | .sltz _ _ a b | .min _ _ a b | .max _ _ a b | .minz _ _ a b | .maxz _ _ a b
  | .mul _ _ a b | .mulh _ _ a b | .mulhz _ _ a b | .div _ _ a b _ | .divz _ _ a b _ | .rem _ _ a b _ | .remz _ _ a b _
  | .fadd _ _ _ _ a b | .fsub _ _ _ _ a b | .fmul _ _ _ _ a b | .fdiv _ _ _ _ a b _ | .fmin _ _ a b | .fmax _ _ a b
  | .fcmp _ _ _ a b | .fsgn _ _ _ a b | .zst a b | .zclr a b | .sdcfg a b | .sdscan a b
  | .ldx _ _ _ a b _ | .xflag a b | .beq a b _ | .bne a b _ | .blt a b _ | .bge a b _ | .arrivebRemote _ a b
  | .cpass a b | .sbind _ _ a b => [wr a, wr b]
  | .sel _ _ a b => [wr a, wr b, cfReg]
  | .fma _ _ _ d a b | .fms _ _ _ d a b | .fnma _ _ _ d a b | .cdmac _ _ d a b | .cdmacv _ _ d a b | .mma _ _ _ d a b
  | .zcvt _ _ _ d a b | .stx _ _ d a b | .xamo _ _ d a b _ | .evsend d a b _ | .push d a b _ | .pushx d a b _ =>
    [wr d, wr a, wr b]
  | .amo op _ d a b _ => if op = .cas then [wr d, wr a, wr b] else [wr a, wr b]
  | .clz _ _ a | .ctz _ _ a | .popc _ _ a | .bswap _ _ a | .addi _ _ a _ | .andi _ _ a _ | .ori _ _ a _ | .xori _ _ a _
  | .shli _ _ a _ | .shri _ _ a _ | .shai _ _ a _ | .roti _ _ a _ | .slti _ _ a _ | .bext _ a _ _ | .bextz _ a _ _
  | .fsqrt _ _ _ _ a _ | .fclass _ _ a | .fcvt _ _ _ _ _ a | .fcvti _ _ _ _ _ a | .icvtf _ _ _ _ _ a | .zld _ a
  | .sdflush a | .trap _ a | .mts _ a | .pset _ a | .setvl _ a | .cinv a | .cflush a | .ld _ _ _ a _ _ | .ldfe _ _ a _ _
  | .ldff _ _ a _ _ | .feq _ _ a _ _ | .amocfg _ a | .xld _ _ _ a _ _ | .xam a | .bltz a _ | .bgez a _ | .jr a | .jlr _ a
  | .mbw _ a | .join _ a | .arriveRemote _ a | .arriveb _ a | .waitbt _ a | .bcfgSet _ a | .bcfgGet _ a | .cqry _ a
  | .freeze a | .land _ a | .publish a | .fact _ a | .fconsM _ a | .fwrite _ a => [wr a]
  | .lih d _ _ => [wr d]
  | .bins d a _ _ | .st _ _ d a _ | .stfe _ d a _ | .xst _ d a _ => [wr d, wr a]
  | .mfs _ n => if n = 0 then [cfReg] else []
  | .pget _ p => [pr p]
  | .bcf _ | .bncf _ => [cfReg]
  | .amov _ _ a pa pb => [wr a, pr pa.reg, pr pb.reg]
  | .sendm | .sendmT => mRegs
  | .fork a _ => wr a :: mRegs
  | i => i.ptrArgs.map fun p => pr p.reg

/-- The registers that a word writes (R86); `w0` never counts. -/
def Instr.rawWrites : Instr → List Nat
  | .add _ d _ _ | .sub _ d _ _ | .and _ d _ _ | .or _ d _ _ | .xor _ d _ _ | .shl _ d _ _ | .shr _ d _ _ | .sha _ d _ _
  | .rot _ d _ _ | .min _ d _ _ | .max _ d _ _ | .minz _ d _ _ | .maxz _ d _ _ | .sel _ d _ _ | .mul _ d _ _
  | .mulh _ d _ _ | .mulhz _ d _ _ | .clz _ d _ | .ctz _ d _ | .popc _ d _ | .bswap _ d _ | .div _ d _ _ _
  | .divz _ d _ _ _ | .rem _ d _ _ _ | .remz _ d _ _ _ | .li d _ | .lih d _ _ | .addi _ d _ _ | .andi _ d _ _
  | .ori _ d _ _ | .xori _ d _ _ | .shli _ d _ _ | .shri _ d _ _ | .shai _ d _ _ | .roti _ d _ _ | .bext d _ _ _
  | .bextz d _ _ _ | .bins d _ _ _ | .fadd _ _ _ d _ _ | .fsub _ _ _ d _ _ | .fmul _ _ _ d _ _ | .fma _ _ _ d _ _
  | .fms _ _ _ d _ _ | .fnma _ _ _ d _ _ | .fdiv _ _ _ d _ _ _ | .fsqrt _ _ _ d _ _ | .fmin _ d _ _ | .fmax _ d _ _
  | .fclass _ d _ | .fsgn _ _ d _ _ | .fcvt _ _ _ _ d _ | .fcvti _ _ _ _ d _ | .icvtf _ _ _ _ d _ | .fmvi _ d _
  | .mfs d _ | .pget d _ | .setvl d _ | .ld _ _ d _ _ _ | .ldx _ _ d _ _ _ | .ldfe _ d _ _ _ | .ldff _ d _ _ _
  | .xld _ _ d _ _ _ | .jl d _ | .jlr d _ | .waitm d | .cqry d _ | .srd d _ | .fstat d _ => [wr d]
  | .slt _ d _ _ | .sltz _ d _ _ | .slti _ d _ _ | .fcmp _ _ d _ _ | .zld d _ | .feq _ d _ _ _ | .evcnt d | .join d _ =>
    [wr d, cfReg]
  | .amo op _ d _ _ _ => if op = .cas then [wr d, cfReg] else [wr d]
  | .amov _ _ _ pa pb => incs [pa, pb]
  | .mts n _ => if n = 0 then [cfReg] else []
  | .pset p _ => [pr p]
  | .mbw n _ => [40 + n.val]
  | .evpop => [1, 2, 3, 4, cfReg]
  | .evsend .. | .sendm | .sendmT | .waitbt .. => [cfReg]
  | i => incs i.ptrArgs

def Instr.reads (i : Instr) : List Nat := i.rawReads.filter (· != 0)
def Instr.writes (i : Instr) : List Nat := i.rawWrites.filter (· != 0)

/-- The serialising instructions (R85). -/
def Instr.serialising : Instr → Bool
  | .beq .. | .bne .. | .blt .. | .bge .. | .bltz .. | .bgez .. | .bcf .. | .bncf .. | .j .. | .jl .. | .jr .. | .jlr ..
  | .fence .. | .ifence | .yield .. | .done | .doneNw | .trap .. | .rtt | .fold | .swarm .. | .unswarm | .mts .. => true
  | _ => false

/-- The long-latency instructions (R94). -/
def Instr.longLatency : Instr → Bool
  | .ld .. | .ldx .. | .ldfe .. | .ldff .. | .feq .. | .xld .. | .amo .. | .xamo .. | .div .. | .divz .. | .rem .. | .remz ..
  | .fdiv .. | .fsqrt .. => true
  | _ => false

/-- Windows end before it, and it waits for every outstanding result (R95). -/
def Instr.endsWindows (i : Instr) : Bool := i.serialising || i.engine.isSome

/-- It ends the shadow of `v`, whatever its place (R153, R179). -/
def Instr.endsShadow (i v : Instr) : Bool :=
  i.serialising || i.longLatency || i.engine.isSome || match i with
    | .setvl .. | .zld .. | .zst .. | .fstat .. => true
    | .pset p _ => v.ptrArgs.any fun x => x.reg == p
    | .mfs _ n => n == 0x010
    | _ => false

/-- Words that only the leader of a swarm executes (R174, R176). -/
def Instr.leaderOnly : Instr → Bool
  | .unswarm | .done | .doneNw => true
  | _ => false

/-- A word of item 5 of R86: a V instruction or an A-class word that an engine queue takes. -/
def Instr.noPartner (i : Instr) : Bool :=
  i.isVec || match i with
    | .cdmac .. | .cdmacv .. | .mma .. | .zclr .. | .zcvt .. | .sdcfg .. | .sdscan .. | .sdflush .. => true
    | _ => false

/-- Items 3 to 5 of R86: the words may stand as a pair. -/
def pairOk (i j : Instr) : Bool :=
  !i.serialising && !(i.writes.any fun r => j.writes.contains r || j.reads.contains r) && !(i.longLatency && j.noPartner)

end Sys2Proof
end

