-- ==== Sys2Proof/Machine/Issue.lean ====
section
/-! DEFINITION. Fetching a bundle, its checks, the interlocks, and issuing its words in a strand or in a swarm
(R35, R85-R88, R94-R97, R133, R140, R153, R173, R174, R179, R312, R370, R387). -/

namespace Sys2Proof.Machine

/-! ### Fetch (R87, R133, R140) -/

/-- Address of the bundle that holds a pc. -/
def bundleOf (pc : Nat) : Nat := pc / 8 * 8

/-- Read a bundle into the buffer; what lies before it has been issued. -/
def State.readBundle (s : State) (a : Nat) : State :=
  let b := BitVec.ofNat 64 (s.read (tcmBase s.curCell + a) 8)
  let s := s.touch s.curCell a
  s.setMe { s.me with buf := s.me.buf.filter (fun x => decide (bundleOf s.me.pc ≤ x.1)) ++ [(a, b)] }

/-- The bundle at the pc is in the buffer, or the fetch traps (R87, R133); a gated bank gives no bundle (R47, R271). -/
def State.fetch (s : State) : Except Trap State :=
  let a := bundleOf s.me.pc
  if 0x7F000 ≤ a then .error (accessTrap (BitVec.ofNat 64 a) 3)
  else if (s.me.buffered a).isSome then .ok s
  else if s.cell.meetsGated a 8 then .error (accessTrap (BitVec.ofNat 64 a) 3)
  else if s.marked (tcmBase s.curCell + a) then .error ⟨.uncorrectable, BitVec.ofNat 64 a, 0, 0, 0, 0⟩
  else .ok (s.readBundle a)

/-- The bundle at the pc must be read, and its bank is being zeroed (R272). -/
def State.fetchHeld (s : State) : Bool :=
  (s.me.buffered (bundleOf s.me.pc)).isNone && s.cell.meetsZeroing (bundleOf s.me.pc) 8

/-- The last bundle that the strand may have in its buffer: four beyond the one that it has begun to issue, which is the
one before its pc while the bundle at the pc is still to issue (R140). -/
def prefetchLimit (pc : Nat) : Nat := if pc % 8 = 4 then bundleOf pc + 32 else bundleOf pc + 24

/-- Address of the first bundle from the pc on that is not in the buffer (R140). -/
def Strand.nextRead (t : Strand) : Nat :=
  t.buf.foldl (fun m b => max m (b.1 + 8)) (bundleOf t.pc)

/-- The strand reads `n` bundles ahead, the one at its pc among them, up to an address (R140). -/
def State.readAhead (limit : Nat) : Nat → State → State
  | 0, s => s
  | n + 1, s =>
    let a := s.me.nextRead
    let still := match s.me.run with
      | .issuing | .parked _ | .folded => false
      | _ => true
    if still || limit < a || 0x7F000 ≤ a || s.cell.meetsGated a 8 || s.cell.meetsZeroing a 8 ||
        s.marked (tcmBase s.curCell + a) || s.me.isFollower then s
    else State.readAhead limit n (s.readBundle a)

/-- The strand reads its next bundle ahead of an issue, or while it is parked (R140). -/
def State.prefetch (s : State) : State :=
  let limit := match s.me.run with
    | .parked _ => bundleOf s.me.pc + 32
    | _ => prefetchLimit s.me.pc
  s.readAhead limit 1

/-! ### The checks of a bundle (R86, R89) -/

def bundleTrap (b : Word) : Trap := ⟨.illegalBundle, b, 0, 0, 0, 0⟩
def wordTrap (w : Nat) (n : Nat) : Trap := ⟨.illegalInstruction, BitVec.ofNat 64 w, BitVec.ofNat 64 n, 0, 0, 0⟩

def word0 (b : Word) : Nat := b.toNat % 2 ^ 32
def word1 (b : Word) : Nat := b.toNat / 2 ^ 32
/-- S of word 0 (R85): the bundle issues word by word. -/
def soloBundle (b : Word) : Bool := word0 b / 2 ^ 31 == 1

/-- Items 1 and 2 of R86. -/
def bundleShapeOk (b : Word) : Bool :=
  word1 b / 2 ^ 31 == 0 && (soloBundle b || (word0 b / 2 ^ 30 % 2 == 0 && word1 b / 2 ^ 30 % 2 == 1))

/-- What a strand issues next: one word, or both words of a pair. -/
inductive Slot where
  | one (i : Instr)
  | pair (i j : Instr)
  deriving DecidableEq, Repr

/-- One word at its turn (R88, R89). -/
def oneWord (encv w : Nat) : Except Trap Slot :=
  match decodeWord encv w with
  | .ok i => .ok (.one i)
  | .error _ => .error (wordTrap w 0)

/-- A pair: both words are decoded, then items 3 to 5 of R86 are checked. -/
def bothWords (encv : Nat) (b : Word) : Except Trap Slot :=
  match decodeWord encv (word0 b), decodeWord encv (word1 b) with
  | .error _, _ => .error (wordTrap (word0 b) 0)
  | _, .error _ => .error (wordTrap (word1 b) 1)
  | .ok i, .ok j => if pairOk i j then .ok (.pair i j) else .error (bundleTrap b)

/-- The next slot of a bundle. A start at word 1, and the word that a replay re-executes, issue alone (R87, R96). A pc
whose bits 1:0 a handler has set through TRAPPC names the word it lies in, and word 0 where it lies between the words
(DESIGN CHOICE, log entry 47). -/
def slotOf (encv : Nat) (b : Word) (pc : Nat) (alone : Bool) : Except Trap Slot :=
  if !bundleShapeOk b then .error (bundleTrap b)
  else if pc % 8 = 4 then oneWord encv (word1 b)
  else if soloBundle b || alone then oneWord encv (word0 b)
  else bothWords encv b

/-! ### When a strand can issue (R35, R94-R97, R153, R370) -/

/-- A window or a shadow is open, or an `AMOV` has applied some of its elements. -/
def Strand.speculates (t : Strand) : Bool :=
  t.longs.any (fun o => o.left != 0) || t.shadow.isSome || t.amov.isSome || t.midPair

/-- The watchdog count has run out, and the trap or the end of the handler waits for the boundary (R35, R97). -/
def Strand.timedOut (t : Strand) : Bool := t.left == 0 && (!t.sv || t.inWdog) && !t.windowOpen

/-- The hive's cells stand still for 1,024 cycles while its clock changes (R387). -/
def Hive.clockStalls (h : Hive) (now : Nat) : Bool := decide (now < h.stallUntil)

/-- Nothing but the next word's own conditions holds the strand back. -/
def State.strandRuns (s : State) : Bool :=
  s.me.run == .issuing && !s.cell.fenced && !(s.hiveAt (hiveOf s.curCell)).clockStalls s.now && s.me.held.isNone &&
    !s.me.longs.any fun o => o.left == 0 && o.trap?.isSome

/-- The strand has reached a boundary at which it stops: its job is stopped, or its watchdog strikes. -/
def State.atBoundary (s : State) : Bool :=
  s.me.timedOut || (((s.jobOf s.curCell).map fun j => j.2.stopped).getD false && !s.me.speculates)

/-- A register whose late value has not been written yet stands in the way of a word (R94). A word past the window that
does not touch the destination issues meanwhile, and `RTT` executes it again after a late fault (DESIGN CHOICE, log
entry 48). -/
def Strand.interlocked (t : Strand) (i : Instr) : Bool :=
  t.longs.any fun o => o.left == 0 &&
    ((o.dest != 0 && !o.dropD && (i.reads.contains (wr o.dest) || i.writes.contains (wr o.dest))) ||
      (o.destCf && !o.dropCf && (i.reads.contains cfReg || i.writes.contains cfReg)))

/-- The shadow of the strand's engine instruction ends before the word, and `DONE.nw` does not wait for it (R153, R179), nor the
`RTT` that ends a firing as `DONE.nw` does (R42). -/
def Strand.shadowBars (t : Strand) (i : Instr) : Bool :=
  match t.shadow with
  | some sh => i != .doneNw && !(i == .rtt && t.inWdog) && (decide (15 ≤ sh.slot) || i.endsShadow sh.instr)
  | none => false

/-- The result is known to be a value. -/
def LongOp.good (o : LongOp) : Bool :=
  match o.result with
  | some (.value ..) => true
  | _ => false

/-- A word in the windows of two long-latency instructions waits until one of them is known not to fault: a fault of both
would leave it retired behind the second, where it may have no effect. A word in the window of the second alone waits until
the first is known not to fault: after a fault of the first it would run twice (R96; log entry 49). -/
def Strand.nestedWaits (t : Strand) : Bool :=
  t.longs.any fun o => !o.good && t.longs.any fun p =>
    decide (o.seq < p.seq) && if o.left = 0 then p.left != 0 else !p.good

/-- The interlocks of a word. -/
def Strand.clear (t : Strand) (i : Instr) : Bool :=
  !t.interlocked i && !t.shadowBars i && !t.nestedWaits && !(i.endsWindows && !t.longs.isEmpty)

/-! ### Issuing (R85, R173, R174) -/

/-- What an attempt to issue gives: the strand has moved on, or it waits. -/
inductive Try where
  | went (s : State)
  | waits (s : State)

/-- Issue a word in the current strand; a word that leaves its strand as it was has stalled. -/
def State.tryWord (s : State) (i : Instr) : Try :=
  if !s.strandRuns || !s.me.clear i then .waits s
  else
    let s' := outState s (exec i s)
    if s'.strandAt s.curCell s.curStrand = s.me then .waits s' else .went (s'.at s.curCell s.curStrand)

/-- The members of the current strand's swarm, leader first; the strand alone otherwise. -/
def State.party (s : State) : List (CellId × StrandId) :=
  match s.me.swarm with
  | some w => if s.me.swm then w.members else [(s.curCell, s.curStrand)]
  | none => [(s.curCell, s.curStrand)]

/-- A member's attempt from the state before the word. -/
def State.tryMember (s : State) (i : Instr) (m : CellId × StrandId) : Try := (s.at m.1 m.2).tryWord i

/-- The first member that waits. -/
def State.firstWait (s : State) (i : Instr) : List (CellId × StrandId) → Option State
  | [] => none
  | m :: r => match s.tryMember i m with
    | .waits s' => some (s'.at s.curCell s.curStrand)
    | .went _ => s.firstWait i r

/-- The first member that traps: its trap ends the swarm (R175), or is held by what it has outstanding (R96, R153). No member
executes the word then. -/
def State.firstBreak (s : State) (i : Instr) : List (CellId × StrandId) → Option State
  | [] => none
  | m :: r => match s.tryMember i m with
    | .went s' =>
      if (s'.strandAt s.curCell s.curStrand).swm && (s'.strandAt m.1 m.2).held.isNone then s.firstBreak i r
      else some (s'.at s.curCell s.curStrand)
    | .waits _ => s.firstBreak i r

/-- Every member executes the word, the leader last: the others read its fetch buffer. -/
def State.everyMember (s : State) (i : Instr) : List (CellId × StrandId) → State
  | [] => s
  | m :: r => match s.tryMember i m with
    | .went s' | .waits s' => State.everyMember (s'.at s.curCell s.curStrand) i r

/-- Nothing in a member holds back a word that the leader alone executes (R173, R176). -/
def State.memberReady (s : State) (i : Instr) : Bool := s.strandRuns && s.me.clear i

/-- Issue a word in a strand alone, or in the same cycle in every member of its swarm (R173). -/
def State.issueWord (s : State) (i : Instr) : Try :=
  match s.party with
  | lead :: rest =>
    if rest.isEmpty then s.tryWord i
    else if i.leaderOnly then if rest.all fun m => (s.at m.1 m.2).memberReady i then s.tryWord i else .waits s
    else
      match s.firstWait i (lead :: rest) with
      | some s' => .waits s'
      | none =>
        match s.firstBreak i (lead :: rest) with
        | some s' => .went s'
        | none => .went (s.everyMember i (rest ++ [lead]))
  | [] => .waits s

/-- The windows of every member close before a word that ends them (R95). -/
def State.closeFor (s : State) (ends : Bool) : State :=
  if !ends then s
  else s.party.foldl (fun s m =>
    if (s.strandAt m.1 m.2).longs.isEmpty then s
    else s.on m.1 m.2 fun s => (s.setMe s.me.closeWindows).settle) s

/-- The strand is at a pc whose bundle it has fetched, and nothing has taken it elsewhere. -/
def State.isAt (s : State) (pc : Nat) : Bool :=
  s.me.run == .issuing && s.me.pc == pc && (s.me.buffered (bundleOf pc)).isSome && s.me.held.isNone

/-- Issue one word once the windows that it ends are closed. -/
def State.issueOne (s : State) (i : Instr) : Try :=
  let s' := s.closeFor i.endsWindows
  if s'.isAt s.me.pc then s'.issueWord i else .went s'

/-- Word 1 of a pair could issue as the strand stands before the pair's slot. -/
def State.partnerGoes (s : State) (j : Instr) : Bool :=
  match (s.setMe { s.me with pc := s.me.pc + 4 }).issueOne j with
  | .went _ => true
  | .waits _ => false

/-- The state with nothing outstanding in the strands of the swarm but what was outstanding in `s0`. -/
def State.lessOwn (s s0 : State) : State :=
  s.party.foldl (fun s m =>
    let t := s.strandAt m.1 m.2
    let t0 := s0.strandAt m.1 m.2
    s.setStrand m.1 m.2 { t with longs := t.longs.filter fun o => t0.longs.any fun p => p.seq == o.seq
                                 shadow := t0.shadow }) s

/-- Of what is outstanding, only what word 0 itself has set going since `s0` holds word 1 back. -/
def State.ownHolds (s s0 : State) (j : Instr) : Bool :=
  !s.me.nestedWaits && match (s.lessOwn s0).issueOne j with
    | .went _ => true
    | .waits _ => false

/-- Issue a slot. A pair waits as a whole while either word must wait, and has the effect of its word 0 and then its
word 1 (R85, R87): word 0 issues in its windows, and word 1 follows in the same slot. Where only what word 0 itself has
set going holds word 1 back (an engine instruction ends the shadow of the one before it, R179; a later access waits for an
acquiring load; word 0 parks), word 1 follows once that is over, with no boundary between them (log entry 8). -/
def State.issueSlot (s : State) (x : Slot) : Try :=
  match x with
  | .one i => s.issueOne i
  | .pair i j =>
    let s0 := s.closeFor i.endsWindows
    if !s0.isAt s.me.pc then .went s0
    else if !s0.partnerGoes j then .waits s0
    else
      match s0.issueWord i with
      | .waits s' => .waits s'
      | .went s' =>
        if s'.isAt (s.me.pc + 4) then
          match s'.issueOne j with
          | .went s'' => .went s''
          | .waits _ => if s'.ownHolds s0 j then .went s' else .waits s0
        else .went s'

/-- The encoding version that the strand decodes under (R109). -/
def Strand.encv (t : Strand) : Nat := (t.firing.map fun f => f.encv).getD 0

/-- A trap at a bundle's address (R86). -/
def State.raiseBundle (s : State) (tr : Trap) : State :=
  if tr.cause = .illegalBundle then (s.setMe { s.me with pc := bundleOf s.me.pc }).raise tr else s.raise tr

/-- Every member of the swarm can go on: a stall of one holds back them all, traps included (R173). -/
def State.partyRuns (s : State) : Bool := s.party.all fun m => (s.at m.1 m.2).strandRuns

/-- One attempt to issue in the current strand: fetch, the bundle's checks, then the words. A follower issues only with its
leader (R173). -/
def State.tryIssue (s : State) : Try :=
  if !s.strandRuns || !s.partyRuns || s.atBoundary || s.me.isFollower || s.fetchHeld then .waits s
  else
    match s.fetch with
    | .error tr => .went (s.raise tr)
    | .ok s =>
      match s.me.buffered (bundleOf s.me.pc) with
      | none => .waits s
      | some b =>
        match slotOf s.me.encv b s.me.pc ((s.me.replay.map Replay.law).getD false) with
        | .error tr => .went (s.raiseBundle tr)
        | .ok x => s.issueSlot x

/-! ### Time (R35) -/

/-- The firing's LEFT decrements while the strand stands as it does (R35). -/
def Strand.counts (t : Strand) : Bool :=
  t.firing.isSome && t.left != 0 && (!t.sv || t.inWdog) && match t.run with
    | .issuing | .parked _ | .ending => true
    | _ => false

def Strand.countDown (t : Strand) (n : Nat) : Strand :=
  if t.counts && n != 0 then t.setYlimit t.deadline (t.left - n) else t

/-- Of the next `n` cycles, those that count for a cell's firings: none while its job is stopped (R370), and not those of a
clock change (R387). -/
def State.liveCycles (s : State) (g : CellId) (n : Nat) : Nat :=
  if ((s.jobOf g).map fun j => j.2.stopped).getD false then 0 else n - ((s.hiveAt (hiveOf g)).stallUntil - s.now)

/-- SDWAIT counts the cycles in which the SDU waits for EV allowance (R339). -/
def Cell.countWait (c : Cell) (n : Nat) : Cell :=
  if c.allowEv = 0 && c.sduQ.any (fun e => e.waits) then
    { c with engctr := c.engctr.set 5 (c.engctr[5] + BitVec.ofNat 64 n) }
  else c

def State.agedCell (s : State) (n : Nat) : Nat × Cell → Nat × Cell
  | (g, c) => (g, { c.countWait (n - ((s.hiveAt (hiveOf g)).stallUntil - s.now)) with
      strands := Vector.ofFn fun k => (c.strands[k]).countDown (s.liveCycles g n) })

/-- The strand could issue if of its long-latency instructions only those that satisfy `p` were outstanding. -/
def State.goesWith (s : State) (g : CellId) (k : StrandId) (p : LongOp → Bool) : Bool :=
  let t := s.strandAt g k
  match ((s.setStrand g k { t with stuck := false, longs := t.longs.filter p }).at g k).tryIssue with
  | .went _ => true
  | .waits _ => false

/-- A word of the next bundle of the strand ends its windows (R95). -/
def State.nextEndsWindows (s : State) : Bool :=
  match s.me.buffered (bundleOf s.me.pc) with
  | none => false
  | some b => match slotOf s.me.encv b s.me.pc false with
    | .ok (.one i) => i.endsWindows
    | .ok (.pair _ j) => j.endsWindows
    | .error _ => false

/-- Whether a strand with a request at a bank is parked at the word that waits for that request, and not for another
result (R218). -/
def State.markStuck (s : State) (g : CellId) (k : StrandId) : State :=
  let t := s.strandAt g k
  if t.longs.any fun o => o.atBank then
    let stuck := !s.goesWith g k (fun o => o.atBank) && (s.goesWith g k (fun _ => false) || (s.at g k).nextEndsWindows)
    s.setStrand g k { t with stuck := stuck }
  else s

/-- The watchdog of a strand whose LEFT has reached zero strikes (R35, R42). -/
def State.strike (s : State) (g : CellId) (k : StrandId) : State :=
  let s := if (s.strandAt g k).left = 0 then s.markStuck g k else s
  let t := s.strandAt g k
  if t.left != 0 || t.firing.isNone || t.isFollower then s
  else if t.inWdog then s.stillPending (.watchdogHandlerExpiry g k)
  else match t.run with
    | .issuing | .parked _ | .ending => if t.sv then s else s.stillPending (.watchdog g k)
    | _ => s

/-- `n` cycles pass. -/
def State.tick (s : State) (n : Nat) : State :=
  let s := { s with now := s.now + n, cells := s.cells.map (s.agedCell n) }
  let s := s.cells.foldl (fun s (x : Nat × Cell) => s.judgeUnits x.1) s
  s.cells.foldl (fun s (x : Nat × Cell) => ([0, 1, 2, 3] : List StrandId).foldl (fun s k => s.strike x.1 k) s) s

end Sys2Proof.Machine
end

