-- ==== Sys2Proof/Machine/Step.lean ====
section
/-! DEFINITION. One step of the machine: the schedule says which agent moves, that agent moves, and time passes (log
entries 3, 4 and 5). `withFetchWord` stands for the load of a program. -/

namespace Sys2Proof.Machine

/-- The strand attempts to issue; the cell's issue pointer goes past a winner (R312). -/
def State.issueAt (s : State) (g : CellId) (k : StrandId) : State :=
  match (s.at g k).tryIssue with
  | .went s' => s'.setCell g { s'.cellAt g with issuePtr := (k.val + 1) % 4 }
  | .waits s' => s'

/-- The strand reads `n` bundles ahead, up to the fourth beyond the one that it issues, and issues: an issue that does not
come about reads nothing (R140). -/
def State.issueAhead (s : State) (g : CellId) (k : StrandId) (n : Nat) : State :=
  match ((s.at g k).readAhead (bundleOf (s.strandAt g k).pc + 32) n).tryIssue with
  | .went s' => s'.setCell g { s'.cellAt g with issuePtr := (k.val + 1) % 4 }
  | .waits _ => s

/-- The attempt moves the strand on, or sets the fill going that its word waits for (R129, R284). -/
def State.canIssue (s : State) (g : CellId) (k : StrandId) : Bool :=
  match (s.at g k).tryIssue with
  | .went _ => true
  | .waits s' => s'.pending.length != s.pending.length

/-- The strand that a cell's issue pointer picks (R312). -/
def State.pickStrand (s : State) (g : CellId) : Option StrandId :=
  let p := (s.cellAt g).issuePtr
  ([0, 1, 2, 3] : List StrandId).find? fun n => s.canIssue g (Fin.ofNat 4 (p + n.val))

/-- The cell and strand that issue when the schedule is silent: the cells after the current one first. -/
def State.nextIssue (s : State) : Option (CellId × StrandId) :=
  let l := s.cells.map (·.1)
  let order := l.filter (fun g => decide (s.curCell < g)) ++ l.filter fun g => decide (g ≤ s.curCell)
  order.findSome? fun g => (s.pickStrand g).map fun n => (g, Fin.ofNat 4 ((s.cellAt g).issuePtr + n.val))

/-- Take a pending happening; of the arrivals on one path, the earliest (R225, R342, R355). -/
def State.take (s : State) (n : Nat) : Option (Instr × State) :=
  let l := pathsOf s.returns s.pending
  let n := match l[n]?.getD none with
    | some p => (l.findIdx? fun q => q == some p).getD n
    | none => n
  match s.pending[n]? with
  | none => none
  | some i =>
    let gone := match i, l[n]?.getD none with
      | .allowanceReturn g k, some p => s.returns.erase (p.2.1, g, k)
      | _, _ => s.returns
    some (i, { s with pending := s.pending.eraseIdx n, returns := gone })

/-- Time passes after a move. -/
def passes (n : Nat) : Host.Outcome State Fault Refusal → Host.Outcome State Fault Refusal
  | .next s => .next (s.tick n)
  | o => o

/-- The links of a fenced cell are closed to it: what its strands and engines have under way waits (R372). -/
def State.fenceHolds (s : State) (i : Instr) : Bool :=
  let shut (g : CellId) : Bool := (s.cellAt g).fenced
  match i with
  | .copyBlockWrite id | .copyCompletion id | .copyRetirement id =>
    ((s.copy? id).map fun c => shut c.issuer).getD false
  | i => s.cells.any fun x => x.2.fenced && Instr.ownedBy x.1 i

/-- The strand that a happening may move on past the word it is parked at. -/
def parkOf : Instr → Option (CellId × StrandId)
  | .parkedStrandResume g k | .waitbtExpiry g k => some (g, k)
  | .barrierArrival a => some (a.src, a.strand)
  | _ => none

/-- Word 1 of a pair whose word 0 was parked follows in the same slot. A resumption waits until it can (R85); an arrival has
been counted and is not undone, but its `ARRIVE` goes on waiting for word 1. -/
def State.joinPair (s s' : State) (i : Instr) : State :=
  match parkOf i with
  | none => s'
  | some (g, k) =>
    if (s.strandAt g k).run = .issuing || !(s'.strandAt g k).midPair then s'
    else
      match (s'.at g k).tryIssue, i with
      | .went s'', _ => s''
      | .waits _, .barrierArrival _ =>
        if (s.strandAt g k).swm then s'
        else (s'.setStrand g k { s.strandAt g k with note := 1 }).stillPending (.parkedStrandResume g k)
      | .waits _, _ => if (s.strandAt g k).swm then s' else s.stillPending i

/-- A happening and what it lets go on in the same cycle. -/
def State.comeAbout (s : State) (i : Instr) : Host.Outcome State Fault Refusal :=
  match exec i s with
  | .next s' => .next (s.joinPair s' i)
  | o => o

/-- A happening that has been taken stays set going; a packet stays the first of its path (R342), and an allowance return
keeps its source. -/
def State.putBack (s : State) (i : Instr) (s' : State) : State :=
  match i with
  | .allowanceReturn .. =>
    { s'.heldUp i with returns := (s.returns.find? fun e => s.returns.count e != s'.returns.count e).toList ++ s'.returns }
  | i => if i.path.isSome then s'.heldUp i else s'.stillPending i

/-- A pending happening comes about. -/
def State.happen (s : State) (n : Nat) : Option (Host.Outcome State Fault Refusal) :=
  (s.take n).map fun x => passes 1 (if s.fenceHolds x.1 then .next (s.putBack x.1 x.2) else x.2.comeAbout x.1)

/-- What changes a barrier unit takes in one cycle: the changes themselves, none of them judged (R328). -/
def State.unjudged (s : State) : Instr → State
  | .barrierArrival a => s.arrival false a
  | .copyCompletion id => s.completion false id
  | _ => s

/-- Arrivals and completions of one cycle: every change is made, then the units are judged once (R328). -/
def State.together (s : State) : List Nat → State
  | [] => s.cells.foldl (fun s (x : Nat × Cell) => s.judgeUnits x.1) s
  | n :: r => match s.take n with
    | none => s.together r
    | some x =>
      let s' := match x.1 with
        | .barrierArrival .. | .copyCompletion .. => if s.fenceHolds x.1 then s.putBack x.1 x.2 else x.2.unjudged x.1
        | _ => s
      s.joinPair (s'.together r) x.1

/-- The strand issues its next word; of an `AMOV`, outside a swarm, only the next element (R233, R252). -/
def State.issueElement (s : State) (g : CellId) (k : StrandId) : State :=
  let mark (s : State) (b : Bool) : State := s.on g k fun s => s.setMe { s.me with oneElement := b }
  if (s.strandAt g k).swm then s else mark ((mark s true).issueAt g k) false

/-- A move without a schedule: strands issue in even cycles and happenings come about in odd ones, where there are any,
one after another of those set going; else a cycle passes. -/
def State.unscheduled (s : State) : Host.Outcome State Fault Refusal :=
  let issue := s.nextIssue.map fun x => Host.Outcome.next ((s.issueAt x.1 x.2).tick 1)
  let happen := s.happen (s.now / 2 % max 1 s.pending.length)
  let move := if s.now % 2 = 0 then issue.or happen else happen.or issue
  move.getD (.next (s.tick 1))

/-- One step. -/
def step (s : State) : Host.Outcome State Fault Refusal :=
  match s.oracle with
  | [] => s.unscheduled
  | c :: r =>
    let s := { s with oracle := r }
    match c with
    | .issue g k => .next ((s.issueAt g k).tick 1)
    | .happen n => (s.happen n).getD (.fault .badSchedule)
    | .together l => .next ((s.together l).tick 1)
    | .outside i => if i.isWord then .refused .notHappening else passes 1 (exec i s)
    | .pass n => .next (s.tick n)
    | .ahead g k n => .next ((s.issueAhead g k n).tick 1)
    | .prefetch g k => .next (((s.at g k).prefetch).tick 1)
    | .vuRead g => .next ((if (s.cellAt g).fenced || (s.cellAt g).zeroing then s else s.vuReads g).tick 1)
    | .work g e => .next (((if (s.cellAt g).fenced then s else s.engineWork g e)).tick 1)
    | .word id => .next ((if s.fenceHolds (.copyBlockWrite id) then s else s.copyStep id 8).tick 1)
    | .element g sid => .next ((if (s.cellAt g).fenced then s else s.streamStep g sid 8).tick 1)
    | .amov g k => .next ((s.issueElement g k).tick 1)
    | .serviceRead hive a => .next ((s.serviceRead hive a).tick 1)
    | .serviceWrite hive a l => .next ((s.serviceWrite hive a l).tick 1)
    | .droverWrite hive a l => .next ((s.droverWrite hive a l).tick 1)
    | .entry n p => .next ((s.changeEntry n p).tick 1)
    | .policy hive cls v => .next ((s.setPolicy hive cls v).tick 1)
    | .memoryError u a => .next ((s.memoryError u a).tick 1)
    | .tagError u => .next ((s.tagError u).tick 1)
    | .perst hive => .next ((s.setHive hive (s.hiveAt hive).resetEndpoint).tick 1)
    | .penError n hive k => .next ((s.penError n hive k).tick 1)
    | .barRead b a => .next ((s.barRead b a).tick 1)
    | .barWrite b a v => .next ((s.barWrite b a v).tick 1)

/-! ### Placing one instruction (log entry 5) -/

/-- The firing of a strand that runs no job's program. -/
def Firing.bare : Firing := ⟨0, 0, false, 3, 0, 0, 0, 0, 1, 4095, 0, 0, 0, 0, 0, 0, 0, 0, false, 0⟩

/-- A strand that can issue from `pc`: it issues, holds a firing, has cycles left, and nothing of it is outstanding. -/
def Strand.issuingAt (t : Strand) (pc : Nat) : Strand :=
  let f := { t.firing.getD Firing.bare with encv := 3, wdog := false }
  let wp := if t.firing.isSome then t.wp else 0x60000
  let t := if t.left = 0 then t.setYlimit 4095 (4095 * 64) else t
  { t.leaveSwarm with run := .issuing, firing := some f, pc := pc, wp := wp, buf := [], longs := [], shadow := none,
                      held := none, replay := none, amov := none, oneElement := false, stuck := false }

/-- The bank of a pc is on. -/
def Cell.openBank (c : Cell) (pc : Nat) : Cell :=
  if c.meetsGated pc 8 || c.meetsZeroing pc 8 then { c with banks := c.banks.set (bankOf pc) ⟨.on, 0⟩ } else c

/-- The state with one instruction where the current strand of the current cell fetches next: a word with S = 1 stands as
word 0 before a `NOP`, a word with S = 0 as word 1 behind a `NOP` (R85). -/
def State.withFetchWord (s : State) (nbits w : Nat) : State :=
  let v := w % 2 ^ nbits % 2 ^ 32
  let g := s.curCell
  let pc := if bundleOf s.me.pc < 0x7F000 then bundleOf s.me.pc else 0
  let solo := v / 2 ^ 31 == 1
  let bundle := if solo then v else 2 ^ 31 + v * 2 ^ 32
  let s := { s with oracle := [.issue g s.curStrand] }
  let s := s.setCur { s.cell.openBank pc with fenced := false }
  let h := s.hiveAt (hiveOf g)
  let s := if h.stallUntil = 0 then s else s.setHive (hiveOf g) { h with stallUntil := 0 }
  let s := match s.jobOf g with
    | some (n, j) => if j.stopped then s.setJob n { j with stopped := false } else s
    | none => s
  (s.write (tcmBase g + pc) 8 bundle).setMe (s.me.issuingAt (if solo then pc else pc + 4))

end Sys2Proof.Machine
end

