-- ==== Sys2Proof/Safety.lean ====
section
/-! DEFINITION. What counts as a safe run, and the words in which claims speak of one instruction. -/

namespace Sys2Proof.Machine

/-- Memory is in canonical form. -/
def State.memOk (s : State) : Bool := Memory.wf s.mem

/-- A run of at most `n` steps from a state: the state it reaches, or none when it stops. -/
def run : Nat → State → Option State
  | 0, s => some s
  | n + 1, s => match step s with
    | .next t => run n t
    | _ => none

/-- A state is safe for `n` steps when no step of the run stops. -/
def safeFor (n : Nat) (s : State) : Prop := (run n s).isSome = true

/-- The current strand has nothing outstanding: no long-latency instruction (R94), no engine instruction (R153), no
held trap (R96, R153), and it does not re-execute a word from a trap record (R96). -/
abbrev State.Quiet (s : State) : Prop :=
  s.me.longs = [] ∧ s.me.shadow = none ∧ s.me.held = none ∧ s.me.replay = none

/-- The registers of a strand after a write of `wd`; `w0` discards it (R18). -/
def Strand.wrote (t : Strand) (d : WReg) (v : Word) : Vector Word 64 := if d = 0 then t.ws else t.ws.set d.val v

/-- The registers of a strand after a write of CF (R26). -/
def withCf (ws : Vector Word 64) (b : Bool) : Vector Word 64 := ws.set 50 (setBit ws[50] 0 b)

/-- The current strand has executed its word: new registers, the next word, and nothing else of the machine has
changed. -/
def State.advance (s : State) (ws : Vector Word 64) : State :=
  s.setMe { s.me with ws := ws, pc := s.me.pc + 4, run := .issuing }

/-- The current strand has issued a long-latency instruction and goes on: the instruction stands outstanding and its
result is set going (R94). -/
def State.outstanding (s : State) (i : Instr) (dest : WReg) (destCf : Bool) (left : Nat) (acq ord : Bool)
    (kind : LongKind) : State :=
  let seq := s.cell.nextId
  ((s.setCur { s.cell with nextId := seq + 1 }).setMe { s.me with
      pc := s.me.pc + 4, run := .issuing
      longs := [⟨seq, s.me.pc, i, dest, destCf, left, 0, left, false, false, acq, ord, kind, 0, 0, false, none⟩] }).push
    (.longLatencyResult s.curCell s.curStrand seq)

/-- The current strand has issued a store or slice operation that counts in PSTORE until its acknowledgement (R132,
R141). -/
def State.awaitingAck (s : State) (kind : StoreKind) : State :=
  let c := s.cell
  ((s.setCur { c with
      nextId := c.nextId + 1
      stores := c.stores ++ [⟨c.nextId, s.curStrand, s.me.fid, kind⟩] }).push
    (.storeAcknowledgement s.curCell s.curStrand c.nextId)).advance s.me.ws

/-- The current strand has issued an instruction into an engine's queue and goes on, in the shadow of it: the entry holds
the operands as read now (R147, R151, R153, R177, R178, R181). `t` is the strand with its pointers advanced. -/
def State.queued (s : State) (e : Eng) (i : Instr) (regs ptrs : List Word) (t : Strand) : State :=
  let c := s.cell
  let en : EngEntry :=
    ⟨c.nextId, s.curStrand, s.me.fid, s.me.slotNo, s.actorCell, s.me.fenable, s.me.pc, i, regs, ptrs, s.me.vl, 0, false,
      if i.usesZ then some c.zNext else none, 0, 0, false, false, 0, none⟩
  let c := { c.setQueue e (c.queue e ++ [en]) with nextId := c.nextId + 1, zNext := c.zNext + i.usesZ.toNat }
  ((s.setCur c).setMe { t with
      pc := s.me.pc + 4, run := .issuing
      shadow := some ⟨en.id, s.me.pc, i, 0, Vector.ofFn fun k : Fin 8 => s.me.p k⟩ }).stillPending
    (.engineInstructionStart s.curCell e)

/-- The low n bits of a register (R113). -/
def low (n : Nat) (v : Word) : BitVec n := v.setWidth n
/-- A word that extends n bits by sign (R113). -/
def bySign {n : Nat} (x : BitVec n) : Word := x.signExtend 64
/-- A word that extends n bits by zero (R113). -/
def byZero {n : Nat} (x : BitVec n) : Word := x.setWidth 64

end Sys2Proof.Machine
end

