-- ==== Sys2Proof/Certificates/Slice0/Obligations.lean ====
section
/-! DEFINITION. The statements for the provers, family by family; each docstring names the rules that it formalises.
The tables give results in the terms of the spec, beside the model's own meanings. -/

open Sys2Proof Sys2Proof.Machine

namespace Sys2Proof.Machine

/-! ### The integer group, immediates and bit fields -/

/-- How many bits of n fulfil `p` from one end on, or altogether (R116). -/
def leading (n : Nat) (x : BitVec n) : Nat := ((List.range n).takeWhile fun k => !x.getMsbD k).length
def trailing (n : Nat) (x : BitVec n) : Nat := ((List.range n).takeWhile fun k => !x.getLsbD k).length
def ones (n : Nat) (x : BitVec n) : Nat := ((List.range n).filter fun k => x.getLsbD k).length

/-- A comparison's result and CF (R116, R118, R124). -/
def verdict (d : WReg) (b : Bool) : WReg × Word × Option Bool := (d, if b then 1 else 0, some b)

/-- R116 as a table: destination, value and, for a comparison, CF. -/
def arRule (t : Strand) : Instr → Option (WReg × Word × Option Bool)
  | .add f d a b => some (d, bySign (low (intBits f) (t.w a) + low (intBits f) (t.w b)), none)
  | .sub f d a b => some (d, bySign (low (intBits f) (t.w a) - low (intBits f) (t.w b)), none)
  | .and f d a b => some (d, bySign (low (intBits f) (t.w a) &&& low (intBits f) (t.w b)), none)
  | .or f d a b => some (d, bySign (low (intBits f) (t.w a) ||| low (intBits f) (t.w b)), none)
  | .xor f d a b => some (d, bySign (low (intBits f) (t.w a) ^^^ low (intBits f) (t.w b)), none)
  | .shl f d a b => some (d, bySign (low (intBits f) (t.w a) <<< ((t.w b).toNat % intBits f)), none)
  | .shr f d a b => some (d, byZero (low (intBits f) (t.w a) >>> ((t.w b).toNat % intBits f)), none)
  | .sha f d a b => some (d, bySign ((low (intBits f) (t.w a)).sshiftRight ((t.w b).toNat % intBits f)), none)
  | .rot f d a b => some (d, bySign ((low (intBits f) (t.w a)).rotateLeft ((t.w b).toNat % intBits f)), none)
  | .slt f d a b => some (verdict d ((low (intBits f) (t.w a)).slt (low (intBits f) (t.w b))))
  | .sltz f d a b => some (verdict d ((low (intBits f) (t.w a)).ult (low (intBits f) (t.w b))))
  | .min f d a b => some (d, bySign (BitVec.ofInt (intBits f) (min (low (intBits f) (t.w a)).toInt (low (intBits f) (t.w b)).toInt)), none)
  | .max f d a b => some (d, bySign (BitVec.ofInt (intBits f) (max (low (intBits f) (t.w a)).toInt (low (intBits f) (t.w b)).toInt)), none)
  | .minz f d a b => some (d, BitVec.ofNat 64 (min (low (intBits f) (t.w a)).toNat (low (intBits f) (t.w b)).toNat), none)
  | .maxz f d a b => some (d, BitVec.ofNat 64 (max (low (intBits f) (t.w a)).toNat (low (intBits f) (t.w b)).toNat), none)
  | .sel f d a b => some (d, bySign (if t.cf then low (intBits f) (t.w a) else low (intBits f) (t.w b)), none)
  | .mul f d a b => some (d, bySign (low (intBits f) (t.w a) * low (intBits f) (t.w b)), none)
  | .mulh f d a b =>
    some (d, bySign (BitVec.ofInt (intBits f) ((low (intBits f) (t.w a)).toInt * (low (intBits f) (t.w b)).toInt / 2 ^ intBits f)), none)
  | .mulhz f d a b =>
    some (d, BitVec.ofNat 64 ((low (intBits f) (t.w a)).toNat * (low (intBits f) (t.w b)).toNat / 2 ^ intBits f), none)
  | .clz f d a => some (d, bySign (BitVec.ofNat (intBits f) (leading (intBits f) (low (intBits f) (t.w a)))), none)
  | .ctz f d a => some (d, bySign (BitVec.ofNat (intBits f) (trailing (intBits f) (low (intBits f) (t.w a)))), none)
  | .popc f d a => some (d, bySign (BitVec.ofNat (intBits f) (ones (intBits f) (low (intBits f) (t.w a)))), none)
  | .bswap f d a =>
    some (d, bySign (BitVec.ofNat (intBits f) (ofBytes ((toBytes (low (intBits f) (t.w a)).toNat (intBits f / 8)).reverse))), none)
  | _ => none

/-- The registers after a result of a table: `wd`, and CF where the rule writes it. -/
def Strand.results (t : Strand) (r : WReg × Word × Option Bool) : Vector Word 64 :=
  match r.2.2 with
  | none => t.wrote r.1 r.2.1
  | some b => withCf (t.wrote r.1 r.2.1) b

/-- The number that the field of a format's width spells, extended by the format's sign (R118). -/
def byFmt (f : Fmt) (x : BitVec (intBits f)) : Word := if isUnsignedInt f then byZero x else bySign x

/-- The immediate as n bits: sign-extended for codes 0x0-0x3, zero-extended for 0x4-0x6 (R118). -/
def immOf (f : Fmt) (imm : BitVec 11) : BitVec (intBits f) :=
  if isUnsignedInt f then imm.setWidth (intBits f) else imm.signExtend (intBits f)

/-- Bits `off + w - 1 : off` of a register replaced (R119, R120). -/
def replaced (v x : Word) (off w : Nat) : Word :=
  (v &&& ~~~(BitVec.ofNat 64 (2 ^ w - 1) <<< off)) ||| ((x &&& BitVec.ofNat 64 (2 ^ w - 1)) <<< off)

/-- R118, R119 and R120 as a table. -/
def immRule (t : Strand) : Instr → Option (WReg × Word × Option Bool)
  | .li d imm => some (d, imm.signExtend 64, none)
  | .lih d h imm => some (d, replaced (t.w d) (imm.setWidth 64) (16 * h.val) 16, none)
  | .addi f d a imm => some (d, byFmt f (low (intBits f) (t.w a) + immOf f imm), none)
  | .andi f d a imm => some (d, byFmt f (low (intBits f) (t.w a) &&& imm.setWidth (intBits f)), none)
  | .ori f d a imm => some (d, byFmt f (low (intBits f) (t.w a) ||| imm.setWidth (intBits f)), none)
  | .xori f d a imm => some (d, byFmt f (low (intBits f) (t.w a) ^^^ imm.setWidth (intBits f)), none)
  | .shli f d a imm => some (d, byFmt f (low (intBits f) (t.w a) <<< (imm.toNat % intBits f)), none)
  | .shri f d a imm => some (d, byZero (low (intBits f) (t.w a) >>> (imm.toNat % intBits f)), none)
  | .shai f d a imm => some (d, byFmt f ((low (intBits f) (t.w a)).sshiftRight (imm.toNat % intBits f)), none)
  | .roti f d a imm => some (d, byFmt f ((low (intBits f) (t.w a)).rotateLeft (imm.toNat % intBits f)), none)
  | .slti f d a imm => some (verdict d (if isUnsignedInt f then (low (intBits f) (t.w a)).ult (immOf f imm)
      else (low (intBits f) (t.w a)).slt (immOf f imm)))
  | .bext d a wid off => some (d, ((t.w a).extractLsb' off.val (min wid.val (64 - off.val))).signExtend 64, none)
  | .bextz d a wid off => some (d, ((t.w a).extractLsb' off.val (min wid.val (64 - off.val))).setWidth 64, none)
  | .bins d a wid off => some (d, replaced (t.w d) (t.w a) off.val (min wid.val (64 - off.val)), none)
  | _ => none

/-- R117 as a table: the quotient or remainder of the operands read at issue. -/
def divRule (t : Strand) : Instr → Option (WReg × Fin 16 × Word)
  | .div f d a b la => some (d, la, bySign (if low (intBits f) (t.w b) = 0 then BitVec.ofInt (intBits f) (-1)
      else (low (intBits f) (t.w a)).sdiv (low (intBits f) (t.w b))))
  | .divz f d a b la => some (d, la, byZero (if low (intBits f) (t.w b) = 0 then BitVec.ofInt (intBits f) (-1)
      else low (intBits f) (t.w a) / low (intBits f) (t.w b)))
  | .rem f d a b la => some (d, la, bySign (if low (intBits f) (t.w b) = 0 then low (intBits f) (t.w a)
      else (low (intBits f) (t.w a)).srem (low (intBits f) (t.w b))))
  | .remz f d a b la => some (d, la, byZero (if low (intBits f) (t.w b) = 0 then low (intBits f) (t.w a)
      else low (intBits f) (t.w a) % low (intBits f) (t.w b)))
  | _ => none

end Sys2Proof.Machine

/-- R116, R18: every instruction of the integer group writes its result, extended by R113, to `wd` and, where it
compares, CF; nothing else changes but the place of the strand. -/
def Claims.IntegerResult : Prop := ∀ (i : Instr) (s : State) (r : WReg × Word × Option Bool),
  s.Quiet → arRule s.me i = some r → exec i s = .next (s.advance (s.me.results r))

/-- R118, R119, R120: the same for immediates and bit fields. -/
def Claims.ImmediateResult : Prop := ∀ (i : Instr) (s : State) (r : WReg × Word × Option Bool),
  s.Quiet → immRule s.me i = some r → exec i s = .next (s.advance (s.me.results r))

/-- R117, R94: a division issues as a long-latency instruction that carries the result of the operands read at issue;
no flag goes with it. The window is the one written, or a word longer in a pair (R109). -/
def Claims.DivisionIssues : Prop := ∀ (i : Instr) (s : State) (d : WReg) (la : Fin 16) (v : Word),
  s.Quiet → divRule s.me i = some (d, la, v) →
  exec i s = .next (s.outstanding i d false (s.windowOf la) false false (.value v 0))

/-- R94, R113: when the result of a computation has come back and its window is closed it is written to `wd`, with its
flags into FFLAGS, and nothing else changes. -/
def Claims.LongResultWritten : Prop := ∀ (s : State) (g : CellId) (k : StrandId) (o : LongOp) (v : Word) (fl : Flags),
  (s.strandAt g k).longs = [o] → o.kind = .value v fl → o.result = none → o.left = 0 → o.dropD = false →
  (s.strandAt g k).held = none → fl &&& (s.strandAt g k).fenable = 0 →
  exec (.longLatencyResult g k o.seq) s = .next (s.setStrand g k { s.strandAt g k with
    longs := []
    ws := (({ s.strandAt g k with ws := (s.strandAt g k).wrote o.dest v }).raiseFlags fl).ws })

namespace Sys2Proof.Machine

/-! ### Scalar floating point -/

/-- A value and its flags, written zero-extended to `wd` (R113). -/
def fpWrite (d : WReg) (r : Nat × Flags) : (WReg × Word × Option Bool) × Flags := ((d, BitVec.ofNat 64 r.1, none), r.2)

/-- Bit n of a number. -/
def bitOf (x n : Nat) : Bool := x.testBit n

/-- The sign that `FSGN` gives (R124). -/
def signOf (o : SgnOp) (a b : Bool) : Bool :=
  match o with
  | .cpy => b
  | .neg => !b
  | .xor => a != b

/-- R122, R124, R125 and R126 as a table: result, CF where it is written, and the flags raised. -/
def fpRule (t : Strand) : Instr → Option ((WReg × Word × Option Bool) × Flags)
  | .fadd f rm sat d a b => some (fpWrite d (addVal f rm sat (fpValOf f (t.w a)) (fpValOf f (t.w b))))
  | .fsub f rm sat d a b => some (fpWrite d (addVal f rm sat (fpValOf f (t.w a)) (fpValOf f (t.w b)).neg))
  | .fmul f rm sat d a b => some (fpWrite d (mulRound f rm sat (fpValOf f (t.w a)) (fpValOf f (t.w b))))
  | .fma f rm sat d a b =>
    some (fpWrite d (fmaRound f rm sat (fpValOf f (t.w a)) (fpValOf f (t.w b)) (fpValOf f (t.w d))))
  | .fms f rm sat d a b =>
    some (fpWrite d (fmaRound f rm sat (fpValOf f (t.w a)) (fpValOf f (t.w b)) (fpValOf f (t.w d)).neg))
  | .fnma f rm sat d a b =>
    some (fpWrite d (fmaRound f rm sat (fpValOf f (t.w a)).neg (fpValOf f (t.w b)) (fpValOf f (t.w d))))
  | .fmin f d a b => some (fpWrite d (minMax f false (fpBitsOf f (t.w a)) (fpBitsOf f (t.w b))))
  | .fmax f d a b => some (fpWrite d (minMax f true (fpBitsOf f (t.w a)) (fpBitsOf f (t.w b))))
  | .fcmp p f d a b => some (verdict d (fpPred p (fpValOf f (t.w a)) (fpValOf f (t.w b))).1,
      (fpPred p (fpValOf f (t.w a)) (fpValOf f (t.w b))).2)
  | .fclass f d a => some (fpWrite d (fpClass f (fpBitsOf f (t.w a)), 0))
  | .fsgn o f d a b => some (fpWrite d (fpBitsOf f (t.w a) % 2 ^ (fpBits f - 1) +
      (signOf o (bitOf (t.w a).toNat (fpBits f - 1)) (bitOf (t.w b).toNat (fpBits f - 1))).toNat * 2 ^ (fpBits f - 1), 0))
  | .fcvt fd fs rm sat d a => some (fpWrite d (convert fd fs rm sat (fpBitsOf fs (t.w a))))
  | .fcvti fd fs rm sat d a => some ((d, byFmt fd (BitVec.ofNat _ (convert fd fs rm sat (fpBitsOf fs (t.w a))).1), none),
      (convert fd fs rm sat (fpBitsOf fs (t.w a))).2)
  | .icvtf fd fs rm sat d a => some (fpWrite d (convert fd fs rm sat (t.w a).toNat))
  | .fmvi f d imm => some (fpWrite d (fpImm f imm.toNat))
  | _ => none

/-- R123 as a table: the quotient or root of the operands read at issue, with its flags. -/
def fpLongRule (t : Strand) : Instr → Option (WReg × Fin 16 × Nat × Flags)
  | .fdiv dbl rm sat d a b la => some (d, la,
      divRound (aqFmt dbl) rm sat (fpValOf (aqFmt dbl) (t.w a)) (fpValOf (aqFmt dbl) (t.w b)))
  | .fsqrt dbl rm sat d a la => some (d, la, sqrtRound (aqFmt dbl) rm sat (fpValOf (aqFmt dbl) (t.w a)))
  | _ => none

end Sys2Proof.Machine

/-- R113, R121, R122, R124, R125, R126: without an enabled flag the result is written, the flags are ORed into FFLAGS,
and nothing else changes but the place of the strand. -/
def Claims.FloatResult : Prop :=
  ∀ (i : Instr) (s : State) (r : WReg × Word × Option Bool) (fl : Flags),
  s.Quiet → fpRule s.me i = some (r, fl) → fl &&& s.me.fenable = 0 →
  exec i s = .next (s.advance ((s.me.raiseFlags fl).results r))

/-- R32, R121, R42: an enabled flag traps `FP_EXCEPTION` with the flags in TRAPVAL and TRAPAUX 0; neither `wd` nor CF is
written, the flags are, and in user mode the strand waits for the drover with its message on the way. -/
def Claims.FloatTraps : Prop :=
  ∀ (i : Instr) (s : State) (r : WReg × Word × Option Bool) (fl : Flags),
  s.Quiet → fpRule s.me i = some (r, fl) → fl &&& s.me.fenable ≠ 0 → s.me.swarm = none → s.me.sv = false →
  ∃ t, exec i s = .next t ∧ t.me.run = .awaiting 1 (some ⟨.fpException, fl.zeroExtend 64, 0, 0, 0, 0⟩) ∧
    t.me.ws = ((s.me.raiseFlags fl).setRecord 0x0F (BitVec.ofNat 64 s.me.pc) (fl.zeroExtend 64) 0).ws ∧
    t.me.pc = s.me.pc ∧ t.mem = s.mem ∧
    (t.hiveAt s.hive).faults =
      faultMessage 1 s.curCell s.me.slotNo s.curStrand t.me.record t.me.status
        (((s.jobOf s.curCell).map fun j => j.2.step).getD 0) :: (s.hiveAt s.hive).faults

/-- R123, R94: `FDIV` and `FSQRT` issue with the value and the flags of the operands read at issue. -/
def Claims.FloatLongIssues : Prop := ∀ (i : Instr) (s : State) (d : WReg) (la : Fin 16) (r : Nat × Flags),
  s.Quiet → fpLongRule s.me i = some (d, la, r) →
  exec i s = .next (s.outstanding i d false (s.windowOf la) false false (.value (BitVec.ofNat 64 r.1) r.2))

namespace Sys2Proof.Machine

/-- The state after an instruction of the window of `o` with result `r`, executed by the strand as `t`: the window is one shorter,
and a late write to what the instruction has written will be dropped (R94). -/
def State.inWindow (s : State) (t : Strand) (o : LongOp) (r : WReg × Word × Option Bool) : State :=
  s.setMe { s.me with
    pc := s.me.pc + 4, run := .issuing, ws := t.results r
    longs := [{ o with
      left := o.left - 1, slot := o.slot + 1
      dropD := o.dropD || (decide (o.dest = r.1) && decide (r.1 ≠ 0))
      dropCf := o.dropCf || (o.destCf && r.2.2.isSome) }] }

/-- The strand has one long-latency instruction outstanding, with its window open, and nothing else. -/
def State.WindowOf (s : State) (o : LongOp) : Prop :=
  s.me.longs = [o] ∧ o.result = none ∧ 0 < o.left ∧ s.me.shadow = none ∧ s.me.held = none ∧ s.me.replay = none

end Sys2Proof.Machine

/-- R94, R116, R118-R122, R124-R126: an instruction of the integer group, an immediate or bit-field instruction, or a floating-point
instruction that raises no enabled flag executes in the window with the result of its table, counts the window down and, where
it writes the outstanding destination or CF, the late write will be dropped. -/
def Claims.WindowInstruction : Prop := ∀ (i : Instr) (s : State) (o : LongOp), s.WindowOf o →
  (∀ r, arRule s.me i = some r ∨ immRule s.me i = some r → exec i s = .next (s.inWindow s.me o r)) ∧
  ∀ r fl, fpRule s.me i = some (r, fl) → fl &&& s.me.fenable = 0 → exec i s = .next (s.inWindow (s.me.raiseFlags fl) o r)

/-- R94: past the window an instruction that reads or writes a destination whose late value has not been written, CF among them,
waits: its strand stays at it and nothing of it is executed. -/
def Claims.WindowOver : Prop := ∀ (i : Instr) (s : State), ∀ o ∈ s.me.longs, o.left = 0 →
  (o.dest ≠ 0 ∧ o.dropD = false ∧ (o.dest.val ∈ i.reads ∨ o.dest.val ∈ i.writes)) ∨
    (o.destCf = true ∧ o.dropCf = false ∧ (cfReg ∈ i.reads ∨ cfReg ∈ i.writes)) →
  s.tryWord i = .waits s

/-- R67, R79: a result that is rounded without a flag is exact: its pattern stands for the number that was rounded, with
its sign. -/
def Claims.UnflaggedIsExact : Prop :=
  ∀ (f : Fmt) (rm : Rm) (sat neg : Bool) (m : Nat) (e : Int) (r : Nat), f ∈ [Fmt.e4m3, .e5m2, .bf16, .fp16, .fp32, .fp64] →
  m ≠ 0 → roundTo f rm sat neg m e false = (r, 0) →
  ∃ m' e', unpack f r = .fin neg m' e' ∧ (m' : ℚ) * 2 ^ e' = (m : ℚ) * 2 ^ e

namespace Sys2Proof.Machine

/-! ### Loads, stores and atomics -/

/-- W[wa] plus a signed offset in elements (R127), modulo 2^64. -/
def offsetAddr {n : Nat} (v : Word) (off : BitVec n) (size : Nat) : Nat :=
  (v + off.signExtend 64 * BitVec.ofNat 64 size).toNat

/-- W[wa] plus W[wb] elements (R128), modulo 2^64. -/
def indexAddr (v x : Word) (size : Nat) : Nat := (v + x * BitVec.ofNat 64 size).toNat

/-- What an access of the core names (R127, R128, R231, R234): address, bytes, kind, destination and lookahead. -/
structure AccessRow where
  addr : Nat
  size : Nat
  dest : WReg
  cf : Bool
  la : Fin 16
  acq : Bool
  ord : Bool
  kind : LongKind

/-- Loads (R127, R128). -/
def loadRule (t : Strand) : Instr → Option AccessRow
  | .ld w acq d a off la => some ⟨offsetAddr (t.w a) off (widthBytes w), widthBytes w, d, false, la, acq, false,
      .load w (offsetAddr (t.w a) off (widthBytes w))⟩
  | .ldx w acq d a b la => some ⟨indexAddr (t.w a) (t.w b) (widthBytes w), widthBytes w, d, false, la, acq, false,
      .load w (indexAddr (t.w a) (t.w b) (widthBytes w))⟩
  | _ => none

/-- Stores (R127, R128): address, bytes and value. -/
def storeRule (t : Strand) : Instr → Option (Nat × Nat × Word)
  | .st w _ d a off => some (offsetAddr (t.w a) off (widthBytes w), widthBytes w, t.w d)
  | .stx w _ d a b => some (indexAddr (t.w a) (t.w b) (widthBytes w), widthBytes w, t.w d)
  | _ => none

/-- Full/empty reads (R234). -/
def feRule (t : Strand) : Instr → Option AccessRow
  | .ldfe acq d a off la => some ⟨offsetAddr (t.w a) off 8, 8, d, false, la, acq, false, .fe 0 (offsetAddr (t.w a) off 8)⟩
  | .ldff acq d a off la => some ⟨offsetAddr (t.w a) off 8, 8, d, false, la, acq, false, .fe 1 (offsetAddr (t.w a) off 8)⟩
  | .feq acq d a off la => some ⟨offsetAddr (t.w a) off 8, 8, d, true, la, acq, false, .fe 2 (offsetAddr (t.w a) off 8)⟩
  | _ => none

/-- No store of the strand or of its firing is unacknowledged (R132, R139). -/
def State.NoStores (s : State) : Prop := ∀ p ∈ s.cell.stores, p.fid ≠ s.me.fid ∧ p.strand ≠ s.curStrand

/-- What a store of `v` to `size` bytes at a TCM offset leaves there: in the slot table only the writable bits change (R9,
R50). -/
def State.storedTcm (s : State) (g : CellId) (off size v : Nat) : Nat :=
  (if 0x7F000 ≤ off then slotStore off size (s.read (tcmBase g + off) size) v else v) % 256 ^ size

/-- Every set of every slice has a way free (R278). -/
def State.RoomInSlices (s : State) : Prop := ∀ h st, (s.hiveAt h).setFull st = false

/-- The release forms (R131). -/
def isRelease : Instr → Bool
  | .st _ rel _ _ _ => rel
  | .stx _ rel _ _ _ => rel
  | _ => false

end Sys2Proof.Machine

/-- R127, R128, R129, R94: a load that passes the checks issues; its result is set going. -/
def Claims.LoadIssues : Prop := ∀ (i : Instr) (s : State) (r : AccessRow) (pl : Place),
  s.Quiet → loadRule s.me i = some r → s.misses s.curCell r.addr = false → s.zeroHeld s.curCell r.addr r.size = false →
  s.check s.curCell s.me.sv (s.instrWord i) r.addr r.size 0 = .ok pl →
  exec i s = .next (s.outstanding i r.dest false (s.windowOf r.la) r.acq false r.kind)

namespace Sys2Proof.Machine

/-- The physical address that an address of a cell leads to: TCM of the cell or, through a window, of another one, the Z window, a
scratchpad, or the home of a page (R7, R45, R46, R363). -/
def State.homeAt (s : State) (g : CellId) (addr : Nat) : Nat :=
  match s.place g addr with
  | .tcm d off => tcmBase d + off
  | .z off => zAddr g 0 + off
  | .scratch c off _ => scratchAddr c off
  | .virt _ loc _ => loc
  | _ => 0

/-- The little-endian number of n bytes at its home: for a page of the super or of LPDDR6 as its slice holds it (R8, R252, R280). -/
def State.homeValue (s : State) (g : CellId) (addr n : Nat) : Nat :=
  match s.place g addr with
  | .virt _ loc _ => ofBytes (s.cachedBytes loc n)
  | .tcm .. | .z _ | .scratch .. => s.read (s.homeAt g addr) n
  | _ => 0

/-- The access is served at its home: no bank is being zeroed and no slice has to wait (R272, R286), the cell of a window is there
(R372), no word of it is uncorrectable (R292), and its page is not shadowed (R130). -/
def State.Served (s : State) (g : CellId) (addr n : Nat) : Prop :=
  s.memoryWaits g addr = false ∧ s.meetsFence g addr = false ∧
  match s.place g addr with
  | .tcm .. | .z _ => s.rangeMarked (s.homeAt g addr) n = false
  | .scratch _ _ p => s.rangeMarked (s.homeAt g addr) n = false ∧ p.state ≠ .shadowed
  | .virt _ loc p => s.marks = [] ∧ p.state ≠ .shadowed ∧ loc % 32 + n ≤ 32 ∧ s.RoomInSlices ∧
      (s.hiveAt (hiveOfPhys loc)).mutes = [] ∧
      ∀ x ∈ (s.hiveAt (hiveOfPhys loc)).sectors, x.marks = [] ∧ x.data.length = 32
  | _ => False

end Sys2Proof.Machine

/-- R7, R8, R45-R47, R113, R127, R130, R252, R280: the result of a load is the little-endian number at its address when it is
performed, extended by the width code: in TCM, of the own cell or through the window of another one, in the Z window, in a
scratchpad, or on a page homed in the hive, as its slice holds it; memory stays as it is. -/
def Claims.LoadReads : Prop := ∀ (s : State) (g : CellId) (k : StrandId) (o : LongOp) (w : Fmt) (addr : Nat),
  (s.strandAt g k).longs = [o] → o.kind = .load w addr → o.result = none → o.left = 0 → o.dropD = false → o.dest ≠ 0 →
  (s.strandAt g k).held = none → (s.cellAt g).stores = [] → s.Served g addr (widthBytes w) →
  ∃ t, exec (.longLatencyResult g k o.seq) s = .next t ∧ t.mem = s.mem ∧
    (t.strandAt g k).ws = (s.strandAt g k).ws.set o.dest.val (extendLoad w (s.homeValue g addr (widthBytes w))) ∧
    (t.strandAt g k).longs = [] ∧ (t.strandAt g k).pc = (s.strandAt g k).pc

/-- R127, R128, R132, R16, R9: a store to the own TCM is performed when it issues: exactly the addressed bytes change, they
take the low bytes of the register (in the slot table, its writable bits), and no register of the strand changes. -/
def Claims.StoreToTcm : Prop := ∀ (i : Instr) (s : State) (addr size : Nat) (v : Word) (off : Nat),
  s.Quiet → storeRule s.me i = some (addr, size, v) → (isRelease i = true → s.NoStores) → s.misses s.curCell addr = false →
  s.zeroHeld s.curCell addr size = false →
  s.check s.curCell s.me.sv (s.instrWord i) addr size 1 = .ok (.tcm s.curCell off) → Memory.wf s.mem = true →
  ∃ t, exec i s = .next t ∧ t.me.ws = s.me.ws ∧ t.me.pc = s.me.pc + 4 ∧
    t.read (tcmBase s.curCell + off) size = s.storedTcm s.curCell off size v.toNat ∧
    ∀ a, a < tcmBase s.curCell + off ∨ tcmBase s.curCell + off + size ≤ a → t.byte a = s.byte a

/-- R132, R38: a store elsewhere counts in PSTORE until its acknowledgement; that no byte changes until then is the model's reading
(log entry 13). -/
def Claims.StoreElsewhereWaits : Prop := ∀ (i : Instr) (s : State) (addr size : Nat) (v : Word) (pl : Place),
  s.Quiet → storeRule s.me i = some (addr, size, v) → (isRelease i = true → s.NoStores) → s.misses s.curCell addr = false →
  s.zeroHeld s.curCell addr size = false →
  s.check s.curCell s.me.sv (s.instrWord i) addr size 1 = .ok pl → (∀ off, pl ≠ .tcm s.curCell off) →
  exec i s = .next (s.awaitingAck (.store addr size v))

/-- R129: an access that is not aligned to its size traps `MISALIGNED` before anything else is looked at. -/
def Claims.MisalignedFirst : Prop := ∀ (s : State) (g : CellId) (sv : Bool) (iw : Word) (addr size kind : Nat),
  addr % size ≠ 0 →
  s.check g sv iw addr size kind = .error ⟨.misaligned, BitVec.ofNat 64 addr, BitVec.ofNat 64 size, 0, 0, 0⟩

namespace Sys2Proof.Machine

/-- The windows of the scratchpads, 2^31 bytes, and of TCM, 2^32 bytes (R7). -/
def inWindow (a : Nat) : Prop :=
  (scratchWindow ≤ a ∧ a < scratchWindow + 2 ^ 31) ∨ (tcmWindow ≤ a ∧ a < tcmWindow + 2 ^ 32)

/-- R51: what the state of a page says of an access of a kind by a cell of its hive. -/
def pageRule (p : Page) (g : CellId) (addr kind : Nat) (pl : Place) : Except Trap Place :=
  if kind = 0 then .ok pl
  else match p.state with
    | .landing => .error ⟨.landingViolation, BitVec.ofNat 64 addr, BitVec.ofNat 64 kind, 0, 0, 0⟩
    | .frozen => .error (crookTrap addr p)
    | .live | .shadowed => if p.heldBy g then .ok pl else .error (crookTrap addr p)

/-- R46, R47: a core's access to TCM of a cell, at an offset below 2^19. -/
def State.tcmRule (s : State) (g d : CellId) (sv : Bool) (iw : Word) (addr off size kind : Nat) : Except Trap Place :=
  let no := .error (accessTrap (BitVec.ofNat 64 addr) kind)
  if d = g then
    if 0x7F000 ≤ off ∧ sv = false then .error ⟨.privilege, iw, 0, 0, 0, 0⟩
    else if (s.cellAt d).closed off size = true then no else .ok (.tcm d off)
  else if kind ≠ 0 ∨ 0x7F000 ≤ off ∨ (s.cellAt d).fenced = true ∨ (s.cellAt d).closed off size = true then no
  else .ok (.tcm d off)

/-- Address, bytes and kind of what an instruction of the core accesses: 0 load, 1 store, 2 atomic (R127, R128, R231). -/
def accessRule (t : Strand) (i : Instr) : Option (Nat × Nat × Nat) :=
  match loadRule t i, storeRule t i, i with
  | some r, _, _ => some (r.addr, r.size, 0)
  | none, some r, _ => some (r.1, r.2.1, 1)
  | _, _, .amo _ _ _ a _ _ => some ((t.w a).toNat, 8, 2)
  | _, _, _ => none

/-- The instruction waits for the stores of its strand and of its firing: a release, or an ordered atomic (R131, R231). -/
def waitsForStores : Instr → Bool
  | .amo _ ord _ _ _ _ => ord
  | .stfe rel _ _ _ => rel
  | i => isRelease i

end Sys2Proof.Machine

/-- R7, R45-R47, R51, R129: the checks of an aligned access in their order, range by range: the slot table is for supervisor mode,
bound workspaces and gated banks are closed, the Z window takes no store, a window of another cell only loads below its slot
table, a virtual address without a mapping traps `PAGE_FAULT`, one of another hive and an address outside every window `ACCESS`, and a
store or atomic on a page goes by its state: `LANDING_VIOLATION`, `CROOK`, or through. -/
def Claims.ChecksInOrder : Prop := ∀ (s : State) (g : CellId) (sv : Bool) (iw : Word) (addr size kind : Nat), addr % size = 0 →
  let check := s.check g sv iw addr size kind
  let no := .error (accessTrap (BitVec.ofNat 64 addr) kind)
  let page := (s.jobOf g).bind fun j => j.2.page (hiveOf g) addr
  (addr < 0x80000 → check = s.tcmRule g g sv iw addr addr size kind) ∧
  (0x80000 ≤ addr → addr < 0xA0000 → check = if kind = 0 then .ok (.z (addr - 0x80000)) else no) ∧
  (0xA0000 ≤ addr → addr < 2 ^ 20 → check = no) ∧
  (2 ^ 20 ≤ addr → addr < 2 ^ 57 → ∀ p, page = some p → p.mapped = true → p.homes.any (fun h => h.1 == hiveOf g) = true →
    check = pageRule p g addr kind (.virt addr (p.addr (hiveOf g) addr) p)) ∧
  (2 ^ 20 ≤ addr → addr < 2 ^ 57 → ∀ p, page = some p → p.mapped = true → p.homes.any (fun h => h.1 == hiveOf g) = false →
    check = no) ∧
  (2 ^ 20 ≤ addr → addr < 2 ^ 57 → page = none ∨ (∃ p, page = some p ∧ p.mapped = false) →
    check = .error ⟨.pageFault, BitVec.ofNat 64 addr, BitVec.ofNat 64 (kind * 2 ^ 32), 0, 0, 0⟩) ∧
  (∀ c off, c < 256 → off < 2 ^ 23 → addr = scratchWindow + c * 2 ^ 23 + off →
    (page = none ∨ 2 ^ 22 ≤ off ∨ s.combExists (hiveOf g) c = false → check = no) ∧
    ∀ p, page = some p → off < 2 ^ 22 → s.combExists (hiveOf g) c = true →
      check = pageRule p g addr kind (.scratch (hiveOf g * 256 + c) off p)) ∧
  (∀ c off, c < 4096 → off < 2 ^ 20 → addr = tcmWindow + c * 2 ^ 20 + off →
    (2 ^ 19 ≤ off ∨ s.cellExists (hiveOf g * 4096 + c) = false → check = no) ∧
    (off < 2 ^ 19 → s.cellExists (hiveOf g * 4096 + c) = true →
      check = s.tcmRule g (hiveOf g * 4096 + c) sv iw addr off size kind)) ∧
  (2 ^ 57 ≤ addr → ¬ inWindow addr → check = no)

/-- R129, R231, R234: a load, a store, an atomic or a full/empty access that fails a check takes its trap at issue, with LAW 0, and has
no effect of its own; an atomic also where its function slot or the slot table forbids it; a full/empty access traps `ACCESS` at
every address outside the scratchpads, and goes by the state of its page, a store-full also by its holder. -/
def Claims.ChecksTrap : Prop :=
  (∀ (i : Instr) (s : State) (addr size kind : Nat) (e : Trap), s.Quiet → accessRule s.me i = some (addr, size, kind) →
    (waitsForStores i = true → s.NoStores) → s.misses s.curCell addr = false → s.zeroHeld s.curCell addr size = false →
    s.check s.curCell s.me.sv (s.instrWord i) addr size kind = .error e →
    exec i s = .next (s.takeTrap e s.me.pc false 0)) ∧
  (∀ (op : Aop) (ord : Bool) (d a b : WReg) (la : Fin 16) (s : State) (pl : Place) (e : Trap), s.Quiet → (ord = true → s.NoStores) →
    s.misses s.curCell (s.w a).toNat = false → s.zeroHeld s.curCell (s.w a).toNat 8 = false →
    s.check s.curCell s.me.sv (s.instrWord (.amo op ord d a b la)) (s.w a).toNat 8 2 = .ok pl →
    amoCheck op (s.w a).toNat pl = .error e →
    exec (.amo op ord d a b la) s = .next (s.takeTrap e s.me.pc false 0)) ∧
  ∀ (i : Instr) (s : State) (addr kind : Nat), s.Quiet → s.NoStores →
    (∃ r, feRule s.me i = some r ∧ addr = r.addr ∧ kind = 0) ∨
      (∃ rel d a off, i = .stfe rel d a off ∧ addr = offsetAddr (s.w a) off 8 ∧ kind = 1) →
    s.misses s.curCell addr = false →
    let no := accessTrap (BitVec.ofNat 64 addr) kind
    (∀ e, s.check s.curCell s.me.sv (s.instrWord i) addr 8 0 = .error e →
      exec i s = .next (s.takeTrap (if e.cause = .misaligned ∨ e.cause = .privilege then e else no) s.me.pc false 0)) ∧
    ∀ pl e, s.check s.curCell s.me.sv (s.instrWord i) addr 8 0 = .ok pl → feCheck s.curCell addr kind pl = .error e →
      exec i s = .next (s.takeTrap e s.me.pc false 0)

/-- R129, R131, R231, R234, R94: an atomic and a full/empty read that pass their checks issue and stand outstanding. -/
def Claims.AtomicIssues : Prop :=
  (∀ (op : Aop) (ord : Bool) (d a b : WReg) (la : Fin 16) (s : State) (pl : Place),
    s.Quiet → (ord = true → s.NoStores) → s.misses s.curCell (s.w a).toNat = false →
    s.zeroHeld s.curCell (s.w a).toNat 8 = false →
    s.check s.curCell s.me.sv (s.instrWord (.amo op ord d a b la)) (s.w a).toNat 8 2 = .ok pl →
    amoCheck op (s.w a).toNat pl = .ok () →
    exec (.amo op ord d a b la) s = .next (s.outstanding (.amo op ord d a b la) d (op == .cas) (s.windowOf la) false ord
      (.amo op (s.w a).toNat (s.w b) (s.w d)))) ∧
  (∀ (i : Instr) (s : State) (r : AccessRow) (pl : Place),
    s.Quiet → feRule s.me i = some r → s.misses s.curCell r.addr = false →
    s.check s.curCell s.me.sv (s.instrWord i) r.addr 8 0 = .ok pl → feCheck s.curCell r.addr 0 pl = .ok () →
    exec i s = .next (s.outstanding i r.dest r.cf (s.windowOf r.la) r.acq false r.kind))

namespace Sys2Proof.Machine

/-- R231 as a table: the new value of the word. -/
def amoRule (old x cmp : Word) : Aop → Word
  | .swap => x
  | .add => old + x
  | .and => old &&& x
  | .or => old ||| x
  | .xor => old ^^^ x
  | .min => if old.slt x then old else x
  | .max => if old.slt x then x else old
  | .cas => if old = cmp then x else old
  | .fn _ => old

/-- A word of TCM of a cell. -/
def State.tcmWord (s : State) (g : CellId) (a : Nat) : Word := BitVec.ofNat 64 (s.read (tcmBase g + a) 8)

end Sys2Proof.Machine

/-- R231, R94, R252, R280: an atomic on a word of the own TCM, of a scratchpad or of a page homed in the hive, as its slice holds it,
reads the word, writes its new value, returns the old one, and `.cas` writes CF; every other byte stays. -/
def Claims.AtomicPerforms : Prop :=
  ∀ (s : State) (g : CellId) (k : StrandId) (o : LongOp) (op : Aop) (addr : Nat) (x cmp : Word),
  (s.strandAt g k).longs = [o] → o.kind = .amo op addr x cmp → o.result = none → o.left = 0 → o.dropD = false →
  o.dropCf = false → o.dest ≠ 0 → (s.strandAt g k).held = none → (s.cellAt g).stores = [] → op.isFn = false →
  s.Served g addr 8 → (∀ off, s.place g addr ≠ .z off) → (∀ d off, s.place g addr = .tcm d off → off + 8 ≤ 0x7F000) →
  Memory.wf s.mem = true →
  let old := BitVec.ofNat 64 (s.homeValue g addr 8)
  ∃ t, exec (.longLatencyResult g k o.seq) s = .next t ∧
    t.homeValue g addr 8 = (amoRule old x cmp op).toNat ∧
    (∀ a, a < s.homeAt g addr ∨ s.homeAt g addr + 8 ≤ a → t.byte a = s.byte a ∧ t.cached a = s.cached a) ∧
    (t.strandAt g k).ws = (let ws := (s.strandAt g k).ws.set o.dest.val old
      if op = .cas then withCf ws (old == cmp) else ws)

namespace Sys2Proof.Machine

/-- R232 as a table: the new value of one lane, from the old value and the operand. -/
def laneRule {n : Nat} (op : Nat) (sgn : Bool) (x y : BitVec n) : BitVec n :=
  match op with
  | 0 => x + y
  | 1 => x - y
  | 2 => x &&& y
  | 3 => x ||| y
  | 4 => x ^^^ y
  | 5 => if (if sgn then x.slt y else x.ult y) then x else y
  | 6 => if (if sgn then x.slt y else x.ult y) then y else x
  | 7 => y
  | _ =>
    if sgn then BitVec.ofInt n (max (-(2 ^ (n - 1) : Int)) (min (x.toInt + y.toInt) (2 ^ (n - 1) - 1)))
    else BitVec.ofNat n (min (x.toNat + y.toNat) (2 ^ n - 1))

/-- Lane k of n bits of a doubleword. -/
def lane (n k : Nat) (v : Nat) : BitVec n := BitVec.ofNat n (v / 2 ^ (n * k))

/-- The function word `fw` has been applied to a scratchpad word with operand `x` (R232): every lane has its new value, F is as the
word says, and no other byte of memory has changed. -/
def State.FnApplied (s t : State) (n off : Nat) (fw x : Word) : Prop :=
  let w := 8 * 2 ^ (fw.toNat / 2 ^ 4 % 4)
  (∀ k, k < 64 / w → lane w k (t.read (scratchAddr n off) 8) =
    laneRule (fw.toNat % 16) (fw.getLsbD 6) (lane w k (s.read (scratchAddr n off) 8)) (lane w k x.toNat)) ∧
  t.fullAt n off = (match fw.toNat / 2 ^ 7 % 4 with | 1 => true | 2 => false | _ => s.fullAt n off) ∧
  ∀ a, a < scratchAddr n off ∨ scratchAddr n off + 8 ≤ a → t.byte a = s.byte a

/-- The target of element k of an `AMOV` (R233). -/
def State.amovAt (s : State) (base pa : Word) (k : Nat) : Nat :=
  (base + 8 * BitVec.ofInt 64 (toSigned 32 (s.read (tcmBase s.curCell + ptrAddr pa + 4 * k) 4))).toNat

/-- The operands of an `AMOV` lie in the own TCM below bank W, and nothing holds up its elements. -/
def State.AmovReady (s : State) (pa pb : Word) : Prop :=
  s.Quiet ∧ s.NoStores ∧ s.marks = [] ∧ (∀ a n, a + n ≤ 0x60000 → s.cell.closed a n = false) ∧
  (∀ b : Fin 4, (s.cell.banks[b]).state ≠ .zeroing) ∧ s.me.vl ≤ 4096 ∧ s.me.amov = none ∧ s.me.oneElement = false ∧
  checkPtrs [(pa, ⟨s.me.vl, 8⟩), (pb, ⟨s.me.vl, 16⟩)] = .ok () ∧ ptrMode pa = 0 ∧ ptrAddr pa + s.me.vl * 4 ≤ 0x60000 ∧
  ptrMode pb = 0 ∧ ptrAddr pb + s.me.vl * 8 ≤ 0x60000 ∧ Memory.wf s.mem = true

end Sys2Proof.Machine

/-- R231, R232: an atomic with a function slot, `AMO.fN` as its result comes and `AMOV.fN` of one element, applies the slot's word to a
scratchpad word; `AMO` returns the new value where RET says so and the old one otherwise. -/
def Claims.FunctionsApplied : Prop :=
  (∀ (s : State) (g : CellId) (k : StrandId) (o : LongOp) (f : Fin 8) (addr n off : Nat) (x cmp : Word) (p : Page),
    (s.strandAt g k).longs = [o] → o.kind = .amo (.fn f) addr x cmp → o.result = none → o.left = 0 → o.dropD = false →
    o.dest ≠ 0 → (s.strandAt g k).held = none → (s.cellAt g).stores = [] → s.place g addr = .scratch n off p → p.state = .live →
    s.rangeMarked (scratchAddr n off) 8 = false → (s.combAt n).waiters = [] → fnBad ((s.combAt n).fns[f]) = false →
    Memory.wf s.mem = true →
    ∃ t, exec (.longLatencyResult g k o.seq) s = .next t ∧ s.FnApplied t n off ((s.combAt n).fns[f]) x ∧
      (t.strandAt g k).ws = (s.strandAt g k).ws.set o.dest.val (BitVec.ofNat 64
        (if ((s.combAt n).fns[f]).getLsbD 9 then t.read (scratchAddr n off) 8 else s.read (scratchAddr n off) 8))) ∧
  (∀ (f : Fin 8) (ord : Bool) (a : WReg) (pa pb : PtrArg) (s : State) (n off : Nat) (p : Page),
    s.AmovReady (s.me.p pa.reg) (s.me.p pb.reg) → s.me.vl = 1 → (s.w a).toNat % 8 = 0 →
    s.misses s.curCell (s.amovAt (s.w a) (s.me.p pa.reg) 0) = false →
    s.place s.curCell (s.amovAt (s.w a) (s.me.p pa.reg) 0) = .scratch n off p → p.state = .live →
    s.check s.curCell s.me.sv (s.instrWord (.amov (.fn f) ord a pa pb)) (s.amovAt (s.w a) (s.me.p pa.reg) 0) 8 2 =
      .ok (.scratch n off p) →
    (s.combAt n).waiters = [] → fnBad ((s.combAt n).fns[f]) = false →
    ∃ t, exec (.amov (.fn f) ord a pa pb) s = .next t ∧ t.me.pc = s.me.pc + 4 ∧
      s.FnApplied t n off ((s.combAt n).fns[f])
        (BitVec.ofNat 64 (s.read (tcmBase s.curCell + ptrAddr (s.me.p pb.reg)) 8)))

/-- R231, R233: `AMOV` on words of the own TCM apart from its operands leaves in each doubleword what the atomics of the elements that
name it, in ascending order, leave there, and changes no other byte. -/
def Claims.AmovElements : Prop :=
  ∀ (op : Aop) (ord : Bool) (a : WReg) (pa pb : PtrArg) (s : State), op.isFn = false → op ≠ .cas →
  s.AmovReady (s.me.p pa.reg) (s.me.p pb.reg) → (s.w a).toNat % 8 = 0 →
  let at_ := fun k => s.amovAt (s.w a) (s.me.p pa.reg) k
  let x := fun k => BitVec.ofNat 64 (s.read (tcmBase s.curCell + ptrAddr (s.me.p pb.reg) + 8 * k) 8)
  (∀ k, k < s.me.vl → at_ k + 8 ≤ 0x60000 ∧
    (at_ k + 8 ≤ ptrAddr (s.me.p pa.reg) ∨ ptrAddr (s.me.p pa.reg) + s.me.vl * 4 ≤ at_ k) ∧
    (at_ k + 8 ≤ ptrAddr (s.me.p pb.reg) ∨ ptrAddr (s.me.p pb.reg) + s.me.vl * 8 ≤ at_ k)) →
  ∃ t, exec (.amov op ord a pa pb) s = .next t ∧ t.me.pc = s.me.pc + 4 ∧
    (∀ b, b % 8 = 0 → b + 8 ≤ 0x60000 → t.tcmWord s.curCell b = ((List.range s.me.vl).filter fun k => at_ k == b).foldl
      (fun old k => amoRule old (x k) 0 op) (s.tcmWord s.curCell b)) ∧
    ∀ c, (∀ k, k < s.me.vl → c < tcmBase s.curCell + at_ k ∨ tcmBase s.curCell + at_ k + 8 ≤ c) → t.byte c = s.byte c

/-- R232: `AMOCFG` puts the function word into slot n of its comb's update units; a word with a reserved bit or an unused
operation or full/empty rule traps `ACCESS` with kind 0 and changes no slot. -/
def Claims.FunctionSlots : Prop := ∀ (n : Fin 8) (a : WReg) (s : State), s.Quiet →
  (fnBad (s.w a) = false → exec (.amocfg n a) s =
    .next ((s.setComb (combOf s.curCell) { s.comb with fns := s.comb.fns.set n (s.w a) }).advance s.me.ws)) ∧
  (fnBad (s.w a) = true → exec (.amocfg n a) s = .next (s.takeTrap (accessTrap (s.w a) 0) s.me.pc false 0))

/-- R234: `STFE` of an empty scratchpad word that nothing waits for writes it and sets F; exactly its bytes change. -/
def Claims.StoreFills : Prop :=
  ∀ (rel : Bool) (d a : WReg) (off : BitVec 10) (s : State) (n o : Nat) (p : Page),
  s.Quiet → s.NoStores →
  s.misses s.curCell (offsetAddr (s.w a) off 8) = false → offsetAddr (s.w a) off 8 % 8 = 0 →
  s.place s.curCell (offsetAddr (s.w a) off 8) = .scratch n o p → feCheck s.curCell (offsetAddr (s.w a) off 8) 1 (.scratch n o p) = .ok () →
  s.fullAt n o = false → (s.combAt n).waiters = [] → p.state = .live → Memory.wf s.mem = true →
  ∃ t, exec (.stfe rel d a off) s = .next t ∧ t.fullAt n o = true ∧ t.read (scratchAddr n o) 8 = (s.w d).toNat ∧
    (∀ b, b < scratchAddr n o ∨ scratchAddr n o + 8 ≤ b → t.byte b = s.byte b) ∧
    t.me.ws = s.me.ws ∧ t.me.pc = s.me.pc + 4

/-- R234: at its bank `LDFE` of a full word reads it and empties it, `LDFF` reads it and leaves it full, and `FEQ` reads it
and F without waiting. -/
def Claims.FullEmptyReads : Prop :=
  ∀ (s : State) (g : CellId) (k : StrandId) (o : LongOp) (op : Fin 3) (addr n off : Nat) (p : Page),
  (s.strandAt g k).longs = [o] → o.kind = .fe op addr → o.result = none → o.left = 0 → o.dropD = false →
  o.dropCf = false → o.atBank = false → o.dest ≠ 0 → (s.strandAt g k).held = none → (s.cellAt g).stores = [] →
  s.place g addr = .scratch n off p → p.state = .live → (op ≠ 2 → s.fullAt n off = true) →
  (s.combAt n).waiters = [] → s.rangeMarked (scratchAddr n off) 8 = false →
  ∃ t, exec (.longLatencyResult g k o.seq) s = .next t ∧ t.mem = s.mem ∧
    t.fullAt n off = (if op = 0 then false else s.fullAt n off) ∧
    (t.strandAt g k).ws = (let ws := (s.strandAt g k).ws.set o.dest.val (BitVec.ofNat 64 (s.read (scratchAddr n off) 8))
      if op = 2 then withCf ws (s.fullAt n off) else ws)

namespace Sys2Proof.Machine

/-! ### Control transfer -/

/-- The address of the bundle at a pc plus 8 bytes for each unit of the offset, modulo 2^19 (R134). -/
def relativeTarget {n : Nat} (pc : Nat) (off : BitVec n) : Nat :=
  (BitVec.ofNat 19 (pc / 8 * 8) + BitVec.ofInt 19 (8 * off.toInt)).toNat

/-- R134 as a table: whether a branch is taken, from the registers of the strand that decides (R173), and where to. -/
def branchRule (t : Strand) (pc : Nat) : Instr → Option (Bool × Nat)
  | .beq a b off => some (t.w a == t.w b, relativeTarget pc off)
  | .bne a b off => some (t.w a != t.w b, relativeTarget pc off)
  | .blt a b off => some (decide ((t.w a).toInt < (t.w b).toInt), relativeTarget pc off)
  | .bge a b off => some (decide ((t.w b).toInt ≤ (t.w a).toInt), relativeTarget pc off)
  | .bltz a off => some (decide ((t.w a).toInt < 0), relativeTarget pc off)
  | .bgez a off => some (decide (0 ≤ (t.w a).toInt), relativeTarget pc off)
  | .bcf off => some (t.cf, relativeTarget pc off)
  | .bncf off => some (!t.cf, relativeTarget pc off)
  | _ => none

/-- R135 as a table: link register and target. -/
def jumpRule (t : Strand) (pc : Nat) : Instr → Option (WReg × Word)
  | .j off => some (0, BitVec.ofNat 64 (relativeTarget pc off))
  | .jl d off => some (d, BitVec.ofNat 64 (relativeTarget pc off))
  | .jr a => some (0, t.w a)
  | .jlr d a => some (d, t.w a)
  | _ => none

end Sys2Proof.Machine

/-- R134, R87, R140: a branch that is not taken goes to the next word; a taken one goes to its target with an empty fetch
buffer, and no register changes. -/
def Claims.BranchGoes : Prop := ∀ (i : Instr) (s : State) (taken : Bool) (target : Nat),
  s.Quiet → branchRule s.fetcher s.me.pc i = some (taken, target) → target < 0x7F000 →
  exec i s = .next (if taken then s.setMe { s.me with pc := target, buf := [], run := .issuing } else s.advance s.me.ws)

/-- R135, R87: a jump goes to its target with an empty fetch buffer and links the address of the next bundle. -/
def Claims.JumpGoes : Prop := ∀ (i : Instr) (s : State) (d : WReg) (v : Word),
  s.Quiet → jumpRule s.fetcher s.me.pc i = some (d, v) → v.toNat % 8 = 0 → v.toNat < 0x7F000 →
  exec i s = .next (s.setMe { s.me with
    ws := s.me.wrote d (BitVec.ofNat 64 (s.me.pc / 8 * 8 + 8)), pc := v.toNat, buf := [], run := .issuing })

/-- R87, R135: a target at or above 0x7_F000 traps `ACCESS` with kind 3, a register target that is no bundle address traps
`MISALIGNED` first, and no link is written. -/
def Claims.BadTargets : Prop := ∀ (i : Instr) (s : State), s.Quiet →
  (∀ (d : WReg) (v : Word), jumpRule s.fetcher s.me.pc i = some (d, v) →
    (v.toNat % 8 ≠ 0 → exec i s = .next (s.takeTrap ⟨.misaligned, v, 8, 0, 0, 0⟩ s.me.pc false 0)) ∧
    (v.toNat % 8 = 0 → 0x7F000 ≤ v.toNat → exec i s = .next (s.takeTrap (accessTrap v 3) s.me.pc false 0))) ∧
  (∀ target, branchRule s.fetcher s.me.pc i = some (true, target) → 0x7F000 ≤ target →
    exec i s = .next (s.takeTrap (accessTrap (BitVec.ofNat 64 target) 3) s.me.pc false 0))

namespace Sys2Proof.Machine

/-! ### System registers, pointers, fences and slices -/

/-- The system registers of R25 that lie in the workspace: their number and doubleword (R15). -/
def workspaceRegs : List (Nat × Fin 64) :=
  [(0x000, 50), (0x004, 55), (0x006, 56), (0x007, 57), (0x010, 51), (0x011, 52), (0x018, 53), (0x021, 54), (0x030, 58),
   (0x031, 59), (0x032, 60), (0x033, 61)]

/-- The numbers that R25 lists. -/
def listedRegs : List Nat :=
  [0x000, 0x001, 0x002, 0x003, 0x004, 0x005, 0x006, 0x007, 0x010, 0x011, 0x018, 0x020, 0x021, 0x030, 0x031, 0x032, 0x033,
   0x040, 0x041, 0x048]

/-- The entries of a queue that the current strand has placed, and all of them, each at most 2 (R38). -/
def State.pendOf (s : State) (q : List EngEntry) : Nat :=
  min (q.countP fun e => e.strand == s.curStrand) 2 + 4 * min q.length 2

/-- The registers of R25 that do not lie in the workspace: WP, STEP, CELLID, ENCV, EVCOUNT, ALLOW, PMASK and ENGPEND, with what
they read as (R27-R29, R31, R34, R36-R38). -/
def State.otherRegs (s : State) : List (Nat × Word) :=
  [(0x001, BitVec.ofNat 64 s.me.wp),
   (0x002, BitVec.ofNat 64 (match s.jobOf s.curCell with | some (_, j) => j.step | none => 0)),
   (0x003, BitVec.ofNat 64 (s.curCell + 2 ^ 24 * s.combsPerDie)),
   (0x005, BitVec.ofNat 64 (match s.me.firing with | some f => f.encv | none => 0)),
   (0x020, BitVec.ofNat 64 ((s.unreserved s.curCell s.me.slotNo + s.spilled s.curCell s.me.slotNo) % 2 ^ 32)),
   (0x040, BitVec.ofNat 64 (s.cell.allowEv % 2 ^ 8 + 2 ^ 8 * (s.cell.allowRq % 2 ^ 8) + 2 ^ 16 * (s.cell.allowSv % 2 ^ 8))),
   (0x041, s.cell.pmask),
   (0x048, BitVec.ofNat 64 (s.pendOf s.cell.vuQ + 2 ^ 4 * s.pendOf s.cell.sceQ + 2 ^ 8 * s.pendOf s.cell.fgQ +
     2 ^ 12 * s.pendOf s.cell.sduQ + 2 ^ 16 * min (s.cell.stores.countP fun p => p.strand == s.curStrand) 65535))]

/-- What `MTS` leaves in the doubleword of a register that it writes (R26, R32, R35, R43, R44). -/
def mtsRule (t : Strand) (n : Nat) (v : Word) : Option (Fin 64 × Word) :=
  match n with
  | 0x000 => some (50, setBit t.ws[50] 0 (v.getLsbD 0))
  | 0x010 => some (51, v &&& 0x1F)
  | 0x011 => some (52, v &&& 0x1F)
  | 0x021 => some (54, ylimit (v.toNat % 4096) t.left)
  | 0x030 => some (58, v &&& trapCauseMask)
  | 0x031 => some (59, v &&& 0x7FFFF)
  | 0x032 => some (60, v)
  | 0x033 => some (61, v)
  | _ => none

/-- What `MTS` to WP leaves in doubleword k, from what stands there in the workspace and the register-file copy before (R15, R22,
R26-R35, R43, R319): no reserved bit comes in. The strand keeps its mode, priority, swarm fields, number and watchdog count: the
model's reading (log entry 22). -/
def rebindRule (t : Strand) (task : Bool) (k : Nat) (old v : Word) : Word :=
  if k = 0 ∨ k = 63 then 0
  else if k = 49 ∨ k = 59 then v &&& 0x7FFFF
  else if k = 50 then (old &&& ~~~(1 : Word)) ||| (v &&& 1)
  else if k = 51 ∨ k = 52 then v &&& 0x1F
  else if k = 53 then v &&& 0xFFFFF
  else if k = 54 then ylimit (v.toNat % 4096) t.left
  else if k = 55 then old
  else if k = 58 then v &&& trapCauseMask
  else if k = 62 then if task then v &&& 0xFFFF0000003FFFFF else 0
  else if k / 4 = 10 then v &&& 0xF0FFFFFFFF000000
  else v

/-- Registers, pointers and the vector length (R136-R138, R144). -/
def plainRule (t : Strand) : Instr → Option (Vector Word 64)
  | .nop => some t.ws
  | .pset p a => some (t.ws.set (32 + p.val) (t.w a))
  | .pget d p => some (t.wrote d t.ws[32 + p.val])
  | .setvl d a => some (({ t with ws := t.ws.set 53 (BitVec.ofNat 64 (min (t.w a).toNat 524288)) } : Strand).wrote d
      (BitVec.ofNat 64 (min (t.w a).toNat 524288)))
  | _ => none

end Sys2Proof.Machine

/-- R136-R138, R144: what `NOP`, `PSET`, `PGET` and `SETVL` leave; nothing else changes but the place of the strand. -/
def Claims.PlainRegisters : Prop := ∀ (i : Instr) (s : State) (ws : Vector Word 64),
  s.Quiet → plainRule s.me i = some ws → exec i s = .next (s.advance ws)

/-- R25-R38, R136: `MFS` reads every listed register, those of the workspace as their doubleword and the others as the table says,
and changes nothing but `wd`; a number that is not listed traps `ILLEGAL_INSTRUCTION` in `MFS` and in `MTS`. -/
def Claims.SystemRegisterReads : Prop := ∀ (d : WReg) (n : BitVec 12) (s : State), s.Quiet →
  (∀ k, (n.toNat, k) ∈ workspaceRegs → exec (.mfs d n) s = .next (s.advance (s.me.wrote d s.me.ws[k]))) ∧
  (∀ v, (n.toNat, v) ∈ s.otherRegs → exec (.mfs d n) s = .next (s.advance (s.me.wrote d v))) ∧
  (∀ m, m ∈ listedRegs ↔ m ∈ workspaceRegs.map Prod.fst ++ s.otherRegs.map Prod.fst) ∧
  (n.toNat ∉ listedRegs → ∀ i, i = Instr.mfs d n ∨ i = Instr.mts n d →
    exec i s = .next (s.takeTrap ⟨.illegalInstruction, s.instrWord i, 0, 0, 0, 0⟩ s.me.pc false 0))

/-- R25, R26, R32, R35, R37, R43, R44, R136: `MTS` in supervisor mode, or in user mode to STATUS, FFLAGS or FENABLE: the
writable bits of the named register are written and nothing else changes; a read-only register stays. -/
def Claims.SystemRegisterWrites : Prop := ∀ (n : BitVec 12) (a : WReg) (s : State), s.Quiet →
  n.toNat ∈ listedRegs → (s.me.sv = true ∨ n.toNat ∈ [0x000, 0x010, 0x011]) →
  (∀ k v, mtsRule s.me n.toNat (s.w a) = some (k, v) → exec (.mts n a) s = .next (s.advance (s.me.ws.set k v))) ∧
  (n.toNat = 0x041 → exec (.mts n a) s =
    .next ((s.setCur { s.cell with pmask := s.w a &&& 0x3FFFF }).advance s.me.ws)) ∧
  (n.toNat ∉ [0x001, 0x041] → mtsRule s.me n.toNat (s.w a) = none → exec (.mts n a) s = .next (s.advance s.me.ws))

/-- R25, R42, R143: in user mode `MTS` to any other listed register traps `PRIVILEGE` with the register in TRAPAUX, `RTT`
traps it too, and neither has an effect of its own. -/
def Claims.PrivilegeTraps : Prop := ∀ (s : State), s.Quiet → s.me.sv = false →
  (∀ (n : BitVec 12) (a : WReg), n.toNat ∈ listedRegs → n.toNat ∉ [0x000, 0x010, 0x011] → exec (.mts n a) s =
    .next (s.takeTrap ⟨.privilege, s.instrWord (.mts n a), BitVec.ofNat 64 n.toNat, 0, 0, 0⟩ s.me.pc false 0)) ∧
  exec .rtt s = .next (s.takeTrap ⟨.privilege, s.instrWord .rtt, 0, 0, 0, 0⟩ s.me.pc false 0)

/-- R27, R16: `MTS` to WP in supervisor mode writes the register-file copy back to the workspace it leaves and loads the
one it names, at the address in bits 18:9, every doubleword as the table says (log entry 22). -/
def Claims.WorkspaceRebinds : Prop := ∀ (a : WReg) (s : State), s.Quiet → s.me.sv = true →
  s.wpOk ((s.w a).toNat / 512 % 1024 * 512) = true → s.marks = [] →
  ∃ t, exec (.mts 0x001 a) s = .next t ∧ t.me.wp = (s.w a).toNat / 512 % 1024 * 512 ∧ t.me.pc = s.me.pc + 4 ∧
    t.mem = (s.writeBack s.curCell s.me).mem ∧
    ∀ k : Fin 64, t.me.ws[k] = rebindRule s.me (s.me.firing.any fun f => f.task) k.val s.me.ws[k]
      (BitVec.ofNat 64 (t.read (tcmBase s.curCell + t.me.wp + 8 * k.val) 8))

/-- R139, R140: with every earlier access performed and no engine instruction or stepped operation of the firing
outstanding a fence of any scope only moves on; `IFENCE` empties the fetch buffer but for the bundle being issued, which stays by
the model's reading (log entry 10). -/
def Claims.FencesPass : Prop := ∀ (s : State), s.Quiet → s.NoStores →
  (∀ c : Scope, s.computeBusy = false → s.steppedBusy = false → exec (.fence c) s = .next (s.advance s.me.ws)) ∧
  exec .ifence s = .next (s.setMe { s.me with
    buf := s.me.buf.filter fun b => b.1 == s.me.pc / 8 * 8, pc := s.me.pc + 4, run := .issuing })

/-- R139, R255: a fence of any scope keeps the strand where it is while an access of the strand is to be performed (a
long-latency instruction that has not come back, a store of its firing that its memory has not taken) and while an engine
instruction of its firing computes; one of the scope hive or job also while a store of the strand or of its firing is not
acknowledged; one of the scope job also while a stepped operation of its firing is on its way. -/
def Claims.FenceWaits : Prop := ∀ (s : State) (c : Scope),
  (∃ o ∈ s.me.longs, o.unperformed = true) ∨
  (∃ p ∈ s.cell.stores, p.fid = s.me.fid ∧ ∃ a n v, p.kind = .store a n v) ∨
  (∃ e ∈ s.cell.vuQ ++ s.cell.sceQ ++ s.cell.sduQ, e.fid = s.me.fid) ∨
  ((c = .hive ∨ c = .job) ∧ ∃ p ∈ s.cell.stores, p.fid = s.me.fid ∨ p.strand = s.curStrand) ∨
  (c = .job ∧ s.steppedBusy = true) →
  exec (.fence c) s = .next s

/-- R7, R141: `CINV` and `CFLUSH` of a virtual address count in PSTORE until the slice has answered; below 2^20 and in the windows of
TCM and of the scratchpads they have no effect; at any other address from 2^57 on they trap `ACCESS` with kind 1. -/
def Claims.SliceOperations : Prop := ∀ (a : WReg) (s : State), s.Quiet →
  (2 ^ 20 ≤ (s.w a).toNat → (s.w a).toNat < 2 ^ 57 →
    exec (.cinv a) s = .next (s.awaitingAck (.slice (s.w a).toNat true)) ∧
    exec (.cflush a) s = .next (s.awaitingAck (.slice (s.w a).toNat false))) ∧
  ((s.w a).toNat < 2 ^ 20 ∨ inWindow (s.w a).toNat →
    exec (.cinv a) s = .next (s.advance s.me.ws) ∧ exec (.cflush a) s = .next (s.advance s.me.ws)) ∧
  (2 ^ 57 ≤ (s.w a).toNat → ¬ inWindow (s.w a).toNat →
    exec (.cinv a) s = .next (s.takeTrap ⟨.access, s.w a, BitVec.ofNat 64 (2 ^ 32), 0, 0, 0⟩ s.me.pc false 0) ∧
    exec (.cflush a) s = .next (s.takeTrap ⟨.access, s.w a, BitVec.ofNat 64 (2 ^ 32), 0, 0, 0⟩ s.me.pc false 0))

namespace Sys2Proof.Machine

/-! ### Traps and returns -/

/-- The strand with a trap record written and everything that trap entry ends gone (R42, R44, R140). -/
def Strand.trapped (t : Strand) (cause pc val aux : Word) : Strand :=
  { t with longs := [], held := none, replay := none, buf := [], note := 0, ws := (t.setRecord cause pc val aux).ws }

/-- The firing of the current strand can enter its handler: it has one, and runs in user mode (R42). -/
def State.EntersHandler (s : State) (ent : Nat) : Prop :=
  (∃ f, s.me.firing = some f ∧ f.trapEnt = ent) ∧ ent ≠ 0 ∧ s.me.sv = false ∧ s.me.swarm = none

end Sys2Proof.Machine

/-- R42, R43, R44, R156: a trap of any cause but `FP_EXCEPTION` and `WATCHDOG` writes TRAPCAUSE, TRAPPC, TRAPVAL and TRAPAUX, sets
SV, and the strand goes on at TRAPENT with an empty fetch buffer and nothing outstanding but an engine instruction that goes on;
nothing else changes. -/
def Claims.TrapEntry : Prop := ∀ (s : State) (tr : Trap) (pc ent slot : Nat) (law : Bool),
  s.EntersHandler ent → tr.cause ≠ .fpException → tr.cause ≠ .watchdog →
  s.takeTrap tr pc law slot = s.setMe
    { (s.me.trapped (tr.causeWord law slot) (BitVec.ofNat 64 pc) tr.val tr.aux).setSv true with
      pc := ent, run := .issuing, shadow := if s.shadowBusy then s.me.shadow else none }

/-- R142, R42: `TRAP` takes the cause `SOFTWARE` with its immediate in TRAPVAL and the register in TRAPAUX. -/
def Claims.TrapInstruction : Prop := ∀ (n : BitVec 12) (a : WReg) (s : State) (ent : Nat),
  s.Quiet → s.EntersHandler ent →
  exec (.trap n a) s = .next (s.setMe
    { (s.me.trapped 0x1B (BitVec.ofNat 64 s.me.pc) (n.setWidth 64) (s.w a)).setSv true with pc := ent, run := .issuing })

/-- R42, R367: without a handler, or in supervisor mode already, a trap escalates: ESC is set beside the record, SV is set,
the strand waits for the drover, and a fault message of kind 0 with the record goes out; memory stays. -/
def Claims.Escalation : Prop := ∀ (s : State) (tr : Trap) (pc slot : Nat) (law : Bool),
  s.me.swarm = none → tr.cause ≠ .fpException → tr.cause ≠ .watchdog →
  (s.me.sv = true ∨ ∃ f, s.me.firing = some f ∧ f.trapEnt = 0) →
  ∃ t, s.takeTrap tr pc law slot = t ∧ t.me.run = .awaiting 0 none ∧ t.me.sv = true ∧ t.mem = s.mem ∧
    t.me.ws[58] = setBit (tr.causeWord law slot) 16 true ∧ t.me.ws[59] = BitVec.ofNat 64 pc ∧ t.me.ws[60] = tr.val ∧
    t.me.ws[61] = tr.aux ∧
    (t.hiveAt s.hive).faults = faultMessage 0 s.curCell s.me.slotNo s.curStrand t.me.record t.me.status
        (((s.jobOf s.curCell).map fun j => j.2.step).getD 0) :: (s.hiveAt s.hive).faults

/-- R96, R143: `RTT` outside the handler of `WATCHDOG` returns to user mode at TRAPPC with an empty fetch buffer; the
record stays. With LAW 1 the word at TRAPPC is re-executed alone and the words of the window that had retired are passed. -/
def Claims.ReturnFromTrap : Prop := ∀ (s : State), s.me.sv = true → s.me.inWdog = false →
  exec .rtt s = .next (s.setMe { s.me.setSv false with
    pc := (s.me.dw 59).toNat % 2 ^ 19, buf := [], run := .issuing
    replay := some (if (s.me.dw 58).getLsbD 12 then
        ⟨((s.me.dw 59).toNat % 2 ^ 19 + 4 * ((s.me.dw 58).toNat / 256 % 16 + 1)) % 2 ^ 19, true, (s.me.dw 58).toNat / 256 % 16⟩
      else ⟨(s.me.dw 59).toNat % 2 ^ 19 + 4, false, 0⟩) })

/-- R175: a trap in a member breaks the swarm: the leader leaves it with the record of `SWARM_BROKEN`, whose TRAPPC is the
instruction's, whose TRAPVAL is the member's cause and whose MEMBER and TRAPAUX are its index; every follower's strand is free. In
a swarm of two the follower's record stands in its workspace, which is the model's reading of which workspace that is (log
entry 21); that its late results are dropped and its advanced pointers stay is the model's choice (log entry 46). -/
def Claims.SwarmBreaks : Prop := ∀ (s : State) (w : SwarmInfo) (tr : Trap) (pc ent slot : Nat) (law : Bool) (f : Firing),
  s.me.swarm = some w → s.me.swm = true → (w.leaderCell, w.leaderStrand) ∈ w.members →
  (s.strandAt w.leaderCell w.leaderStrand).firing = some f → f.trapEnt = ent → ent ≠ 0 →
  (s.strandAt w.leaderCell w.leaderStrand).sv = false → tr.eng < 8 →
  ∃ t, s.takeTrap tr pc law slot = t ∧
    (t.strandAt w.leaderCell w.leaderStrand).swarm = none ∧ (t.strandAt w.leaderCell w.leaderStrand).pc = ent ∧
    (t.strandAt w.leaderCell w.leaderStrand).sv = true ∧ (t.strandAt w.leaderCell w.leaderStrand).swm = false ∧
    (t.strandAt w.leaderCell w.leaderStrand).ws[58].toNat % 64 = 0x18 ∧
    (t.strandAt w.leaderCell w.leaderStrand).ws[60] = BitVec.ofNat 64 tr.cause.code ∧
    (t.strandAt w.leaderCell w.leaderStrand).ws[61] = BitVec.ofNat 64 s.me.swix ∧
    (t.strandAt w.leaderCell w.leaderStrand).ws[59] = BitVec.ofNat 64 pc ∧
    (t.strandAt w.leaderCell w.leaderStrand).ws[58].toNat / 2 ^ 48 % 16 = s.me.swix % 16 ∧
    (∀ m ∈ w.members, m ≠ (w.leaderCell, w.leaderStrand) → (t.strandAt m.1 m.2).run = .free) ∧
    ∀ (g : CellId) (k : StrandId) (r : Strand), w.members = [(w.leaderCell, w.leaderStrand), (g, k)] →
      (g, k) ≠ (w.leaderCell, w.leaderStrand) → s.strandAt g k = r → Memory.wf s.mem = true →
      t.read (tcmBase g + r.wp + 8 * 59) 8 = pc % 2 ^ 64 ∧ t.read (tcmBase g + r.wp + 8 * 60) 8 = tr.cause.code ∧
      t.read (tcmBase g + r.wp + 8 * 61) 8 = s.me.swix ∧
      ∀ n : Fin 64, n.val < 58 ∨ 61 < n.val → t.read (tcmBase g + r.wp + 8 * n.val) 8 = r.ws[n].toNat

namespace Sys2Proof.Machine

/-! ### Firings and swarms -/

/-- The workspace lies below the slot table (R27). -/
def State.WsBelowTable (s : State) : Prop := s.me.wp + 512 ≤ 0x7F000

/-- A firing of an ordinary actor (R50, R307). -/
def State.OrdinaryFiring (s : State) (f : Firing) : Prop := s.me.firing = some f ∧ f.task = false ∧ f.slot < 64

/-- DONE of the hardware's list of what has ended: an ended strand (R230, R307). -/
def State.Ended (s t : State) (f : Firing) : Prop :=
  t.me.run = .leaving ∧ t.me.firing = none ∧ f.pool ∉ t.cell.poolUsed ∧
  t.slotHead s.curCell f.slot = (f.head + f.rate) % 2 ^ 32 ∧ t.slotTail s.curCell f.slot = s.slotTail s.curCell f.slot ∧
  Instr.strandFree s.curCell s.curStrand ∈ t.pending ∧ Instr.inputAdvance s.curCell f.slot ∈ t.pending ∧
  ∀ k : Fin 64, (k.val < 40 ∨ 43 < k.val) →
    t.read (tcmBase s.curCell + s.me.wp + 8 * k.val) 8 = s.me.ws[k].toNat

end Sys2Proof.Machine

/-- R230, R307: `DONE`, once everything of the firing has drained, and `DONE.nw` at once, end a firing outside a swarm: the
registers go back to the workspace, the head of the ring passes the RATE inputs, and the strand leaves. -/
def Claims.FiringEnds : Prop := ∀ (s : State) (f : Firing), s.OrdinaryFiring f → s.me.swarm = none →
  s.WsBelowTable → Memory.wf s.mem = true →
  (∃ t, exec .doneNw s = .next t ∧ s.Ended t f) ∧
  (s.drained = true → ∃ t, exec .done s = .next t ∧ s.Ended t f) ∧
  (s.drained = false → exec .done s = .next s)

/-- R249, R357: `FOLD`, once everything of the firing has drained, folds the strand and a gather of its job goes on its way;
the registers stay. Until then it waits. -/
def Claims.FoldWaits : Prop := ∀ (s : State) (n : Nat), s.cell.job = some n →
  (s.drained = true → ∃ t, exec .fold s = .next t ∧ t.me.run = .folded ∧ t.me.ws = s.me.ws ∧ t.me.pc = s.me.pc ∧
    t.mem = s.mem ∧ Instr.foldGather n ∈ t.pending) ∧
  (s.drained = false → exec .fold s = .next s)

/-- R35, R229, R316: `YIELD` loads DEADLINE with its budget (DEFDL where it names none) and LEFT with 64 times it, and the
strand goes on when the scheduler has no candidate to prefer. -/
def Claims.YieldGoesOn : Prop := ∀ (n : BitVec 12) (s : State) (f : Firing), s.Quiet → s.engineBusy = false →
  s.me.firing = some f → s.me.inWdog = false → (s.setMe (s.me.reload n)).switches = false →
  exec (.yield n) s = .next (s.advance (s.me.ws.set 54
    (ylimit (if n = 0 then f.defdl else n.toNat) ((if n = 0 then f.defdl else n.toNat) * 64))))

/-- R229, R310: where a candidate is preferred, `YIELD` in user mode outside a swarm switches the firing out: PC after it in
doubleword 49, the registers in the workspace, the strand leaving. -/
def Claims.YieldSwitches : Prop := ∀ (n : BitVec 12) (s : State) (f : Firing), s.Quiet → s.engineBusy = false →
  s.me.firing = some f → s.me.sv = false → s.me.swm = false → (s.setMe (s.me.reload n)).switches = true →
  s.me.pc + 4 < 2 ^ 19 → Memory.wf s.mem = true →
  ∃ t, exec (.yield n) s = .next t ∧ t.me.run = .leaving ∧ t.me.firing = none ∧
    t.cell.switched = s.cell.switched ++ [⟨f, s.me.wp, s.now⟩] ∧
    t.read (tcmBase s.curCell + s.me.wp + 8 * 49) 8 = s.me.pc + 4 ∧
    ∀ k : Fin 64, k.val ∉ [49, 54] → t.read (tcmBase s.curCell + s.me.wp + 8 * k.val) 8 = s.me.ws[k].toNat

/-- R171: `SWARM` in user mode outside a swarm, in a cell whose number in its comb is a multiple of the size and whose
follower cells pass the checks, parks the leader, and every follower cell is asked for a strand. -/
def Claims.SwarmAsks : Prop := ∀ (n : SwarmSize) (s : State), s.me.sv = false → s.me.swm = false →
  inComb s.curCell % n.cells = 0 → s.firstBad n = none →
  ∃ t, exec (.swarm n) s = .next t ∧ t.me.run = .parked (.swarm n) ∧ t.me.ws = s.me.ws ∧ t.mem = s.mem ∧
    t.me.swarm = some ⟨s.curCell, s.curStrand, [(s.curCell, s.curStrand)], n⟩ ∧
    ∀ i, 0 < i → i < n.cells → ⟨s.curCell, s.curStrand, i⟩ ∈ (t.cellAt (s.curCell + i)).claims

/-- R171: the checks of `SWARM` come before anything is asked: supervisor mode or a swarm traps `ILLEGAL_INSTRUCTION`, a
cell whose number in its comb is no multiple of the size traps `ACCESS` with the cell in TRAPVAL. -/
def Claims.SwarmChecks : Prop := ∀ (n : SwarmSize) (s : State), s.Quiet →
  ((s.me.sv || s.me.swm) = true →
    exec (.swarm n) s = .next (s.takeTrap ⟨.illegalInstruction, s.instrWord (.swarm n), 0, 0, 0, 0⟩ s.me.pc false 0)) ∧
  ((s.me.sv || s.me.swm) = false → inComb s.curCell % n.cells ≠ 0 →
    exec (.swarm n) s = .next (s.takeTrap ⟨.access, s.cellid s.curCell, 0, 0, 0, 0⟩ s.me.pc false 0))

/-- R176: `UNSWARM` outside a swarm only moves on; in the leader, once every member has drained, the FFLAGS of the followers are
ORed into the leader's, the swarm fields of STATUS are cleared, the leader goes on alone, and the followers' strands are free. In a
swarm of two the follower's registers stand in its workspace (log entry 21). -/
def Claims.SwarmEnds : Prop := ∀ (s : State), s.Quiet →
  (s.me.swarm = none → exec .unswarm s = .next (s.advance s.me.ws)) ∧
  (∀ w, s.me.swarm = some w → w.leaderCell = s.curCell → w.leaderStrand = s.curStrand → s.membersDrained w = true →
    ∃ t, exec .unswarm s = .next t ∧ t.me.swarm = none ∧ t.me.swm = false ∧ t.me.pc = s.me.pc + 4 ∧ t.me.run = .issuing ∧
      t.me.status.toNat = s.me.status.toNat % 2 ^ 6 ∧
      t.me.fflags = (w.members.filter (· != (w.leaderCell, w.leaderStrand))).foldl
        (fun fl m => fl ||| (s.strandAt m.1 m.2).fflags) s.me.fflags ∧
      (∀ m ∈ w.members, m ≠ (w.leaderCell, w.leaderStrand) → (t.strandAt m.1 m.2).run = .free) ∧
      ∀ (g : CellId) (k : StrandId) (r : Strand), w.members = [(w.leaderCell, w.leaderStrand), (g, k)] →
        (g, k) ≠ (w.leaderCell, w.leaderStrand) → s.strandAt g k = r → Memory.wf s.mem = true →
        ∀ n : Fin 64, t.read (tcmBase g + r.wp + 8 * n.val) 8 = r.ws[n].toNat)

namespace Sys2Proof.Machine

/-! ### Events, messages, tasks -/

/-- The event that `EVSEND` sends (R19, R65, R221). -/
def State.eventOf (s : State) (e : EdgeRoute) (d : CellId) (sl : Nat) (index count scale : Word) : Input where
  dst := d
  slot := sl
  kind := .event
  net := .ev
  w1 := index.setWidth 32 |>.setWidth 64
  w2 := count
  w3 := BitVec.ofNat 64 (scale.toNat % 16 + e.cls.code * 2 ^ 4 + (scale.getLsbD 6).toNat * 2 ^ 6 + e.edge % 256 * 2 ^ 8)
  w4 := if e.cls = .add then 0 else
    BitVec.ofNat 64 (lcidOf s.curCell + hiveOf s.curCell * 2 ^ 12 + s.me.slotNo * 2 ^ 18 +
      ((look (s.cell.slotDyn s.me.slotNo).seqno e.edge).getD 0) * 2 ^ 24)
  src := s.curCell
  srcSlot := s.me.slotNo
  seq := (look (s.cell.slotDyn s.me.slotNo).seqno e.edge).getD 0
  cls := e.cls
  edge := e.edge
  charged := true
  pathLo := 0
  pathHi := 0
  depth := 0
  link := 0
  hostTag := none

/-- Where a new input is set going (R225, R352). -/
def arrivalOf (i : Input) : Instr :=
  if i.kind = .event ∧ i.cls = .sorted then .sortedEventAbsorb i else .inputArrival i

/-- An input of the current strand is on its way: its happening is set going, its cell has sent one more (R357). -/
def State.Sent (s t : State) (i : Input) : Prop :=
  t.pending = s.pending ++ [arrivalOf i] ∧ t.mem = s.mem ∧
  look (t.hiveAt s.hive).sent s.curCell = some ((look (s.hiveAt s.hive).sent s.curCell).getD 0 + 1)

end Sys2Proof.Machine

/-- R19, R36, R65, R221 (log entry 25: that bits 15:8 of w3 hold the production edge is the model's reading): `EVSEND` on an edge of its slot with a count in range and an allowance takes a unit of ALLOW.EV,
sends the event with the words of R19 to the consumer of its index, counts the edge's sequence number up where the class has
one, and clears CF. -/
def Claims.EventSent : Prop :=
  ∀ (d a b : WReg) (n : Fin 256) (s : State) (e : EdgeRoute) (g : CellId) (sl : Nat), s.Quiet → s.me.isFollower = false →
  s.route s.curCell s.me.slotNo n.val = some e → e.consumer ((s.w a).toNat % 2 ^ 32) = some (g, sl) →
  countFits (s.w b) (s.w d) = true → (s.me.dchk = true → e.cls = .seq → e.producer = (s.curCell, s.me.slotNo)) →
  0 < s.cell.allowEv →
  ∃ t, exec (.evsend d a b n) s = .next t ∧ s.Sent t (s.eventOf e g sl (s.w a) (s.w b) (s.w d)) ∧
    t.cell.allowEv = s.cell.allowEv - 1 ∧ t.me.ws = withCf s.me.ws false ∧ t.me.pc = s.me.pc + 4 ∧
    (e.cls ≠ .add → look (t.cell.slotDyn s.me.slotNo).seqno e.edge =
      some (((look (s.cell.slotDyn s.me.slotNo).seqno e.edge).getD 0 + 1) % 2 ^ 40))

/-- R221, R36: with ALLOW.EV at zero `EVSEND` sends nothing and sets CF; an edge that is not the slot's traps `ACCESS` with
the edge in TRAPVAL. -/
def Claims.EventNotSent : Prop := ∀ (d a b : WReg) (n : Fin 256) (s : State), s.Quiet → s.me.isFollower = false →
  (∀ e, s.route s.curCell s.me.slotNo n.val = some e → countFits (s.w b) (s.w d) = true → s.me.dchk = false →
    s.cell.allowEv = 0 → exec (.evsend d a b n) s = .next (s.advance (withCf s.me.ws true))) ∧
  (s.route s.curCell s.me.slotNo n.val = none → exec (.evsend d a b n) s =
    .next (s.takeTrap ⟨.access, BitVec.ofNat 64 n.val, 0, 0, 0, 0⟩ s.me.pc false 0))

/-- R222, R223, R224, R34: `EVPOP` takes the next reserved input into `w1`-`w4` and clears CF, or sets CF when all RATE are
taken; `EVCNT` writes EVCOUNT and CF; `MBW` writes a message word. -/
def Claims.InputsRead : Prop := ∀ (s : State) (f : Firing), s.Quiet → s.me.swm = false → s.me.firing = some f →
  (f.taken < f.rate → s.rangeMarked (tcmBase s.curCell + f.input f.taken) 32 = false →
    s.cell.meetsZeroing (f.input f.taken) 32 = false →
    ∃ t, exec .evpop s = .next t ∧ t.me.firing = some { f with taken := f.taken + 1 } ∧ t.mem = s.mem ∧
      t.me.cf = false ∧ t.me.pc = s.me.pc + 4 ∧
      ∀ k : Fin 64, k ≠ 50 → t.me.ws[k] = if 1 ≤ k.val ∧ k.val ≤ 4 then
          BitVec.ofNat 64 (s.read (tcmBase s.curCell + f.input f.taken + 8 * (k.val - 1)) 8)
        else s.me.ws[k]) ∧
  (f.rate ≤ f.taken → exec .evpop s = .next (s.advance (withCf s.me.ws true))) ∧
  (∀ d, exec (.evcnt d) s = .next (s.advance (withCf (s.me.wrote d (BitVec.ofNat 64 (s.evcount % 2 ^ 32)))
    (decide (f.rate ≤ s.evcount))))) ∧
  (∀ (n : Fin 8) (a : WReg) (_ : n.val < 5), exec (.mbw n a) s =
    .next (s.advance (s.me.ws.set (44 + n.val) (s.w a))))

/-- R23, R225, R349: `SENDM` and `SENDM.t` of a message whose words are in order and whose network has an allowance send it
and clear CF; with none left `SENDM` sets CF and `SENDM.t` traps `SEND_FULL` with `m0` and the network. -/
def Claims.MessageSent : Prop := ∀ (i : Instr) (s : State), s.Quiet → i = .sendm ∨ i = .sendmT →
  s.messageCheck i (s.me.m 0) = .ok () → s.me.dchk = false →
  ((s.me.message s.curCell true).net = .rp →
    ∃ t, exec i s = .next t ∧ s.Sent t (s.me.message s.curCell false) ∧ t.me.ws = withCf s.me.ws false ∧
      t.me.pc = s.me.pc + 4) ∧
  ((s.me.message s.curCell true).net ≠ .rp → 0 < s.cell.allow (s.me.message s.curCell true).net →
    ∃ t, exec i s = .next t ∧ s.Sent t (s.me.message s.curCell true) ∧ t.me.ws = withCf s.me.ws false ∧
      t.me.pc = s.me.pc + 4 ∧ t.cell.allow (s.me.message s.curCell true).net =
        s.cell.allow (s.me.message s.curCell true).net - 1) ∧
  ((s.me.message s.curCell true).net ≠ .rp → s.cell.allow (s.me.message s.curCell true).net = 0 →
    exec i s = .next (if i = .sendm then s.advance (withCf s.me.ws true)
      else s.takeTrap ⟨.sendFull, s.me.m 0, BitVec.ofNat 64 (s.me.message s.curCell true).net.code, 0, 0, 0⟩ s.me.pc false 0))

/-- R226: `WAITM` takes the oldest mailbox entry of its slot into `wd`; without one the strand parks. -/
def Claims.MailTaken : Prop := ∀ (d : WReg) (s : State), s.Quiet → s.me.swm = false →
  (∀ v, s.cell.mailbox.find? (fun v => mailSlot v == s.me.slotNo) = some v →
    ∃ t, exec (.waitm d) s = .next t ∧ t.me.ws = s.me.wrote d v ∧ t.me.pc = s.me.pc + 4 ∧
      t.cell.mailbox = s.cell.mailbox.erase v ∧ t.mem = s.mem) ∧
  (s.cell.mailbox.find? (fun v => mailSlot v == s.me.slotNo) = none →
    exec (.waitm d) s = .next (s.setMe { s.me with run := .parked (.waitm d), since := s.now, note := 0 }))

/-- R227, R318, R319: `FORK` that passes its checks, with an allowance, sends a fork request with `m1`-`m4`, the child's path
and its join link, reserves the join-buffer entry of the spawn index and counts the spawn. -/
def Claims.TaskForked : Prop := ∀ (a : WReg) (n : Fin 64) (s : State) (f : Firing) (p : List CellId), s.Quiet →
  s.me.swm = false → s.me.firing = some f → s.forkCheck a n f = .ok p → 0 < s.cell.allowRq →
  ∃ t i, exec (.fork a n) s = .next t ∧ s.Sent t i ∧ t.me.ws = s.me.ws ∧ t.me.pc = s.me.pc + 4 ∧
    t.cell.allowRq = s.cell.allowRq - 1 ∧ t.me.firing = some { f with spawned := f.spawned + 1 } ∧
    i.kind = .task ∧ i.net = .rq ∧ i.slot = n.val ∧ i.depth = s.me.pdepth + 1 ∧
    (i.w1, i.w2, i.w3, i.w4) = (s.me.m 1, s.me.m 2, s.me.m 3, s.me.m 4) ∧
    (i.pathLo, i.pathHi) = childPath (s.me.dw 56) (s.me.dw 57) s.me.pdepth ((s.w a).toNat % 2 ^ 16) ∧
    some i.dst = (forkCell p i.pathLo i.pathHi i.depth) ∧
    (((look t.cell.joins f.pool).map fun j => j.entries).getD []) =
      (((look s.cell.joins f.pool).map fun j => j.entries).getD []) ++ [(f.spawned % 16, none)]

/-- R228: `JOIN` without an unjoined child writes 0x10 and sets CF; when the child with the lowest unjoined spawn index has
returned it stores the four return words at the address in `wa`, writes the status to `wd` and clears CF; otherwise it parks. -/
def Claims.TaskJoined : Prop := ∀ (d a : WReg) (s : State) (f : Firing), s.Quiet → s.me.swm = false →
  s.me.firing = some f → s.localCheck (.join d a) (s.w a).toNat 32 8 1 = .ok () →
  (f.outstanding = 0 → exec (.join d a) s = .next (s.advance (withCf (s.me.wrote d 0x10) true))) ∧
  (∀ r, f.outstanding ≠ 0 → s.me.dchk = false →
    look (((look s.cell.joins f.pool).getD ⟨0, []⟩).entries) (f.joined % 16) = some (some r) → Memory.wf s.mem = true →
    s.rangeWaits (s.w a).toNat 4 = false →
    ∃ t, exec (.join d a) s = .next t ∧ t.me.ws = withCf (s.me.wrote d r.status) false ∧ t.me.pc = s.me.pc + 4 ∧
      t.me.firing = some { f with joined := f.joined + 1 } ∧
      (∀ k : Fin 4, t.read (tcmBase s.curCell + ownAddr s.curCell (s.w a).toNat + 8 * k.val) 8 =
        s.storedTcm s.curCell (ownAddr s.curCell (s.w a).toNat + 8 * k.val) 8 ([r.r1, r.r2, r.r3, r.r4][k]).toNat) ∧
      ∀ b, b < tcmBase s.curCell + ownAddr s.curCell (s.w a).toNat ∨
        tcmBase s.curCell + ownAddr s.curCell (s.w a).toNat + 32 ≤ b → t.byte b = s.byte b) ∧
  (f.outstanding ≠ 0 → look (((look s.cell.joins f.pool).getD ⟨0, []⟩).entries) (f.joined % 16) = some none →
    exec (.join d a) s = .next (s.setMe { s.me with run := .parked (.join d a), since := s.now, note := 0 }))

/-- R306, R225, R346-R349: an input that its slot accepts, with nothing of the slot waiting and room in the ring, is written
at the tail, the tail moves by one, and the input counts as absorbed. -/
def Claims.InputEnters : Prop := ∀ (s : State) (i : Input),
  (s.cellAt i.dst).fenced = false → s.arrivalFails i false = false →
  (s.hiveAt (hiveOf i.dst)).waitingFor i.dst i.slot = [] → (s.hiveAt (hiveOf i.dst)).blocked i = false →
  s.ringFull i.dst i.slot = false → s.arrivalWaits i = false →
  s.slotQbase i.dst i.slot + 32 * 2 ^ s.slotQlog i.dst i.slot ≤ 0x7F000 → i.slot < 64 → Memory.wf s.mem = true →
  ∃ t, exec (.inputArrival i) s = .next t ∧
    (∀ k : Fin 4, t.read (s.ringAddr i.dst i.slot (s.slotTail i.dst i.slot) + 8 * k.val) 8 =
      ([i.w1, i.w2, i.w3, i.w4][k]).toNat) ∧
    t.slotTail i.dst i.slot = (s.slotTail i.dst i.slot + 1) % 2 ^ 32 ∧ t.slotHead i.dst i.slot = s.slotHead i.dst i.slot ∧
    look (t.hiveAt (hiveOf i.dst)).absorbed i.dst = some ((look (s.hiveAt (hiveOf i.dst)).absorbed i.dst).getD 0 + 1) ∧
    (i.charged = true → Instr.allowanceReturn i.src i.net ∈ t.pending)

/-- R225, R367: an input that fails its arrival checks is reported with a message of kind 2 and no byte of memory changes. -/
def Claims.InputRefused : Prop := ∀ (s : State) (i : Input),
  i.dst < 2 ^ 18 → i.slot < 64 → (s.cellAt i.dst).fenced = false → s.arrivalFails i false = true →
  ∃ t m, exec (.inputArrival i) s = .next t ∧ t.mem = s.mem ∧
    (t.hiveAt (hiveOf i.dst)).faults = m :: (s.hiveAt (hiveOf i.dst)).faults ∧
    (m.head?.map fun w => w.toNat / 2 ^ 60) = some 2

/-- R306, R348, R352, R349, R319, R49: what waits moves on: the oldest waiting input enters its ring as soon as it has room, a
`SORTED` event enters the sorted store, an allowance unit comes back, a child's return enters its join-buffer entry, and a
waiting completion enters the mailbox. -/
def Claims.WaitingMoves : Prop :=
  (∀ (s : State) (g : CellId) (n : Nat) (i : Input) (r : List Waiting),
    (s.hiveAt (hiveOf g)).waitingFor g n = ⟨.spill, .input i⟩ :: r → s.ringFull g n = false → s.ringZeroing g n = false →
    (s.cellAt g).fenced = false →
    exec (.inputAdvance g n) s = .next (((s.setHive (hiveOf g)
      ((s.hiveAt (hiveOf g)).without ⟨.spill, .input i⟩)).ringPut i).nudge (hiveOf g))) ∧
  (∀ (s : State) (i : Input), (s.hiveAt (hiveOf i.dst)).sorted.length < 1048576 →
    exec (.sortedEventAbsorb i) s = .next ((s.setHive (hiveOf i.dst)
      { s.hiveAt (hiveOf i.dst) with sorted := (s.hiveAt (hiveOf i.dst)).sorted ++ [i] }).absorbed i)) ∧
  (∀ (s : State) (g : CellId) (n : Net), n ≠ .rp →
    ∃ t, exec (.allowanceReturn g n) s = .next t ∧ (t.cellAt g).allow n = (s.cellAt g).allow n + 1 ∧ t.mem = s.mem) ∧
  (∀ (s : State) (r : TaskReturn), ((look (s.cellAt r.parent).joins r.buffer).getD ⟨0, []⟩).gen = r.gen →
    look ((look (s.cellAt r.parent).joins r.buffer).getD ⟨0, []⟩).entries r.spawn = some none →
    ∃ t, exec (.taskReturnArrival r) s = .next t ∧ t.mem = s.mem ∧
      (((look (t.cellAt r.parent).joins r.buffer).map fun j => look j.entries r.spawn) = some (some (some r)))) ∧
  (∀ (s : State) (g : CellId) (st : Stage) (v : Word) (r : List Waiting),
    (s.hiveAt (hiveOf g)).waiting = ⟨st, .mail g v⟩ :: r → (s.cellAt g).mailbox.length < 32 →
    ∃ t, exec (.mailboxSpillEnter g) s = .next t ∧ (t.cellAt g).mailbox = (s.cellAt g).mailbox ++ [v] ∧
      (t.hiveAt (hiveOf g)).waiting = r)

/-! ### Barriers -/

namespace Sys2Proof.Machine

/-- R238 as a table: the cell of the unit, the barrier and what is added to PEND. -/
def arriveRule (s : State) : Instr → Option (Except Trap CellId × Fin 8 × Option Word)
  | .arrive b => some (.ok s.curCell, b, none)
  | .arriveRemote b a => some (s.arriveTarget (s.w a), b, none)
  | .arriveb b wb => some (.ok s.curCell, b, some (s.w wb))
  | .arrivebRemote b wb a => some (s.arriveTarget (s.w a), b, some (s.w wb))
  | _ => none

end Sys2Proof.Machine

/-- R238: an arrival at a unit that is enabled and counts the cell sets out once every earlier access is performed. That the
strand stays at it until the unit has counted it is the model's choice (log entry 35). -/
def Claims.ArrivalSetsOut : Prop := ∀ (i : Instr) (s : State) (d : CellId) (b : Fin 8) (add : Option Word), s.Quiet →
  arriveRule s i = some (.ok d, b, add) → s.fenced .comb = true → s.arriveCheck d b = .ok () →
  exec i s = .next ((s.setMe { s.me with run := .parked i, since := s.now, note := 0 }).push
    (.barrierArrival ⟨d, b, s.curCell, s.curStrand, add, s.now⟩))

/-- R48, R236, R238: the first arrival of a cell in a phase is counted in CUR and ACUR with its addition to PEND; when CUR
then is TARGET and PEND is 0 the phase turns over: PHASE flips, CUR takes NXT and ACUR takes ANXT. The arriving strand goes
on, and a strand of the unit's cell whose `WAITB` is over with that goes on. -/
def Claims.ArrivalCounts : Prop := ∀ (s : State) (a : Arrival) (u : Barrier),
  (s.strandAt a.src a.strand).arrivesAs a = true → (s.cellAt a.unitCell).fenced = false →
  (s.cellAt a.unitCell).bars[a.bar] = u →
  u.acur.getLsbD (inComb a.src) = false → (s.strandAt a.src a.strand).longs = [] →
  (s.strandAt a.src a.strand).shadow = none → (s.strandAt a.src a.strand).held = none →
  (s.strandAt a.src a.strand).replay = none →
  ∃ t, exec (.barrierArrival a) s = .next t ∧ t.mem = s.mem ∧
    (t.strandAt a.src a.strand).pc = (s.strandAt a.src a.strand).pc + 4 ∧
    (t.strandAt a.src a.strand).run = .issuing ∧ (t.strandAt a.src a.strand).ws = (s.strandAt a.src a.strand).ws ∧
    ((t.cellAt a.unitCell).bars[a.bar]).pend = u.pend + a.add.getD 0 ∧
    (u.en = true → u.cur + 1 = u.target → u.pend + a.add.getD 0 = 0 →
      ((t.cellAt a.unitCell).bars[a.bar]).phase = !u.phase ∧ ((t.cellAt a.unitCell).bars[a.bar]).cur = u.nxt ∧
      ((t.cellAt a.unitCell).bars[a.bar]).acur = u.anxt ∧ ((t.cellAt a.unitCell).bars[a.bar]).nxt = 0) ∧
    (u.en = false ∨ u.cur + 1 ≠ u.target ∨ u.pend + a.add.getD 0 ≠ 0 →
      ((t.cellAt a.unitCell).bars[a.bar]).phase = u.phase ∧ ((t.cellAt a.unitCell).bars[a.bar]).cur = u.cur + 1 ∧
      ((t.cellAt a.unitCell).bars[a.bar]).acur = u.acur ||| (1 <<< inComb a.src)) ∧
    ∀ k : StrandId, (s.strandAt a.unitCell k).run = .parked (.waitb a.bar) →
      t.waitOver a.unitCell a.bar (s.strandAt a.unitCell k).note = true →
      (t.strandAt a.unitCell k).note = waitMet ∧ Instr.parkedStrandResume a.unitCell k ∈ t.pending

/-- R238, R48, R44: a second arrival of a cell in a phase is counted for the next one, in NXT and ANXT, and its strand goes on; where
its addition to PEND completes the phase that turns over with it. A third one traps `BARRIER_OVERRUN` in the arriving strand, with
the unit's cell and number in TRAPVAL and PHASE in TRAPAUX, and changes no unit. -/
def Claims.ArrivalsAgain : Prop := ∀ (s : State) (a : Arrival) (u : Barrier) (t0 : Strand),
  s.strandAt a.src a.strand = t0 → t0.arrivesAs a = true → (s.cellAt a.unitCell).fenced = false →
  (s.cellAt a.unitCell).bars[a.bar] = u → u.acur.getLsbD (inComb a.src) = true →
  t0.longs = [] → t0.shadow = none → t0.held = none → t0.replay = none →
  (u.anxt.getLsbD (inComb a.src) = false →
    ∃ t w, exec (.barrierArrival a) s = .next t ∧ t.mem = s.mem ∧ (t.strandAt a.src a.strand).pc = t0.pc + 4 ∧
      (t.strandAt a.src a.strand).run = .issuing ∧ (t.strandAt a.src a.strand).ws = t0.ws ∧
      (t.cellAt a.unitCell).bars[a.bar] = w ∧ w.pend = u.pend + a.add.getD 0 ∧
      (u.en = true → u.cur = u.target → w.pend = 0 →
        w.phase = (!u.phase) ∧ w.cur = u.nxt + 1 ∧ w.acur = u.anxt ||| (1 <<< inComb a.src) ∧ w.nxt = 0 ∧ w.anxt = 0) ∧
      (u.en = false ∨ u.cur ≠ u.target ∨ w.pend ≠ 0 →
        w.phase = u.phase ∧ w.cur = u.cur ∧ w.acur = u.acur ∧ w.nxt = u.nxt + 1 ∧ w.anxt = u.anxt ||| (1 <<< inComb a.src))) ∧
  ∀ f, u.anxt.getLsbD (inComb a.src) = true → t0.firing = some f → f.trapEnt ≠ 0 → t0.sv = false → t0.swarm = none →
    ∃ t v, exec (.barrierArrival a) s = .next t ∧ t.mem = s.mem ∧ (t.cellAt a.unitCell).bars = (s.cellAt a.unitCell).bars ∧
      t.strandAt a.src a.strand = v ∧ v.pc = f.trapEnt ∧ v.sv = true ∧ v.ws[58].toNat % 64 = 0x0D ∧
      v.ws[59] = BitVec.ofNat 64 t0.pc ∧ v.ws[60] = BitVec.ofNat 64 (lcidOf a.unitCell + a.bar.val * 2 ^ 12) ∧
      v.ws[61] = (if u.phase then 1 else 0)

/-- R239 (log entry 64: what such a trap names is the model's choice): `WAITB` and `WAITBT` of an enabled unit go on at once when the wait is over (`WAITBT` clears CF), and park
otherwise, `WAITBT` with its expiry set going; a unit that is not enabled traps `ACCESS` with its control word. -/
def Claims.BarrierWaits : Prop := ∀ (b : Fin 8) (a : WReg) (s : State) (u : Barrier), s.Quiet → s.cell.bars[b] = u →
  (u.en = true → s.waitOver s.curCell b u.completions = true →
    exec (.waitb b) s = .next (s.advance s.me.ws) ∧ exec (.waitbt b a) s = .next (s.advance (withCf s.me.ws false))) ∧
  (u.en = true → s.waitOver s.curCell b u.completions = false →
    exec (.waitb b) s = .next (s.setMe { s.me with run := .parked (.waitb b), since := s.now, note := u.completions }) ∧
    exec (.waitbt b a) s = .next ((s.setMe { s.me with
      run := .parked (.waitbt b a), since := s.now, note := u.completions }).push (.waitbtExpiry s.curCell s.curStrand))) ∧
  (u.en = false → exec (.waitb b) s = .next (s.takeTrap (accessTrap u.control 0) s.me.pc false 0) ∧
    exec (.waitbt b a) s = .next (s.takeTrap (accessTrap u.control 0) s.me.pc false 0))

/-- R239: when the cycles that a `WAITBT` allows have passed it goes on, with CF set unless its unit has ended the wait by
then. -/
def Claims.BarrierExpiry : Prop := ∀ (s : State) (g : CellId) (k : StrandId) (b : Fin 8) (a : WReg) (t : Strand),
  s.strandAt g k = t → t.run = .parked (.waitbt b a) → t.since + (t.w a).toNat % 2 ^ 32 ≤ s.now →
  t.longs = [] → t.shadow = none → t.held = none → t.replay = none →
  exec (.waitbtExpiry g k) s = .next (s.setStrand g k { t with
    run := .issuing, pc := t.pc + 4, ws := withCf t.ws (t.note != waitMet) })

/-- R48, R236, R237: `BCFG.set` takes EN, TARGET, MASK and PEND from three doublewords, clears CUR, NXT and the cells counted in
either phase, and keeps PHASE; `BCFG.get` stores the unit's three doublewords and changes no other byte. -/
def Claims.BarrierConfigured : Prop := ∀ (b : Fin 8) (a : WReg) (s : State), s.Quiet → Memory.wf s.mem = true →
  s.rangeWaits (s.w a).toNat 3 = false →
  (s.localCheck (.bcfgSet b a) (s.w a).toNat 24 8 0 = .ok () → s.marks = [] →
    let at_ := tcmBase s.curCell + ownAddr s.curCell (s.w a).toNat
    let ctl := BitVec.ofNat 64 (s.read at_ 8)
    let m := BitVec.ofNat 16 (s.read (at_ + 8) 2)
    bcfgBad ctl m = false →
    ∃ t, exec (.bcfgSet b a) s = .next t ∧ t.mem = s.mem ∧ t.me.ws = s.me.ws ∧ t.me.pc = s.me.pc + 4 ∧
      (t.cell.bars[b]).en = ctl.getLsbD 17 ∧ (t.cell.bars[b]).target = ctl.toNat / 2 ^ 11 % 64 ∧
      (t.cell.bars[b]).mask = m ∧ (t.cell.bars[b]).pend = BitVec.ofNat 64 (s.read (at_ + 16) 8) ∧
      (t.cell.bars[b]).cur = 0 ∧ (t.cell.bars[b]).nxt = 0 ∧ (t.cell.bars[b]).acur = 0 ∧ (t.cell.bars[b]).anxt = 0 ∧
      (t.cell.bars[b]).phase = (s.cell.bars[b]).phase) ∧
  (s.localCheck (.bcfgGet b a) (s.w a).toNat 24 8 1 = .ok () →
    let at_ := tcmBase s.curCell + ownAddr s.curCell (s.w a).toNat
    ∃ t, exec (.bcfgGet b a) s = .next t ∧ t.me.ws = s.me.ws ∧ t.me.pc = s.me.pc + 4 ∧
      (∀ k : Fin 3, t.read (at_ + 8 * k.val) 8 = s.storedTcm s.curCell (ownAddr s.curCell (s.w a).toNat + 8 * k.val) 8
        ([(s.cell.bars[b]).control, (s.cell.bars[b]).masks, (s.cell.bars[b]).pend][k]).toNat) ∧
      ∀ c, c < at_ ∨ at_ + 24 ≤ c → t.byte c = s.byte c)

/-! ### Pages -/

/-- R53, R240: `CQRY` writes the page's state word, and changes nothing else. -/
def Claims.PageQueried : Prop := ∀ (d a : WReg) (s : State) (p : Page), s.Quiet →
  s.misses s.curCell (s.w a).toNat = false → s.pageOf (s.w a).toNat 0 = .ok p →
  exec (.cqry d a) s = .next (s.advance (s.me.wrote d p.word))

/-- R52, R240, R260: `CPASS` by the allowed issuer, once its accesses are performed in the hive, hands a live or shadowed page to
another cell at once, records a request for the open for a frozen or landing one, and only moves on where the issuer names itself;
`FREEZE` and `LAND` by the allowed issuer record a request for the open, which a later request of the same cell replaces. Memory
and registers stay. That LAST names the new holder at once is the model's reading (log entry 33). -/
def Claims.PageChanges : Prop := ∀ (s : State) (n : Nat) (j : Job) (p : Page) (a : WReg), s.Quiet →
  s.jobOf s.curCell = some (n, j) → s.misses s.curCell (s.w a).toNat = false → s.pageOf (s.w a).toNat 1 = .ok p →
  p.issuer s.curCell = true →
  (∀ b : WReg, (s.w b).toNat < 2 ^ 12 → s.cellExists (hiveOf s.curCell * 4096 + (s.w b).toNat) = true →
    s.fenced .hive = true → s.cell.storesTo p = false → (s.w b).toNat ≠ lcidOf s.curCell →
    p.state = .live ∨ p.state = .shadowed →
    exec (.cpass a b) s = .next ((s.setJob n (j.setPage { p with holder := (s.w b).toNat, last := (s.w b).toNat })).advance
      s.me.ws)) ∧
  (∀ b : WReg, (s.w b).toNat < 2 ^ 12 → s.cellExists (hiveOf s.curCell * 4096 + (s.w b).toNat) = true →
    s.fenced .hive = true → s.cell.storesTo p = false →
    ((s.w b).toNat = lcidOf s.curCell → exec (.cpass a b) s = .next (s.advance s.me.ws)) ∧
    ((s.w b).toNat ≠ lcidOf s.curCell → p.state = .frozen ∨ p.state = .landing →
      ((p.request.map fun q => q.by_) = none ∨ (p.request.map fun q => q.by_) = some (lcidOf s.curCell)) →
      exec (.cpass a b) s = .next ((s.setJob n (j.setPage { p with
        request := some ⟨.live, p.rule, (s.w b).toNat, lcidOf s.curCell⟩ })).advance s.me.ws))) ∧
  ((p.request.map fun q => q.by_) = none ∨ (p.request.map fun q => q.by_) = some (lcidOf s.curCell) →
    (p.state = .shadowed → p.dirty = false) →
    exec (.freeze a) s = .next ((s.setJob n (j.setPage { p with
      request := some ⟨.frozen, p.rule, 0, lcidOf s.curCell⟩ })).advance s.me.ws) ∧
    ∀ r : Rule, (inReductionRange (s.w a).toNat && Rule.notReducing r) = false →
      exec (.land r a) s = .next ((s.setJob n (j.setPage { p with
        request := some ⟨.landing, r, 0, lcidOf s.curCell⟩ })).advance s.me.ws))

/-- R241, R261: `PUBLISH` by the holder of a shadowed page, once its accesses are performed, moves on with no byte left in the
shadow that differs from the published copy, and the page no longer counts as written. -/
def Claims.PagePublished : Prop := ∀ (a : WReg) (s : State) (n : Nat) (j : Job) (p : Page), s.Quiet →
  s.jobOf s.curCell = some (n, j) → s.misses s.curCell (s.w a).toNat = false → s.pageOf (s.w a).toNat 1 = .ok p →
  p.state = .shadowed → p.heldBy s.curCell = true → s.fenced .hive = true → s.engineBusy = false →
  ∃ t, exec (.publish a) s = .next t ∧ t.me.ws = s.me.ws ∧ t.me.pc = s.me.pc + 4 ∧
    t.shadowOf n (hiveOf s.curCell) p = [] ∧
    (∃ j', t.jobAt n = some j' ∧ ∀ q ∈ j'.pages, q.base = p.base → q.homes = p.homes → q.dirty = false)

/-- R240, R44: `CPASS`, `FREEZE` and `LAND` of a page by a cell that is not its allowed issuer, `PUBLISH` of one that is not
shadowed or not the issuer's, and a request beside another cell's trap `CROOK`; `FREEZE` and `LAND` of a shadowed page that has
been written since its last `PUBLISH` trap `PUBLISH_CONFLICT` with the page's address. Nothing is recorded. -/
def Claims.PageRefused : Prop := ∀ (a : WReg) (s : State) (p : Page), s.Quiet →
  s.misses s.curCell (s.w a).toNat = false → s.pageOf (s.w a).toNat 1 = .ok p →
  let crook := s.takeTrap (crookTrap (s.w a).toNat p) s.me.pc false 0
  let fits := fun r : Rule => (inReductionRange (s.w a).toNat && Rule.notReducing r) = false
  let names := fun b : WReg => (s.w b).toNat < 2 ^ 12 ∧ s.cellExists (hiveOf s.curCell * 4096 + (s.w b).toNat) = true
  (p.issuer s.curCell = false → exec (.freeze a) s = .next crook ∧ (∀ r, fits r → exec (.land r a) s = .next crook) ∧
    ∀ b, names b → exec (.cpass a b) s = .next crook) ∧
  (p.state ≠ .shadowed ∨ p.heldBy s.curCell = false → exec (.publish a) s = .next crook) ∧
  (p.issuer s.curCell = true → p.state = .shadowed → p.dirty = true →
    let conflict := s.takeTrap ⟨.publishConflict, BitVec.ofNat 64 p.base, 0, 0, 0, 0⟩ s.me.pc false 0
    exec (.freeze a) s = .next conflict ∧ ∀ r, fits r → exec (.land r a) s = .next conflict) ∧
  ∀ q, p.issuer s.curCell = true → p.request = some q → q.by_ ≠ lcidOf s.curCell → (p.state = .shadowed → p.dirty = false) →
    exec (.freeze a) s = .next crook ∧ (∀ r, fits r → exec (.land r a) s = .next crook) ∧
    ∀ b, names b → s.fenced .hive = true → s.cell.storesTo p = false → (s.w b).toNat ≠ lcidOf s.curCell →
      p.state = .frozen ∨ p.state = .landing → exec (.cpass a b) s = .next crook

/-! ### Engines: issue -/

namespace Sys2Proof.Machine

/-- The pointer words that a V instruction reads at issue, with the form of each operand (R146, R157). -/
def vecPtrs (t : Strand) (i : Instr) : List (Word × Operand) :=
  (i.ptrArgs.map fun p => t.p p.reg).zip (vecOperands t.vl i)

end Sys2Proof.Machine

/-- R146, R147, R151, R153: every V instruction (`VADD` to `VFINDB`) whose pointers pass the checks enters the VU's queue with
its pointer words and VL as read at issue, advances the pointers of its `pN+` forms, and the strand goes on in its shadow. -/
def Claims.VectorIssues : Prop := ∀ (i : Instr) (s : State), s.Quiet → i.isVec = true →
  checkPtrs (vecPtrs s.me i) = .ok () → s.queueFull .vu = false →
  exec i s = .next (s.queued .vu i [] (i.ptrArgs.map fun p => s.me.p p.reg)
    (s.me.advance (i.ptrArgs.zip (vecOperands s.me.vl i))))

/-- R206-R208, R210, R212, R177, R181: `CDMAC`, `CDMACV`, `MMA`, `ZCLR` and `ZCVT` that pass their checks enter the SCE's
queue with their registers as read at issue. -/
def Claims.MultiplyIssues : Prop := ∀ (s : State) (d a b : WReg), s.Quiet → s.queueFull .sce = false →
  (∀ i q, (∃ f bn, i = Instr.cdmac f bn d a b) ∨ (∃ f bn, i = Instr.cdmacv f bn d a b) ∨
      (∃ fa f bn, i = Instr.mma fa f bn d a b) → multiplyOf i (s.w d) (s.w a) (s.w b) = some q → q.bad (s.w d) = false →
    exec i s = .next (s.queued .sce i [s.w d, s.w a, s.w b] [] s.me)) ∧
  ((s.w a).toNat < 16384 → (s.w b).toNat / 2 ^ 15 % 2 ^ 48 = 0 → (s.w a).toNat + zclrCount (s.w b) ≤ 16384 →
    exec (.zclr a b) s = .next (s.queued .sce (.zclr a b) [s.w a, s.w b] [] s.me)) ∧
  (∀ f rm sat, zcvtBad (s.w a) = false → (s.w b).toNat < 2 ^ 7 →
    (1 < elemHalf f / 2 → (s.w d).toNat % (elemHalf f / 2) = 0) →
    (s.w d).toNat + fifoBytes (zcvtCount (s.w a)) (elemBits f) ≤ 0x7F000 →
    exec (.zcvt f rm sat d a b) s = .next (s.queued .sce (.zcvt f rm sat d a b) [s.w d, s.w a, s.w b] [] s.me))

/-- R214, R215, R216: `SDCFG`, `SDSCAN` and `SDFLUSH` of a channel below 8 whose operands pass their checks enter the SDU's
queue. -/
def Claims.DeltaIssues : Prop := ∀ (s : State) (a b : WReg), s.Quiet → s.queueFull .sdu = false → (s.w a).toNat < 8 →
  ((s.w b).toNat % 64 = 0 → (s.w b).toNat + 1088 ≤ 0x7F000 →
    exec (.sdcfg a b) s = .next (s.queued .sdu (.sdcfg a b) [s.w a, s.w b] [] s.me)) ∧
  ((s.w b).toNat < 2 ^ 31 → (s.w b).toNat / 2 ^ 14 % 4 = 0 →
    exec (.sdscan a b) s = .next (s.queued .sdu (.sdscan a b) [s.w a, s.w b] [] s.me)) ∧
  exec (.sdflush a) s = .next (s.queued .sdu (.sdflush a) [s.w a, 0] [] s.me)

/-- R182, R183: `PUSH` and `PUSHX` that pass the checks of R183 enter the forager's queue. -/
def Claims.CopyIssues : Prop := ∀ (s : State) (d a b : WReg) (bar : Option (Fin 8)), s.Quiet →
  s.queueFull .forager = false →
  (s.copyCheck false (s.w a) (s.w b) (s.w d) = .ok () →
    exec (.push d a b bar) s = .next (s.queued .forager (.push d a b bar) [s.w d, s.w a, s.w b] [] s.me)) ∧
  (s.copyCheck true (s.w a) (s.w b) (s.w d) = .ok () →
    exec (.pushx d a b bar) s = .next (s.queued .forager (.pushx d a b bar) [s.w d, s.w a, s.w b] [] s.me))

/-- R211, R47: `ZLD` of an accumulator writes it to `wd` and its ZOV to CF; `ZST` writes the accumulator, clears its ZOV, and
changes no other byte of memory. -/
def Claims.AccumulatorAccess : Prop := ∀ (s : State) (d a b : WReg), s.Quiet → s.zWaits = false →
  (s.w a).toNat < 16384 → Memory.wf s.mem = true →
  (s.marked (zAddr s.curCell (s.w a).toNat) = false →
    exec (.zld d a) s = .next (s.advance (withCf (s.me.wrote d (BitVec.ofNat 64 (s.read (zAddr s.curCell (s.w a).toNat) 8)))
      (s.zovAt s.curCell (s.w a).toNat)))) ∧
  ∃ t, exec (.zst a b) s = .next t ∧ t.me.ws = s.me.ws ∧ t.me.pc = s.me.pc + 4 ∧
    t.read (zAddr s.curCell (s.w a).toNat) 8 = (s.w b).toNat ∧ t.zovAt s.curCell (s.w a).toNat = false ∧
    ∀ c, c < zAddr s.curCell (s.w a).toNat ∨ zAddr s.curCell (s.w a).toNat + 8 ≤ c → t.byte c = s.byte c

/-- R177, R184, R202, R210, R325, R332: every engine starts the entries of its queue in order. The VU, the SCE and the SDU start
the oldest when none of their queue has started, and its retirement is set going; of the SCE a multiply waits for its operand bytes
and `ZCLR` with FLUSHF empties the FIFOs as it starts. The forager, when it is idle, starts the oldest entry that has not started: the
retirement of a frame instruction is set going, a `PUSH` begins to move its blocks, and a `PUSHX` goes to its source cell. -/
def Claims.EngineStarts : Prop := ∀ (s : State) (g : CellId) (e : Eng) (en : EngEntry) (l r : List EngEntry),
  (s.cellAt g).queue e = l ++ en :: r → (∀ x ∈ l, x.started = true) → en.started = false →
  let c := (s.cellAt g).markStarted e en.id
  (e = .vu ∨ e = .sdu → l = [] → (∀ x ∈ r, x.started = false) →
    exec (.engineInstructionStart g e) s = .next ((s.setCell g c).push (.engineInstructionRetire g e))) ∧
  (e = .sce → l = [] → (∀ x ∈ r, x.started = false) →
    ((s.cellAt g).operandsPresent en = false → exec (.engineInstructionStart g e) s =
      .next (s.stillPending (.engineInstructionStart g e))) ∧
    ((s.cellAt g).operandsPresent en = true → exec (.engineInstructionStart g e) s =
      .next ((s.setCell g (if (∃ a b, en.instr = .zclr a b) ∧ (en.reg 1).getLsbD 63 = true then { c with fifoA := [], fifoB := [] }
        else c)).push (.engineInstructionRetire g e)))) ∧
  (e = .forager → s.foragerIdle g = true →
    (en.instr.isCopy = false → (∀ n a, en.instr ≠ .fact n a) → exec (.engineInstructionStart g e) s =
      .next ((s.setCell g c).push (.engineInstructionRetire g e))) ∧
    (∀ d a b bar, en.instr = .push d a b bar → s.sourceClosed g (ownAddr g (en.reg 1).toNat) (copyLen (en.reg 2)) = none →
      ownAddr g (en.reg 1).toNat < 0x80000 →
      ∃ t x, exec (.engineInstructionStart g e) s = .next t ∧ t.mem = s.mem ∧ t.copies = s.copies ++ [x] ∧ x.entry = en.id ∧
        x.issuer = g ∧ x.reader = g ∧ x.src = ownAddr g (en.reg 1).toNat ∧ x.len = copyLen (en.reg 2) ∧ x.pos = 0 ∧
        x.stage = .moving ∧ Instr.copyBlockWrite x.id ∈ t.pending) ∧
    ∀ d a b bar h o, en.instr = .pushx d a b bar → s.windowCell (hiveOf g) (en.reg 1).toNat = some (h, o) →
      ∃ t x, exec (.engineInstructionStart g e) s = .next t ∧ t.mem = s.mem ∧ t.copies = s.copies ++ [x] ∧ x.entry = en.id ∧
        x.issuer = g ∧ x.reader = h ∧ x.len = copyLen (en.reg 2) ∧ x.pos = 0 ∧ x.stage = .forwarded ∧
        Instr.pushxProxyEntry x.id ∈ t.pending)

namespace Sys2Proof.Machine

/-- The element-wise instructions with two sources of the format of D: the format and the value of an element (R158). -/
def lanewise : Instr → Option (Fmt × (Nat → Nat → Nat × Flags))
  | .vadd f rm sat .. => some (f, fun a b => vecAdd f rm sat a b 0)
  | .vsub f rm sat .. => some (f, fun a b => vecSub f rm sat a b 0)
  | .vmul f rm sat .. => some (f, fun a b => vecMul f rm sat a b 0)
  | .vmin f .. => some (f, vecMinMax f false)
  | .vmax f .. => some (f, vecMinMax f true)
  | .vand f .. => some (f, fun a b => (a &&& b, 0))
  | .vor f .. => some (f, fun a b => (a ||| b, 0))
  | .vxor f .. => some (f, fun a b => (a ^^^ b, 0))
  | .vshl f .. => some (f, fun a b => (a <<< (b % intWidth f) % 2 ^ intWidth f, 0))
  | .vshr f .. => some (f, fun a b => (vecShr f a b, 0))
  | _ => none

/-- An entry that is alone in its queue, started, with none of its elements performed, with no earlier access to the Z array
and no bank being zeroed before it, its strand in its shadow and nothing else outstanding there. -/
def State.Performing (s : State) (g : CellId) (e : Eng) (en : EngEntry) : Prop :=
  (s.cellAt g).queue e = [en] ∧ en.started = true ∧ (s.cellAt g).zHeld en = false ∧ (s.cellAt g).zeroing = false ∧
  en.done = 0 ∧ en.flags = 0 ∧ en.late = none ∧
  (∃ f, (s.strandAt g en.strand).firing = some f ∧ f.fid = en.fid) ∧
  (∃ sh, (s.strandAt g en.strand).shadow = some sh ∧ sh.entry = en.id) ∧
  (s.strandAt g en.strand).longs = [] ∧ (s.strandAt g en.strand).held = none

/-- Engines may read and write the cell's TCM below bank W, and nothing there is uncorrectable (R16, R148). -/
def State.TcmOpen (s : State) (g : CellId) : Prop :=
  s.marks = [] ∧ ∀ a n, a + n ≤ 0x60000 → (s.cellAt g).closed a n = false

/-- A contiguous operand of n elements of e bytes below bank W (R21). -/
def contiguous (p : Word) (n e : Nat) : Prop := ptrMode p = 0 ∧ ptrAddr p + n * e ≤ 0x60000

/-- Two ranges of TCM have no byte in common. -/
def apart (p q : Word) (n e : Nat) : Prop := ptrAddr p + n * e ≤ ptrAddr q ∨ ptrAddr q + n * e ≤ ptrAddr p

/-- Element k of an operand of a cell, of e bytes. -/
def State.element (s : State) (g : CellId) (p : Word) (e k : Nat) : Nat := s.read (tcmBase g + ptrAddr p + k * e) e

end Sys2Proof.Machine

/-- R148, R149, R151, R158, R80: when the VU performs an element-wise instruction on contiguous operands that do not overlap
its destination, with no flag enabled, every element of D takes the value of its sources, no other byte of memory changes,
the flags of all elements are ORed into FFLAGS, the entry leaves the queue and the shadow ends. -/
def Claims.VectorElementwise : Prop :=
  ∀ (s : State) (g : CellId) (en : EngEntry) (f : Fmt) (op : Nat → Nat → Nat × Flags) (pd pa pb : Word) (e : Nat),
  s.Performing g .vu en → lanewise en.instr = some (f, op) → elemHalf f = 2 * e → 0 < e → en.ptrs = [pd, pa, pb] →
  en.st = 0 → en.fen = 0 → s.TcmOpen g → contiguous pd en.vl e → contiguous pa en.vl e → contiguous pb en.vl e →
  apart pd pa en.vl e → apart pd pb en.vl e → Memory.wf s.mem = true →
  ∃ t, exec (.engineInstructionRetire g .vu) s = .next t ∧
    (∀ k, k < en.vl → t.element g pd e k = (op (s.element g pa e k) (s.element g pb e k)).1 % 256 ^ e) ∧
    (∀ a, a < tcmBase g + ptrAddr pd ∨ tcmBase g + ptrAddr pd + en.vl * e ≤ a → t.byte a = s.byte a) ∧
    (t.strandAt g en.strand).ws = ((s.strandAt g en.strand).raiseFlags ((List.range en.vl).foldl
      (fun fl k => fl ||| (op (s.element g pa e k) (s.element g pb e k)).2) 0)).ws ∧
    (t.cellAt g).vuQ = [] ∧ (t.strandAt g en.strand).shadow = none

namespace Sys2Proof.Machine

/-- Bytes of an element, of the formats of whole bytes (R59, R60). -/
def vecBytes (f : Fmt) : Nat := elemHalf f / 2

/-- R159-R170 on one element: where D lies, its bytes, its value and the flags, from what the pointers name. -/
def State.singleRule (s : State) (g : CellId) (en : EngEntry) : Option (Nat × Nat × Nat × Flags) :=
  let d := ptrAddr (en.ptr 0)
  let a := fun e => s.read (tcmBase g + ptrAddr (en.ptr 1)) e
  let b := fun e => s.read (tcmBase g + ptrAddr (en.ptr 2)) e
  match en.instr with
  | .vma f rm sat .. => some (d, vecBytes f, vecMa f rm sat (a (vecBytes f)) (b (vecBytes f)) (s.read (tcmBase g + d) (vecBytes f)))
  | .vcmp p f .. => some (d, 1, (vecPred p f (a (vecBytes f)) (b (vecBytes f))).1.toNat,
      (vecPred p f (a (vecBytes f)) (b (vecBytes f))).2)
  | .vsel f .. => some (d, vecBytes f,
      if s.read (tcmBase g + ptrAddr (en.ptr 3)) 1 % 2 = 1 then a (vecBytes f) else b (vecBytes f), 0)
  | .vcvt fd fs rm sat .. => some (d, vecBytes fd, convert fd fs rm sat (a (vecBytes fs)))
  | .vred _ f .. | .vscan _ f .. => some (d, vecBytes (accFmt f), accConvert f (a (vecBytes f)))
  | .vdot f rm .. => some (d, vecBytes (accFmt f), accProduct f rm (a (vecBytes f)) (b (vecBytes f)))
  | .vperm f .. => some (d, vecBytes f, if b 4 = 0 then a (vecBytes f) else 0, 0)
  | .vgath f .. => some (d, vecBytes f,
      s.read (tcmBase g + baseOffset (en.ptr 1) (vecBytes f) (b 4)) (vecBytes f), 0)
  | .vscat f .. => some (baseOffset (en.ptr 0) (vecBytes f) (b 4), vecBytes f, a (vecBytes f), 0)
  | .vfill f .. | .vcopy f .. => some (d, vecBytes f, a (vecBytes f), 0)
  | .vclmul f .. => some (d, 2 * vecBytes f, clmul (a (vecBytes f)) (b (vecBytes f)) (8 * vecBytes f), 0)
  | .vhash f .. => some (d, vecBytes f, vecHash f (a (vecBytes f) ^^^ b (vecBytes f)), 0)
  | .vcmpb .. => some (d, 8, if a 1 = b 1 then 1 else if a 1 < b 1 then 2 ^ 32 else 2 * 2 ^ 32, 0)
  | .vfindb .. => some (d, 8, if a 1 = b 1 then 0 else 1, 0)
  | _ => none

/-- The format of the sources of an entry has whole bytes. -/
def wholeBytes (i : Instr) : Bool :=
  match i with
  | .vcvt fd fs .. => elemHalf fd != 1 && elemHalf fs != 1
  | .vma f .. | .vcmp _ f .. | .vsel f .. | .vred _ f .. | .vscan _ f .. | .vdot f .. | .vperm f .. | .vgath f ..
  | .vscat f .. | .vfill f .. | .vcopy f .. | .vclmul f .. | .vhash f .. => elemHalf f != 1
  | _ => true

end Sys2Proof.Machine

/-- R148, R149, R151, R159-R170, R80: when the VU performs any other V instruction on one element of contiguous operands with
no flag enabled, D takes its value, no other byte of memory changes, the flags are ORed into FFLAGS, the entry leaves the queue
and the shadow ends. -/
def Claims.VectorSingle : Prop :=
  ∀ (s : State) (g : CellId) (en : EngEntry) (d n v : Nat) (fl : Flags),
  s.Performing g .vu en → en.instr.wf = true → wholeBytes en.instr = true → en.vl = 1 → en.st = 0 → en.fen = 0 →
  s.TcmOpen g → en.ptrs.length = en.instr.ptrArgs.length → (∀ p ∈ en.ptrs, contiguous p 1 16) →
  s.singleRule g en = some (d, n, v, fl) → d + 16 ≤ 0x60000 →
  (∀ f a b c, en.instr = .vgath f a b c →
    baseOffset (en.ptr 1) (vecBytes f) (s.read (tcmBase g + ptrAddr (en.ptr 2)) 4) + 16 ≤ 0x60000) →
  Memory.wf s.mem = true →
  ∃ t, exec (.engineInstructionRetire g .vu) s = .next t ∧ t.read (tcmBase g + d) n = v % 256 ^ n ∧
    (∀ a, a < tcmBase g + d ∨ tcmBase g + d + n ≤ a → t.byte a = s.byte a) ∧
    (t.strandAt g en.strand).ws = ((s.strandAt g en.strand).raiseFlags fl).ws ∧
    (t.cellAt g).vuQ = [] ∧ (t.strandAt g en.strand).shadow = none

namespace Sys2Proof.Machine

/-! ### Vector instructions element by element -/

/-- The TCM of a cell as the VU sees it, by local address. -/
def State.tcmOf (s : State) (g : CellId) : Nat → Byte := fun a => s.byte (tcmBase g + a)

/-- Address of element k of an operand of `half` half bytes: R21, and R146 for the packed formats of 4 bits. -/
def elemAt (p : Word) (half k : Nat) : Nat :=
  let addr := p.toNat % 2 ^ 19
  let mode := p.toNat / 2 ^ 58 % 4
  let d : Int := if mode = 0 then (half / 2 : Nat) else (BitVec.ofNat 20 (p.toNat / 2 ^ 20)).toInt
  let size := 2 ^ (p.toNat / 2 ^ 60 % 16 + 6)
  if half = 1 then (addr + k / 2) % 2 ^ 19
  else if mode = 2 then addr / size * size + (((addr % size : Nat) + k * d : Int) % (size : Nat)).toNat
  else ((addr + k * d : Int) % (2 ^ 19 : Nat)).toNat

/-- The little-endian number of n bytes (R8). -/
def numAt (m : Nat → Byte) (a n : Nat) : Nat := ofBytes ((List.range n).map fun i => m (a + i))

/-- Element k of an operand: whole bytes, or the nibble of R60. -/
def elemIn (m : Nat → Byte) (p : Word) (half k : Nat) : Nat :=
  if half = 1 then numAt m (elemAt p 1 k) 1 / 16 ^ (k % 2) % 16 else numAt m (elemAt p half k) (half / 2)

/-- A destination: its first byte, the bits of it that are passed over, how many bits are written, and their value. -/
structure Dest where
  at_ : Nat
  shift : Nat
  bits : Nat
  value : Nat

/-- Element k of an operand as a destination. -/
def destOf (p : Word) (half k v : Nat) : Dest :=
  if half = 1 then ⟨elemAt p 1 k, 4 * (k % 2), 4, v⟩ else ⟨elemAt p half k, 0, 4 * half, v⟩

/-- The memory with a destination written, and nothing else. -/
def written (m : Nat → Byte) (d : Dest) : Nat → Byte := fun a =>
  if d.bits % 8 = 0 then
    if d.at_ ≤ a ∧ a < d.at_ + d.bits / 8 then BitVec.ofNat 8 (d.value / 256 ^ (a - d.at_)) else m a
  else if a = d.at_ then BitVec.ofNat 8 ((m a).toNat % 2 ^ d.shift + d.value % 2 ^ d.bits * 2 ^ d.shift +
    (m a).toNat / 2 ^ (d.shift + d.bits) * 2 ^ (d.shift + d.bits))
  else m a

/-- Where a run of a V instruction stands: memory, flags raised, the carry of a scan, and the element whose flags trapped. -/
structure VecRun where
  mem : Nat → Byte
  flags : Flags
  carry : Option Nat
  trap : Option Nat

/-- What one element does: what it reads (address and bytes), what it writes, its flags, and the carry. -/
structure VecElem where
  reads : List (Nat × Nat)
  dests : List Dest
  flags : Flags
  carry : Option Nat

/-- Everything that an element reads and writes lies below bank W. -/
def VecElem.inside (e : VecElem) : Bool :=
  (e.reads.all fun x => decide (x.1 + x.2 ≤ 0x60000)) && e.dests.all fun d => decide (d.at_ + max 1 (d.bits / 8) ≤ 0x60000)

/-- n elements from k on, one at a time in ascending order, each reading before it writes (R149); an element that raises an
enabled flag ends the run unwritten (R80). None where an element reaches bank W. -/
def vecRuns (f : VecRun → Nat → VecElem) (fen : Flags) : Nat → Nat → VecRun → Option VecRun
  | 0, _, r => some r
  | n + 1, k, r =>
    let e := f r k
    if e.inside = false then none
    else if e.flags &&& fen ≠ 0 then some { r with flags := r.flags ||| e.flags, trap := some k }
    else vecRuns f fen n (k + 1) ⟨e.dests.foldl written r.mem, r.flags ||| e.flags, e.carry, none⟩

/-- R158-R161, R164-R169: what element k of an instruction does, from the memory as the earlier elements have left it and, for
the operands that `VFILL` and `VHASH` read once, as it was before. `p` gives the pointer words D, A, B, M. -/
def vecElem (i : Instr) (p : Nat → Word) (vl : Nat) (first : Nat → Byte) (r : VecRun) (k : Nat) : VecElem :=
  let src := fun n half => elemIn r.mem (p n) half k
  let rd := fun n half j => (elemAt (p n) half j, max 1 (half / 2))
  let flat := fun (l : List (Nat × Nat)) (half : Nat) (x : Nat × Flags) => (⟨l, [destOf (p 0) half k x.1], x.2, none⟩ : VecElem)
  match i with
  | .vma f rm sat .. => flat [rd 1 (elemHalf f) k, rd 2 (elemHalf f) k, rd 0 (elemHalf f) k] (elemHalf f)
      (vecMa f rm sat (src 1 (elemHalf f)) (src 2 (elemHalf f)) (src 0 (elemHalf f)))
  | .vcmp q f .. =>
    let x := vecPred q f (src 1 (elemHalf f)) (src 2 (elemHalf f))
    ⟨[rd 1 (elemHalf f) k, rd 2 (elemHalf f) k],
      [⟨elemAt (p 0) 2 (k / 8), k % 8, if k + 1 = vl then 8 - k % 8 else 1, x.1.toNat⟩], x.2, none⟩
  | .vsel f .. => flat [rd 1 (elemHalf f) k, rd 2 (elemHalf f) k, rd 3 2 (k / 8)] (elemHalf f)
      (if (elemIn r.mem (p 3) 2 (k / 8)).testBit (k % 8) then src 1 (elemHalf f) else src 2 (elemHalf f), 0)
  | .vcvt fd fs rm sat .. => flat [rd 1 (elemHalf fs) k] (elemHalf fd) (convert fd fs rm sat (src 1 (elemHalf fs)))
  | .vscan o f rm .. =>
    let x := accConvert f (src 1 (elemHalf f))
    let c := match r.carry with
      | none => x
      | some c => ((accOp o (accFmt f) rm c x.1).1, x.2 ||| (accOp o (accFmt f) rm c x.1).2)
    ⟨[rd 1 (elemHalf f) k], [destOf (p 0) (elemHalf (accFmt f)) k c.1], c.2, some c.1⟩
  | .vperm f .. =>
    let j := src 2 8
    flat (rd 2 8 k :: if j < vl then [rd 1 (elemHalf f) j] else []) (elemHalf f)
      (if j < vl then elemIn r.mem (p 1) (elemHalf f) j else 0, 0)
  | .vgath f .. =>
    let a := baseOffset (p 1) (elemHalf f / 2) (src 2 8)
    flat [rd 2 8 k, (a, elemHalf f / 2)] (elemHalf f) (numAt r.mem a (elemHalf f / 2), 0)
  | .vscat f .. =>
    ⟨[rd 1 (elemHalf f) k, rd 2 8 k], [⟨baseOffset (p 0) (elemHalf f / 2) (src 2 8), 0, 4 * elemHalf f, src 1 (elemHalf f)⟩], 0, none⟩
  | .vfill f .. => flat [rd 1 (elemHalf f) 0] (elemHalf f) (elemIn first (p 1) (elemHalf f) 0, 0)
  | .vcopy f .. => flat [rd 1 (elemHalf f) k] (elemHalf f) (src 1 (elemHalf f), 0)
  | .vclmul f .. =>
    let x := clmul (src 1 (elemHalf f)) (src 2 (elemHalf f)) (4 * elemHalf f)
    ⟨[rd 1 (elemHalf f) k, rd 2 (elemHalf f) k],
      if f = .int64 then [destOf (p 0) 16 (2 * k) x, destOf (p 0) 16 (2 * k + 1) (x / 2 ^ 64)] else [destOf (p 0) 16 k x], 0, none⟩
  | .vhash f .. => flat [rd 1 (elemHalf f) k, rd 2 (elemHalf f) 0] (elemHalf f)
      (vecHash f (src 1 (elemHalf f) ^^^ elemIn first (p 2) (elemHalf f) 0), 0)
  | i => match lanewise i with
    | some (f, op) => flat [rd 1 (elemHalf f) k, rd 2 (elemHalf f) k] (elemHalf f) (op (src 1 (elemHalf f)) (src 2 (elemHalf f)))
    | none => ⟨[], [], 0, none⟩

/-- R78, stage 1, from element k on: the lanes and the flags, or the element whose flags trapped. -/
def lanesRule (val : Nat → Nat × Flags) (op : Nat → Nat → Nat × Flags) (fen : Flags) (lanes : Nat) :
    Nat → Nat → List (Option Nat) → Flags → List (Option Nat) × Flags × Option Nat
  | 0, _, l, fl => (l, fl, none)
  | n + 1, k, l, fl =>
    let v := val k
    let x := match (l[k % lanes]?).getD none with
      | none => v
      | some y => ((op y v.1).1, v.2 ||| (op y v.1).2)
    if x.2 &&& fen ≠ 0 then (l, fl ||| x.2, some k)
    else lanesRule val op fen lanes n (k + 1) (l.set (k % lanes) (some x.1)) (fl ||| x.2)

/-- R77: one round of Tree over n nodes, with its flags. -/
def roundRule (op : Nat → Nat → Nat × Flags) (n : Nat) (l : List (Option Nat)) : List (Option (Nat × Flags)) :=
  (List.range (n / 2)).map fun j => match (l[2 * j]?).getD none, (l[2 * j + 1]?).getD none with
    | none, b => b.map fun y => (y, 0)
    | some x, none => some (x, 0)
    | some x, some y => some (op x y)

/-- R77: Tree over 2^n leaves, with the flags of all its combinations. -/
def treeRule (op : Nat → Nat → Nat × Flags) : Nat → List (Option Nat) → Flags → Option Nat × Flags
  | 0, l, fl => ((l[0]?).getD none, fl)
  | n + 1, l, fl =>
    let r := roundRule op (2 ^ (n + 1)) l
    treeRule op n (r.map fun x => x.map Prod.fst) (r.foldl (fun fl x => fl ||| (x.map Prod.snd).getD 0) fl)

/-- R78: the result for VL = 0. -/
def identityRule (f : Fmt) : RedOp → Nat
  | .add | .or | .xor => 0
  | .and => 2 ^ 64 - 1
  | .min => match f with
    | .fp32 => 0x7F800000
    | .fp64 => 0x7FF0000000000000
    | .int64 => 2 ^ 63 - 1
    | _ => 2 ^ 64 - 1
  | .max => match f with
    | .fp32 => 0xFF800000
    | .fp64 => 0xFFF0000000000000
    | .int64 => 2 ^ 63
    | _ => 0

/-- R78, R162, R163: a reduction of the values of the elements in the accumulation format `f`: the result, the flags, and the
element whose flags trapped, VL for those of stage 2. -/
def reduceRule (f : Fmt) (rm : Rm) (o : RedOp) (val : Nat → Nat × Flags) (fen : Flags) (vl : Nat) : Nat × Flags × Option Nat :=
  let lanes := 64 / vecBytes f
  match lanesRule val (accOp o f rm) fen lanes vl 0 (List.replicate lanes none) 0 with
  | (_, fl, some k) => (0, fl, some k)
  | (l, fl, none) =>
    let x := treeRule (accOp o f rm) (if lanes = 16 then 4 else 3) l 0
    (x.1.getD (identityRule f o), fl ||| x.2, if x.2 &&& fen ≠ 0 then some vl else none)

/-- R162, R163, R170: the one result of an instruction, in `half` half bytes, with its flags and its trap. -/
def vecSingle (i : Instr) (p : Nat → Word) (vl : Nat) (fen : Flags) (m : Nat → Byte) : Option (Nat × Nat × Flags × Option Nat) :=
  match i with
  | .vred o f rm .. => some (elemHalf (accFmt f), reduceRule (accFmt f) rm o (fun k => accConvert f (elemIn m (p 1) (elemHalf f) k)) fen vl)
  | .vdot f rm .. => some (elemHalf (accFmt f), reduceRule (accFmt f) rm .add
      (fun k => accProduct f rm (elemIn m (p 1) (elemHalf f) k) (elemIn m (p 2) (elemHalf f) k)) fen vl)
  | .vcmpb .. => some (16, match (List.range vl).find? fun k => elemIn m (p 1) 2 k != elemIn m (p 2) 2 k with
      | none => (vl, 0, none)
      | some j => (j + (if elemIn m (p 1) 2 j < elemIn m (p 2) 2 j then 1 else 2) * 2 ^ 32, 0, none))
  | .vfindb .. => some (16, ((List.range vl).find? fun k => elemIn m (p 1) 2 k == elemIn m (p 2) 2 0).getD vl, 0, none)
  | _ => none

/-- Every element of the sources of such an instruction lies below bank W. -/
def singleInside (i : Instr) (p : Nat → Word) (vl : Nat) : Bool :=
  let inside := fun q half n => (List.range n).all fun k => decide (elemAt q half k + max 1 (half / 2) ≤ 0x60000)
  match i with
  | .vred _ f .. => inside (p 1) (elemHalf f) vl
  | .vdot f .. => inside (p 1) (elemHalf f) vl && inside (p 2) (elemHalf f) vl
  | .vcmpb .. => inside (p 1) 2 vl && inside (p 2) 2 vl
  | .vfindb .. => inside (p 1) 2 vl && inside (p 2) 2 (min vl 1)
  | _ => false

/-- What a V instruction with pointer words `ptrs` and VL does to the TCM of its cell, from element `st` on where it works element by
element; none where it reaches bank W. -/
def vecRule (i : Instr) (ptrs : List Word) (vl st : Nat) (fen : Flags) (m : Nat → Byte) : Option VecRun :=
  let p := fun n => (ptrs[n]?).getD 0
  match vecSingle i p vl fen m with
  | some (half, v, fl, tr) =>
    let d := destOf (p 0) half 0 v
    if singleInside i p vl = false ∨ 0x60000 < d.at_ + half / 2 then none
    else some ⟨if tr = none then written m d else m, fl, none, tr⟩
  | none =>
    -- an operand that is read once is read even where no element is performed (R149); a scan goes on from D(st - 1) (R164)
    let once := match i with
      | .vfill f .. => decide (elemAt (p 1) (elemHalf f) 0 + max 1 (elemHalf f / 2) ≤ 0x60000)
      | .vhash f .. => decide (elemAt (p 2) (elemHalf f) 0 + elemHalf f / 2 ≤ 0x60000)
      | .vscan _ f .. => st = 0 || decide (elemAt (p 0) (elemHalf (accFmt f)) (st - 1) + elemHalf (accFmt f) / 2 ≤ 0x60000)
      | _ => true
    let c := match i with
      | .vscan _ f .. => if st = 0 then none else some (elemIn m (p 0) (elemHalf (accFmt f)) (st - 1))
      | _ => none
    if once then vecRuns (vecElem i p vl m) fen (vl - st) st ⟨m, 0, c, none⟩ else none

/-- The memory of a state is that of another but for the TCM of a cell, which holds `m`. -/
def State.TcmTakes (s t : State) (g : CellId) (m : Nat → Byte) : Prop :=
  (∀ a, a < 2 ^ 19 → t.byte (tcmBase g + a) = m a) ∧ ∀ c, c < tcmBase g ∨ tcmBase g + 2 ^ 19 ≤ c → t.byte c = s.byte c

end Sys2Proof.Machine

/-- R21, R60, R77, R78, R80, R146, R148, R149, R155, R158-R170: what the VU leaves when it performs any V instruction, of any format
it accepts, through pointers of any mode, with any overlap, from the element at which a replay starts: its elements are executed
one at a time in ascending order, or its one result is written after everything has been read. The flags are ORed into FFLAGS;
where an enabled one is raised the element that raised it and those above it are not written, `FP_EXCEPTION` of the VU is taken
with the flags in TRAPVAL and the element in TRAPAUX, and the pointers of the `pN+` forms go back (R154). -/
def Claims.VectorPerforms : Prop :=
  ∀ (s : State) (g : CellId) (en : EngEntry) (r : VecRun), s.Performing g .vu en → en.instr.isVec = true → en.instr.wf = true →
  s.TcmOpen g → Memory.wf s.mem = true → (en.instr.resumable = false → en.st = 0) → en.st ≤ en.vl →
  vecRule en.instr en.ptrs en.vl en.st en.fen (s.tcmOf g) = some r →
  (r.trap = none → ∃ t, exec (.engineInstructionRetire g .vu) s = .next t ∧ s.TcmTakes t g r.mem ∧
    (t.strandAt g en.strand).ws = ((s.strandAt g en.strand).raiseFlags r.flags).ws ∧ (t.cellAt g).vuQ = [] ∧
    (t.strandAt g en.strand).shadow = none) ∧
  ∀ k, r.trap = some k → (s.strandAt g en.strand).swarm = none → (s.strandAt g en.strand).sv = false →
    ∃ t, exec (.engineInstructionRetire g .vu) s = .next t ∧ s.TcmTakes t g r.mem ∧ (t.cellAt g).vuQ = [] ∧
      (t.strandAt g en.strand).fflags = (s.strandAt g en.strand).fflags ||| r.flags ∧
      (t.strandAt g en.strand).ws[58].toNat % 64 = 0x0F ∧ (t.strandAt g en.strand).ws[58].toNat / 2 ^ 13 % 8 = 1 ∧
      (t.strandAt g en.strand).ws[59] = BitVec.ofNat 64 en.pc ∧
      (t.strandAt g en.strand).ws[60] = r.flags.zeroExtend 64 ∧ (t.strandAt g en.strand).ws[61] = BitVec.ofNat 64 k ∧
      (t.strandAt g en.strand).run = .awaiting 1 (some ⟨.fpException, r.flags.zeroExtend 64, BitVec.ofNat 64 k, 1, 0, 0⟩) ∧
      ∀ sh, (s.strandAt g en.strand).shadow = some sh → ∀ p ∈ en.instr.ptrArgs, p.inc = true →
        (t.strandAt g en.strand).p p.reg = sh.ptrs[p.reg]

/-- R210, R181: when the SCE performs `ZCLR` every accumulator it names reads 0 with ZOV clear, and every other byte of memory
stays. -/
def Claims.AccumulatorsCleared : Prop := ∀ (s : State) (g : CellId) (en : EngEntry) (a b : WReg) (i n : Word),
  s.Performing g .sce en → en.instr = .zclr a b → en.regs = [i, n] → i.toNat + n.toNat % 2 ^ 15 ≤ 16384 →
  Memory.wf s.mem = true →
  ∃ t, exec (.engineInstructionRetire g .sce) s = .next t ∧
    (∀ k, k < n.toNat % 2 ^ 15 → t.read (zAddr g (i.toNat + k)) 8 = 0 ∧ t.zovAt g (i.toNat + k) = false) ∧
    ∀ c, c < zAddr g i.toNat ∨ zAddr g (i.toNat + n.toNat % 2 ^ 15) ≤ c → t.byte c = s.byte c

namespace Sys2Proof.Machine

/-! ### Copies and streams -/

/-- The only copy of the machine, and its queue entry. -/
def State.Copying (s : State) (c : Copy) (en : EngEntry) (stage : CopyStage) : Prop :=
  s.copies = [c] ∧ c.stage = stage ∧ c.proxied = false ∧ c.entry = en.id ∧ s.Performing c.issuer .forager en

end Sys2Proof.Machine

/-- R184, R186: a block of a `PUSH` between two ranges of TCM copies up to 64 bytes, in place of what stood at the
destination, and no other byte of memory changes. -/
def Claims.CopyBlock : Prop := ∀ (s : State) (c : Copy) (en : EngEntry) (g : CellId) (off n : Nat),
  s.Copying c en .moving → c.dest = .tcm g off → c.reader = c.issuer → n = min (64 - c.pos % 64) (c.len - c.pos) → 0 < n →
  n % 8 = 0 → c.src + c.len ≤ 0x7F000 → s.destClosed c = false → s.copyHeld c n = false → s.marks = [] → Memory.wf s.mem = true →
  (tcmBase g + off + c.pos + n ≤ tcmBase c.reader + c.src + c.pos ∨
    tcmBase c.reader + c.src + c.pos + n ≤ tcmBase g + off + c.pos) →
  ∃ t, exec (.copyBlockWrite c.id) s = .next t ∧
    (∀ k, k < n → t.byte (tcmBase g + off + c.pos + k) = s.byte (tcmBase c.reader + c.src + c.pos + k)) ∧
    (∀ a, a < tcmBase g + off + c.pos ∨ tcmBase g + off + c.pos + n ≤ a → t.byte a = s.byte a) ∧
    (if c.pos + n = c.len then Instr.copyCompletion c.id ∈ t.pending else Instr.copyBlockWrite c.id ∈ t.pending)

/-- R49, R185, R187: a copy whose bytes are written puts its entry into the mailbox of the destination cell, takes its bytes
off PEND, and then retires: its queue entry frees and the shadow of its strand ends. -/
def Claims.CopyEnds : Prop := ∀ (s : State) (c : Copy) (en : EngEntry) (g : CellId) (off : Nat), c.dest = .tcm g off →
  (s.Copying c en .written → copyNomb c.word = false → c.bar = none → (s.cellAt g).mailbox.length < 32 →
    (∀ x ∈ (s.hiveAt (hiveOf g)).waiting, x.input?.isSome = true ∨ x.dst ≠ g) →
    ∃ t, exec (.copyCompletion c.id) s = .next t ∧ t.mem = s.mem ∧
      (t.cellAt g).mailbox = (s.cellAt g).mailbox ++ [c.entryWord] ∧ Instr.copyRetirement c.id ∈ t.pending) ∧
  (s.Copying c en .completed →
    ∃ t, exec (.copyRetirement c.id) s = .next t ∧ t.mem = s.mem ∧ t.copies = [] ∧ (t.cellAt c.issuer).fgQ = [] ∧
      (t.strandAt c.issuer en.strand).shadow = none)

/-- R37, R184, R325: a forwarded `PUSHX` that the source cell's permission mask allows enters its list of four and begins to
move; one that it does not allow traps `PERMISSION_MASK` with the two cells. -/
def Claims.ProxyEntry : Prop := ∀ (s : State) (c : Copy), s.copies = [c] → c.stage = .forwarded →
  (s.cellAt c.reader).fenced = false → (s.cellAt c.reader).proxies.length < 4 →
  (s.pushAllowed c.reader c.issuer = true → s.sourceClosed c.reader c.src c.len = none →
    ∃ t, exec (.pushxProxyEntry c.id) s = .next t ∧ t.mem = s.mem ∧
      (t.cellAt c.reader).proxies = (s.cellAt c.reader).proxies ++ [c.id] ∧ t.copies = [{ c with stage := .moving }] ∧
      Instr.copyBlockWrite c.id ∈ t.pending) ∧
  (s.pushAllowed c.reader c.issuer = false → exec (.pushxProxyEntry c.id) s = .next (s.copyTrap c
    ⟨.permissionMask, BitVec.ofNat 64 (lcidOf c.reader), BitVec.ofNat 64 (lcidOf c.issuer), 0, 0, 0⟩))

/-- R22, R189, R190, R191: `SBIND` of a source in order binds the stream register to a free context with its count, width and
sign and sets its first block going, the lowest-numbered one by the model's choice (log entry 53); `SUNBIND` of a bound register
frees its context with what it has buffered and sets the register to 0, and of another only moves on; `SRD` takes the oldest
element that has arrived, extended as the descriptor says, and counts LEFT down; with LEFT at 0 and of an unbound register it
traps `STREAM_UNBOUND`. -/
def Claims.Streams : Prop := ∀ (w : Fmt) (n : Fin 4) (d a b : WReg) (s : State), s.Quiet →
  (∀ sid, streamBound (s.me.stream n) = false → (s.w b).toNat ≠ 0 → (s.w b).toNat < 2 ^ 24 →
    (s.w a).toNat % widthBytes w = 0 → streamSource (s.w a).toNat ((s.w b).toNat * widthBytes w) = true →
    s.reachesAway (s.w a).toNat ((s.w b).toNat * widthBytes w) = false →
    s.cell.freeStream = some sid →
    ∃ t, exec (.sbind w n a b) s = .next t ∧ t.mem = s.mem ∧ t.me.pc = s.me.pc + 4 ∧
      t.me.ws = s.me.ws.set (40 + n.val) (streamWord (w.code % 4) (!isUnsignedInt w) (s.w b).toNat sid) ∧
      t.cell.streams = s.cell.streams ++ [⟨sid, s.me.fid, (s.w a).toNat, w.code % 4, (s.w b).toNat, [], none⟩] ∧
      Instr.streamBlockArrival s.curCell sid ∈ t.pending) ∧
  (streamBound (s.me.stream n) = false → exec (.sunbind n) s = .next (s.advance s.me.ws)) ∧
  (streamBound (s.me.stream n) = true → exec (.sunbind n) s = .next ((s.setCur { s.cell with
    streams := s.cell.streams.filter fun x => x.sid != streamSid (s.me.stream n) }).advance (s.me.ws.set (40 + n.val) 0))) ∧
  (streamBound (s.me.stream n) = true → streamLeft (s.me.stream n) = 0 →
    exec (.srd d n) s = .next (s.takeTrap ⟨.streamUnbound, BitVec.ofNat 64 n.val, 1, 0, 0, 0⟩ s.me.pc false 0)) ∧
  (∀ x v r at_, streamBound (s.me.stream n) = true → streamLeft (s.me.stream n) ≠ 0 →
    s.cell.streams.find? (fun x => x.sid == streamSid (s.me.stream n)) = some x → x.buffer = (at_, .ok v) :: r → d ≠ 0 →
    ∃ t, exec (.srd d n) s = .next t ∧ t.mem = s.mem ∧ t.me.pc = s.me.pc + 4 ∧
      t.me.ws = (s.me.ws.set (40 + n.val) (streamWord (streamEw (s.me.stream n)) (streamSigned (s.me.stream n))
        (streamLeft (s.me.stream n) - 1) x.sid)).set d.val (streamExtend (s.me.stream n) v)) ∧
  (streamBound (s.me.stream n) = false →
    exec (.srd d n) s = .next (s.takeTrap ⟨.streamUnbound, BitVec.ofNat 64 n.val, 0, 0, 0, 0⟩ s.me.pc false 0))

/-- R189, R326: the rest of the 64-byte block that holds the next element arrives in a context with 64 bytes free: its elements, one
for each element address in ascending order, join the buffer behind those that it holds, and memory stays. Of a source in TCM each
is the number at its address. -/
def Claims.StreamBlock : Prop := ∀ (s : State) (g : CellId) (x : Stream), (s.cellAt g).streams = [x] → 0 < x.left →
  64 ≤ x.free → (s.cellAt g).zeroing = false → s.RoomInSlices →
  let n := min x.left ((64 - x.next % 64) / 2 ^ x.ew)
  s.readsWait g (2 ^ x.ew) x.next n = false →
  ∃ t y, exec (.streamBlockArrival g x.sid) s = .next t ∧ t.mem = s.mem ∧ (t.cellAt g).streams = [y] ∧
    y.left = x.left - n ∧ y.next = x.next + n * 2 ^ x.ew ∧
    y.buffer.map Prod.fst = x.buffer.map Prod.fst ++ (List.range n).map (fun k => x.next + k * 2 ^ x.ew) ∧
    (s.TcmOpen g → x.next % 2 ^ x.ew = 0 → x.next + n * 2 ^ x.ew ≤ 0x60000 → y.buffer = x.buffer ++ (List.range n).map
      fun k => (x.next + k * 2 ^ x.ew, .ok (BitVec.ofNat 64 (s.read (tcmBase g + (x.next + k * 2 ^ x.ew)) (2 ^ x.ew)))))

namespace Sys2Proof.Machine

/-! ### Stepped operations and `AMOV` -/

/-- The step of the cell's job is open (R242, R263). -/
def State.InOpenStep (s : State) : Prop := ∃ n j, s.jobOf s.curCell = some (n, j) ∧ j.phase = .open

/-- A stepped operation is on its way to its pen: the allotment and the slot's sequence have taken it in (R242). -/
def State.SteppedSent (s t : State) (op : SteppedOp) : Prop :=
  Instr.steppedOpAccept op ∈ t.pending ∧ t.cell.penLeft = s.cell.penLeft - op.cost ∧
  (t.cell.slotDyn s.me.slotNo).stepSeq = s.stepSeq + 1 ∧ t.me.ws = s.me.ws ∧ t.me.pc = s.me.pc + 4

/-- The page of a target passes steps 1 to 4 of R242 for an entry of 32 bytes. -/
def State.TargetOk (s : State) (k : StepKind) (addr size kind : Nat) (p : Page) : Prop :=
  s.misses s.curCell addr = false ∧ s.steppedTarget addr size kind = .ok p ∧ steppedRule k addr kind p = .ok () ∧
  32 ≤ s.cell.penLeft

end Sys2Proof.Machine

/-- R242, R243, R248: `XST` and `XFLAG` in an open step on a landing page, with allotment left, send one entry of 32 bytes and
change no byte of memory; an `XST` counts in PSTORE until its pen has accepted it. -/
def Claims.SteppedStores : Prop := ∀ (s : State) (p : Page), s.Quiet → s.InOpenStep →
  (∀ (w : Fmt) (d a : WReg) (off : BitVec 10),
    s.TargetOk (.xst (widthCode w)) (offsetAddr (s.w a) off (widthBytes w)) (widthBytes w) 1 p →
    ∃ t, exec (.xst w d a off) s = .next t ∧ t.mem = s.mem ∧
      s.SteppedSent t { s.newStepped (.xst (widthCode w)) (offsetAddr (s.w a) off (widthBytes w)) (p.homeFor s.hive) (s.w d) 0
        with reduction := isReduction (offsetAddr (s.w a) off (widthBytes w)) p } ∧
      t.cell.stores = s.cell.stores ++
        [⟨s.cell.nextId, s.curStrand, s.me.fid, .stepped s.me.slotNo s.stepSeq⟩]) ∧
  (∀ a b : WReg, s.TargetOk .xflag (s.w a).toNat 8 1 p →
    ∃ t, exec (.xflag a b) s = .next t ∧ t.mem = s.mem ∧
      s.SteppedSent t (s.newStepped .xflag (s.w a).toNat (p.homeFor s.hive) (s.w b) 0) ∧ t.cell.stores = s.cell.stores)

/-- R242, R244: `XAMO` in an open step marks its result record pending with the home hive and stands outstanding until its
pen accepts it; only the record's second doubleword changes. -/
def Claims.SteppedAtomic : Prop := ∀ (op : Aop) (ord : Bool) (d a b : WReg) (la : Fin 16) (s : State) (p : Page), s.Quiet →
  s.InOpenStep → op ≠ .cas → s.TargetOk (.xamo op ord) (s.w a).toNat 8 2 p →
  s.localCheck (.xamo op ord d a b la) (s.w d).toNat 16 16 1 = .ok () → s.rangeWaits (s.w d).toNat 2 = false →
  Memory.wf s.mem = true →
  ∃ t o, exec (.xamo op ord d a b la) s = .next t ∧
    s.SteppedSent t { s.newStepped (.xamo op ord) (s.w a).toNat (p.homeFor s.hive) (s.w b) 0 with
      record := ownAddr s.curCell (s.w d).toNat } ∧
    t.me.longs = [o] ∧ o.kind = .xamo s.me.slotNo s.stepSeq ∧ o.result = none ∧
    t.read (tcmBase s.curCell + ownAddr s.curCell (s.w d).toNat + 8) 8 =
      s.storedTcm s.curCell (ownAddr s.curCell (s.w d).toNat + 8) 8 ((2 ^ 6 + p.homeFor s.hive * 2 ^ 48) % 2 ^ 64) ∧
    ∀ c, c < tcmBase s.curCell + ownAddr s.curCell (s.w d).toNat + 8 ∨
      tcmBase s.curCell + ownAddr s.curCell (s.w d).toNat + 16 ≤ c → t.byte c = s.byte c

/-- R247: `XAM` in an open step reads its five doublewords and sends one entry of 64 bytes to the hive that `m0` names. -/
def Claims.SteppedMessage : Prop := ∀ (a : WReg) (s : State), s.Quiet → s.InOpenStep →
  s.localCheck (.xam a) (s.w a).toNat 40 8 0 = .ok () → s.marks = [] → s.rangeWaits (s.w a).toNat 5 = false →
  64 ≤ s.cell.penLeft →
  let m := fun n : Nat => BitVec.ofNat 64 (s.read (tcmBase s.curCell + ownAddr s.curCell (s.w a).toNat + 8 * n) 8)
  s.xamBad (m 0) = false →
  ∃ t, exec (.xam a) s = .next t ∧ t.mem = s.mem ∧
    s.SteppedSent t { s.newStepped .xam 0 ((m 0).toNat / 2 ^ 12 % 64) (m 0) (m 1) with m2 := m 2, m3 := m 3, m4 := m 4 }

/-- R246: `XLD` of a page that is not live issues a load of its published contents, from its own hive or from another one;
a live page of another hive traps `REMOTE_READ_LIVE` with its home. -/
def Claims.SteppedLoad : Prop :=
  ∀ (w : Fmt) (acq : Bool) (d a : WReg) (off : BitVec 6) (la : Fin 16) (s : State) (p : Page), s.Quiet →
  let addr := offsetAddr (s.w a) off (widthBytes w)
  s.misses s.curCell addr = false → addr % widthBytes w = 0 → 2 ^ 20 ≤ addr → addr < 2 ^ 57 →
  (∀ va loc, s.place s.curCell addr = .virt va loc p → s.me.dchk = false →
    exec (.xld w acq d a off la) s = .next (s.outstanding (.xld w acq d a off la) d false (s.windowOf la) acq false (.load w addr))) ∧
  (∀ va, s.place s.curCell addr = .away va p → p.state ≠ .live →
    exec (.xld w acq d a off la) s = .next (s.outstanding (.xld w acq d a off la) d false (s.windowOf la) acq false (.remote w addr))) ∧
  (∀ va, s.place s.curCell addr = .away va p → p.state = .live → s.me.dchk = false →
    exec (.xld w acq d a off la) s = .next (s.takeTrap ⟨.remoteReadLive, BitVec.ofNat 64 addr,
      BitVec.ofNat 64 (p.homeFor s.hive), 0, 0, 0⟩ s.me.pc false 0))

namespace Sys2Proof.Machine

/-- R246 as a table: what `XLD` of the result record at `addr` gives, from the record's two doublewords; a CAUSE that R246 does not
list is left out. -/
def recordRule (addr : Nat) (first : Word) (st : Nat) : Option (Except Trap Word) :=
  if st / 2 ^ 6 % 2 = 1 then some (.error ⟨.access, BitVec.ofNat 64 addr, 0, 0, 0, 0⟩)
  else if st % 64 = 0 then some (.ok first)
  else if st % 64 = 0x05 then some (.error ⟨.pageFault, first, BitVec.ofNat 64 (2 * 2 ^ 32), 0, st / 2 ^ 16 % 2 ^ 32, 0⟩)
  else if st % 64 = 0x16 then some (.error ⟨.remoteOpUnsupported, first, BitVec.ofNat 64 (st / 2 ^ 48 % 64), 0, st / 2 ^ 16 % 2 ^ 32, 0⟩)
  else if st % 64 = 0x1A then some (.error ⟨.orderedAmoAborted, first, BitVec.ofNat 64 (st / 2 ^ 16 % 2 ^ 32), 0, 0, 0⟩)
  else none

end Sys2Proof.Machine

/-- R246, R96: `XLD` of a 16-byte aligned record of the own TCM issues; its result is the record's first doubleword, or the trap that
the record holds, taken through the window with nothing written; a record that is pending traps `ACCESS`. Memory stays. -/
def Claims.RecordsRead : Prop :=
  (∀ (acq : Bool) (d a : WReg) (off : BitVec 6) (la : Fin 16) (s : State), s.Quiet →
    let i := Instr.xld .int64 acq d a off la
    let addr := offsetAddr (s.w a) off 8
    addr % 16 = 0 → addr < 0x7F000 → s.zeroHeld s.curCell addr 16 = false → s.localCheck i addr 16 16 0 = .ok () →
    exec i s = .next (s.outstanding i d false (s.windowOf la) acq false (.record addr))) ∧
  ∀ (s : State) (g : CellId) (k : StrandId) (o : LongOp) (t : Strand) (addr : Nat), s.strandAt g k = t →
  t.longs = [o] → o.kind = .record addr → o.result = none → o.left = 0 → o.dropD = false → o.dest ≠ 0 → t.held = none →
  addr < 0x7F000 → s.memoryWaits g addr = false → s.marks = [] →
  let r := recordRule addr (s.tcmWord g addr) (s.read (tcmBase g + addr + 8) 8)
  (∀ v, r = some (.ok v) → ∃ u, exec (.longLatencyResult g k o.seq) s = .next u ∧ u.mem = s.mem ∧
    (u.strandAt g k).ws = t.ws.set o.dest.val v ∧ (u.strandAt g k).longs = []) ∧
  ∀ tr f, r = some (.error tr) → t.firing = some f → f.trapEnt ≠ 0 → t.sv = false → t.swarm = none →
    ∃ u, exec (.longLatencyResult g k o.seq) s = .next u ∧ u.mem = s.mem ∧ (u.strandAt g k).pc = f.trapEnt ∧
      (u.strandAt g k).sv = true ∧ (u.strandAt g k).ws[58] = tr.causeWord true o.slot ∧
      (u.strandAt g k).ws[59] = BitVec.ofNat 64 o.pc ∧ (u.strandAt g k).ws[60] = tr.val ∧ (u.strandAt g k).ws[61] = tr.aux ∧
      ∀ n : Fin 64, n.val ∉ [50, 58, 59, 60, 61] → (u.strandAt g k).ws[n] = t.ws[n]

/-- R242, R295: the pen of its home accepts an entry behind those it holds, the store that waited for it no longer counts,
and memory stays as it is until the fold. -/
def Claims.SteppedAccepted : Prop := ∀ (s : State) (op : SteppedOp) (j : Job), s.jobAt op.job = some j →
  op.reduction = false → (s.strandAt op.src op.strand).longs = [] →
  ∃ t j', exec (.steppedOpAccept op) s = .next t ∧ t.mem = s.mem ∧ t.jobAt op.job = some j' ∧
    j'.pen = j.pen ++ [(op.home, op)] ∧ j'.redEntries = j.redEntries ∧
    j'.figures.penUsed = j.figures.penUsed + op.cost ∧
    ∀ q ∈ (t.cellAt op.src).stores, q.kind ≠ .stepped op.slot op.seq

/-- R233: `AMOV` whose operands pass their checks and whose elements all apply leaves what applying them in ascending order
leaves, and advances the pointers of its `pN+` forms past VL elements. -/
def Claims.AmovCompletes : Prop := ∀ (op : Aop) (ord : Bool) (a : WReg) (pa pb : PtrArg) (s s' : State), s.Quiet →
  s.NoStores → checkPtrs [(s.me.p pa.reg, ⟨s.me.vl, 8⟩), (s.me.p pb.reg, ⟨s.me.vl, 16⟩)] = .ok () →
  (s.w a).toNat % 8 = 0 → s.me.vl ≤ 4096 → s.me.amov = none → s.me.oneElement = false →
  s.amovFrom op (s.instrWord (.amov op ord a pa pb)) (s.w a) (s.me.p pa.reg) (s.me.p pb.reg) 0 s.me.vl = (.ok s.me.vl, s') →
  s'.me = s.me →
  exec (.amov op ord a pa pb) s = .next (s'.advance
    (let t := if pa.inc then s.me.setP pa.reg (ptrAfter (s.me.p pa.reg) ⟨s.me.vl, 8⟩) else s.me
     if pb.inc then (t.setP pb.reg (ptrAfter (s.me.p pb.reg) ⟨s.me.vl, 16⟩)).ws else t.ws))

namespace Sys2Proof.Machine

/-! ### Frames -/

/-- A row word that R195 accepts: no reserved bit and a row below 12,288. -/
def rowWordOk (w : Word) : Prop :=
  w.toNat / 2 ^ 44 = 0 ∧ w.toNat / 2 ^ 30 % 4 = 0 ∧ w.toNat / 2 ^ 7 % 2 ^ 9 = 0 ∧ w.toNat / 2 ^ 16 % 2 ^ 14 < 12288

/-- The port holds an open row that has not been written, and no refresh of its bank is due. -/
def State.RowOpen (s : State) (g : CellId) (n : Fin 4) : Prop :=
  (s.port g n).state = .open ∧ (s.port g n).dirty = false ∧
    s.now < (s.frameBank (combOf g) (s.port g n).bank).refreshDue

/-- First byte of the row that a port names (R193, R363). -/
def State.rowAt (s : State) (g : CellId) (n : Fin 4) : Nat := frameAddr (combOf g) (s.port g n).bank (s.port g n).row

end Sys2Proof.Machine

/-- R195, R197-R199, R177: `FACT` of a row word in order, `FCONS.a`, `FCONS.b`, `FPRE`, and `FCONS.m` and `FWRITE` of a
64-byte aligned range below the slot table enter the forager's queue; a bad row word traps `ACCESS` with kind 0. -/
def Claims.FrameIssues : Prop := ∀ (s : State) (n : Fin 4) (a : WReg), s.Quiet →
  (¬ rowWordOk (s.w a) → exec (.fact n a) s = .next (s.takeTrap (accessTrap (s.w a) 0) s.me.pc false 0)) ∧
  (s.queueFull .forager = false →
    (rowWordOk (s.w a) → exec (.fact n a) s = .next (s.queued .forager (.fact n a) [s.w a] [] s.me)) ∧
    exec (.fconsA n) s = .next (s.queued .forager (.fconsA n) [] [] s.me) ∧
    exec (.fconsB n) s = .next (s.queued .forager (.fconsB n) [] [] s.me) ∧
    exec (.fpre n) s = .next (s.queued .forager (.fpre n) [] [] s.me) ∧
    ((s.w a).toNat % 64 = 0 → (s.w a).toNat + 1024 ≤ 0x7F000 →
      exec (.fconsM n a) s = .next (s.queued .forager (.fconsM n a) [s.w a] [] s.me) ∧
      exec (.fwrite n a) s = .next (s.queued .forager (.fwrite n a) [s.w a] [] s.me)))

/-- R200: `FSTAT` waits while an instruction is in the forager's queue, and then writes the port's state, dirty bit, bank, row,
the cycles to the bank's next refresh and the cycles since the activate. -/
def Claims.FrameStatus : Prop := ∀ (d : WReg) (n : Fin 4) (s : State) (p : Port), s.Quiet → s.port s.curCell n = p →
  p.isOpen = false ∨ s.now < (s.frameBank (combOf s.curCell) p.bank).refreshDue →
  (s.cell.fgQ ≠ [] → exec (.fstat d n) s = .next s) ∧
  (s.cell.fgQ = [] → exec (.fstat d n) s = .next (s.advance (s.me.wrote d (BitVec.ofNat 64
    (min (s.now - p.actAt) 65535 * 2 ^ 48 + min (s.refreshLeft (combOf s.curCell) p.bank) 4095 * 2 ^ 32 +
      p.row % 2 ^ 16 * 2 ^ 16 + p.bank % 2 ^ 7 * 2 ^ 3 + p.dirty.toNat * 4 +
      (match p.state with | .closed => 0 | .opening => if p.actAt + 27 ≤ s.now then 2 else 1 | .open => 2 | .lost => 3))))))

/-- R194, R195: with no row open and the bank's conditions met the activate comes about: the port is opening the row of the
word with its guard, `FACT` retires, and the row opens 27 cycles after. -/
def Claims.FrameActivates : Prop := ∀ (s : State) (g : CellId) (n : Fin 4) (a : WReg) (en : EngEntry) (w : Word),
  (s.Performing g .forager en → en.instr = .fact n a → en.regs = [w] → (s.port g n).isOpen = false →
    s.otherPort g n (rowBank w) = none → s.mayActivate (combOf g) (rowBank w) (rowGuard w) = true →
    ∃ t, exec (.frameActivate g) s = .next t ∧ t.mem = s.mem ∧ (t.cellAt g).fgQ = [] ∧
      t.port g n = ⟨.opening, w.toNat % 2 ^ 7, w.toNat / 2 ^ 16 % 2 ^ 14, w.toNat / 2 ^ 32 % 2 ^ 12, false, [], s.now⟩ ∧
      (t.strandAt g en.strand).shadow = none ∧ Instr.frameOpen g n ∈ t.pending) ∧
  ((s.port g n).state = .opening → (s.port g n).actAt + 27 ≤ s.now →
    ∃ t, exec (.frameOpen g n) s = .next t ∧ t.mem = s.mem ∧ t.port g n = { s.port g n with state := .open }) ∧
  ((s.port g n).state = .opening → s.now < (s.port g n).actAt + 27 →
    exec (.frameOpen g n) s = .next (s.stillPending (.frameOpen g n)))

/-- R197, R198, R199: `FCONS.m` moves the 1,024 bytes of the open row to TCM and changes no other byte; `FWRITE` reads them
from TCM into the port, which is dirty, and changes no byte; `FPRE`, 45 cycles after the activate, closes the port. -/
def Claims.FrameMoves : Prop := ∀ (s : State) (g : CellId) (n : Fin 4) (a : WReg) (en : EngEntry) (v : Word),
  s.Performing g .forager en → s.RowOpen g n → s.TcmOpen g → en.regs = [v] → v.toNat + 1024 ≤ 0x60000 →
  Memory.wf s.mem = true →
  (en.instr = .fconsM n a → ∃ t, exec (.engineInstructionRetire g .forager) s = .next t ∧ (t.cellAt g).fgQ = [] ∧
    (∀ k, k < 1024 → t.byte (tcmBase g + v.toNat + k) = s.byte (s.rowAt g n + k)) ∧
    (∀ b, b < tcmBase g + v.toNat ∨ tcmBase g + v.toNat + 1024 ≤ b → t.byte b = s.byte b)) ∧
  (en.instr = .fwrite n a → ∃ t, exec (.engineInstructionRetire g .forager) s = .next t ∧ (t.cellAt g).fgQ = [] ∧
    t.mem = s.mem ∧ (t.port g n).dirty = true ∧ (t.port g n).data = Memory.bytes s.mem (tcmBase g + v.toNat) 1024) ∧
  (en.instr = .fpre n → (s.port g n).actAt + 45 ≤ s.now → ∃ t, exec (.engineInstructionRetire g .forager) s = .next t ∧
    (t.cellAt g).fgQ = [] ∧ t.mem = s.mem ∧ (t.port g n).state = .closed)

/-- R197, R202: `FCONS.a` appends the bytes of the open row to FIFO A when it has 1,024 bytes free. -/
def Claims.FrameFeeds : Prop := ∀ (s : State) (g : CellId) (n : Fin 4) (en : EngEntry),
  s.Performing g .forager en → s.RowOpen g n → s.TcmOpen g → en.instr = .fconsA n →
  (s.cellAt g).fifoA.length + 1024 ≤ 8192 →
  ∃ t, exec (.engineInstructionRetire g .forager) s = .next t ∧ t.mem = s.mem ∧ (t.cellAt g).fgQ = [] ∧
    (t.cellAt g).fifoA = (s.cellAt g).fifoA ++ Memory.bytes s.mem (s.rowAt g n) 1024

/-- R196, R287: a refresh that is due takes the row that a port holds open: the port is `LOST`, a dirty row is written back
and no other byte changes, and the bank is busy for 120 cycles; the refresh ends then. -/
def Claims.FrameRefreshed : Prop := ∀ (s : State) (hive comb bank : Nat) (g : CellId) (n : Fin 4),
  (s.holders (hive * 256 + comb) bank = [(g, n)] → comb < 256 →
    (s.frameBank (hive * 256 + comb) bank).refreshDue ≤ s.now → (s.port g n).actAt + 45 ≤ s.now →
    (s.cellAt g).transfers n = false → Memory.wf s.mem = true →
    ∃ t, exec (.refresh hive comb bank) s = .next t ∧ (t.port g n).state = .lost ∧
      (t.frameBank (hive * 256 + comb) bank).refreshEnd = some (s.now + 120) ∧
      Instr.refreshEnd hive comb bank ∈ t.pending ∧ ((s.port g n).dirty = false → t.mem = s.mem) ∧
      ((s.port g n).dirty = true → Memory.bytes t.mem (s.rowAt g n) (s.port g n).data.length = (s.port g n).data ∧
        ∀ b, b < s.rowAt g n ∨ s.rowAt g n + (s.port g n).data.length ≤ b → t.byte b = s.byte b)) ∧
  (∀ e, (s.frameBank (hive * 256 + comb) bank).refreshEnd = some e → e ≤ s.now →
    exec (.refreshEnd hive comb bank) s = .next (s.setFrameBank (hive * 256 + comb) bank
      { s.frameBank (hive * 256 + comb) bank with refreshEnd := none }))

/-! ### Acknowledgements, slices and banks -/

/-- R132, R252, R280: the acknowledgement of a store performs it at the home of its page and ends its count in PSTORE: in a
scratchpad its bytes change and no other; on a page of the super or of LPDDR6 its slice holds them and memory stays. That a store is
performed at that moment is the model's reading (log entry 13). -/
def Claims.StorePerforms : Prop :=
  ∀ (s : State) (g : CellId) (k : StrandId) (p : PStore) (addr size n off va loc : Nat) (v : Word) (pg : Page),
  (s.cellAt g).stores = [p] → p.kind = .store addr size v → (s.strandAt g p.strand).longs = [] → pg.state = .live →
  (s.place g addr = .scratch n off pg → Memory.wf s.mem = true →
    ∃ t, exec (.storeAcknowledgement g k p.seq) s = .next t ∧ (t.cellAt g).stores = [] ∧
      t.read (scratchAddr n off) size = v.toNat % 256 ^ size ∧
      ∀ b, b < scratchAddr n off ∨ scratchAddr n off + size ≤ b → t.byte b = s.byte b) ∧
  (s.place g addr = .virt va loc pg → s.memoryWaits g addr = false → s.RoomInSlices →
    (s.hiveAt (hiveOfPhys loc)).sector loc = none → loc % 32 + size ≤ 32 →
    ∃ t x, exec (.storeAcknowledgement g k p.seq) s = .next t ∧ (t.cellAt g).stores = [] ∧ t.mem = s.mem ∧
      (t.hiveAt (hiveOfPhys loc)).sector loc = some x ∧ x.dirty = true ∧
      x.data = overwrite (Memory.bytes s.mem (loc / 32 * 32) 32) (loc % 32) (toBytes v.toNat size))

/-- R235: 256 cycles after its refusal the retry of a full/empty read makes its request again. -/
def Claims.RefusedReadRetried : Prop := ∀ (s : State) (g : CellId) (k : StrandId) (o : LongOp),
  (s.strandAt g k).run = .issuing → (s.strandAt g k).longs = [o] → o.result = none → o.atBank = false → 0 < o.refusals →
  (s.cellAt g).stores = [] → o.refusedAt + 256 ≤ s.now → (∃ op addr, o.kind = .fe op addr) →
  ∃ t, exec (.feRetry g k) s = .next t ∧ exec (.longLatencyResult g k o.seq) s = .next t

/-- R284, R280, R281 (log entry 42: which entry leaves a full cache is the model's choice): a fill brings a page's entry into the comb's page-state cache of 2,048, and a slice fill brings a sector
from memory under its tag, clean; memory stays. -/
def Claims.CachesFill : Prop :=
  (∀ (s : State) (hive comb page : Nat),
    (s.combAt (hive * 256 + comb)).cached.contains
      (s.entryKey ((s.combJob (hive * 256 + comb)).getD 0) hive (page * 2 ^ 16)) = false →
    exec (.pageStateCacheFill hive comb page) s = .next (s.setComb (hive * 256 + comb)
      { s.combAt (hive * 256 + comb) with
        cached := s.entryKey ((s.combJob (hive * 256 + comb)).getD 0) hive (page * 2 ^ 16) ::
          (s.combAt (hive * 256 + comb)).cached.take 2047 })) ∧
  (∀ (s : State) (n hive va : Nat) (j : Job) (p : Page), s.jobAt n = some j → j.homePage hive va = some p →
    s.RoomInSlices → s.fillWaits hive j.asid va (p.addr hive va) = false →
    (∀ x ∈ (s.hiveAt hive).sectors, x.loc / 8 ≠ p.addr hive va / 256) → (s.hiveAt hive).remap = [] →
    ∃ t x, exec (.sliceFill n hive va none) s = .next t ∧ t.mem = s.mem ∧
      (t.hiveAt hive).sector (p.addr hive va) = some x ∧ x.asid = j.asid ∧ x.va = va / 32 ∧ x.dirty = false ∧
      x.data = Memory.bytes s.mem (p.addr hive va / 32 * 32) 32)

/-- R272, R273: 12 cycles after an access to a drowsy bank, and 2,048 cycles after one left mode 2, the bank is on; a bank in
mode 1 that has served no access for its idle cycles becomes drowsy. Memory stays. -/
def Claims.BanksTurn : Prop := ∀ (s : State) (g : CellId) (b : Fin 4) (x : Bank), (s.cellAt g).banks[b] = x →
  (x.state = .waking → x.lastUse + 12 ≤ s.now → ∃ t, exec (.bankWake g b) s = .next t ∧ t.mem = s.mem ∧
    (t.cellAt g).banks[b] = ⟨.on, s.now⟩) ∧
  (x.state = .zeroing → x.lastUse + 2048 ≤ s.now → ∃ t, exec (.bankZeroComplete g b) s = .next t ∧ t.mem = s.mem ∧
    (t.cellAt g).banks[b] = ⟨.on, s.now⟩) ∧
  (x.state = .on → (s.cellAt g).tcmpwr.toNat / 4 ^ b.val % 4 = 1 →
    x.lastUse + max 1 ((s.cellAt g).tcmpwr.toNat / 2 ^ 16 % 2 ^ 16) ≤ s.now →
    exec (.bankDrowsy g b) s = .next (s.setCell g { s.cellAt g with
      banks := (s.cellAt g).banks.set b { x with state := .drowsy } }))

/-! ### Firings by themselves -/

/-- R171, R311, R314: a free strand without a claim to serve starts the candidate that the choice picks, on the lowest free
pool workspace: the slot's descriptor gives the firing, RRPTR passes the slot, and the binding is set going. -/
def Claims.FiringChosen : Prop := ∀ (s : State) (g : CellId) (k : StrandId) (x : Cand) (j : Nat),
  (s.strandAt g k).run = .free → (s.cellAt g).fenced = false → (s.cellAt g).claims = [] →
  pickCand (schedAgep (s.cellAt g)) (s.cellAt g).rrptr (s.cands g) = some x → x.resume = none →
  s.rangeMarked (descAddr g x.slot 0) 64 = false → (s.cellAt g).freePool = some j → s.slotKind g x.slot ≠ 2 →
  ∃ t f, exec (.firingChoice g k) s = .next t ∧ t.mem = s.mem ∧ (t.strandAt g k).run = .starting false ∧
    (t.strandAt g k).wp = 0x60000 + 512 * j ∧ (t.strandAt g k).firing = some f ∧ f.slot = x.slot ∧ f.task = false ∧
    f.rate = s.slotRate g x.slot ∧ f.trapEnt = s.slotTrapEnt g x.slot ∧ f.entry = s.slotEntry g x.slot ∧
    f.prio = s.slotPrio g x.slot ∧ f.fen = s.slotFen g x.slot ∧ f.pool = j ∧ f.taken = 0 ∧
    f.qbase = s.slotQbase g x.slot ∧ f.qlog = s.slotQlog g x.slot ∧
    (t.cellAt g).rrptr = (x.slot + 1) % 64 ∧ j ∈ (t.cellAt g).poolUsed ∧ Instr.firingBind g k ∈ t.pending

/-- R17, R22, R26, R30, R35, R50, R315: at a firing start the strand issues from ENTRY with its first input in `w1`-`w4`, read in
the ring that the firing took from its slot, FENABLE, the priority, DEADLINE and LEFT that it took from there too, its strand
number, and every other doubleword 0; a resumption brings back the saved workspace, the stream descriptors without their reserved
bits, and goes on at the PC in doubleword 49. -/
def Claims.FiringBound : Prop := ∀ (s : State) (g : CellId) (k : StrandId) (f : Firing), (s.strandAt g k).firing = some f →
  ((s.strandAt g k).run = .starting false → f.task = false →
    s.rangeMarked (tcmBase g + f.input 0) 32 = false → s.badDw (tcmBase g + (s.strandAt g k).wp) = none → f.prio < 4 →
    (s.cellAt g).meetsZeroing (f.input 0) 32 = false →
    ∃ t u, exec (.firingBind g k) s = .next t ∧ t.mem = s.mem ∧ t.strandAt g k = u ∧ u.run = .issuing ∧
      u.pc = f.entry ∧ u.firing = some { f with taken := 1 } ∧
      (∀ n : Fin 4, u.ws[n.val + 1] = BitVec.ofNat 64 (s.read (tcmBase g + f.input 0 + 8 * n.val) 8)) ∧
      u.prio = f.prio ∧ u.sv = false ∧ u.swm = false ∧ u.cf = false ∧
      u.ws[52] = BitVec.ofNat 64 f.fen ∧ u.ws[54] = ylimit f.defdl (f.defdl * 64) ∧
      u.ws[55] = BitVec.ofNat 64 (k.val + f.slot * 4) ∧
      ∀ n : Fin 64, n.val ∉ [1, 2, 3, 4, 50, 52, 54, 55] → u.ws[n] = 0) ∧
  ((s.strandAt g k).run = .starting true → s.marks = [] →
    ∃ t u, exec (.firingBind g k) s = .next t ∧ t.mem = s.mem ∧ t.strandAt g k = u ∧ u.run = .issuing ∧
      u.pc = s.read (tcmBase g + u.wp + 8 * 49) 8 % 2 ^ 19 ∧
      ∀ n : Fin 64, n.val ≠ 0 ∧ n.val < 49 → u.ws[n] = BitVec.ofNat 64 (s.read (tcmBase g + u.wp + 8 * n.val) 8) &&&
        (if n.val / 4 = 10 then 0xF0FFFFFFFF000000 else BitVec.allOnes 64))

namespace Sys2Proof.Machine

/-- No two strands of a cell hold the same workspace (R14). -/
def State.WorkspacesApart (s : State) : Prop := ∀ (g : CellId) (k m : StrandId), k ≠ m →
  (s.strandAt g k).owns = true → (s.strandAt g m).owns = true → (s.strandAt g k).wp ≠ (s.strandAt g m).wp

end Sys2Proof.Machine

/-- R14, R27, R171, R314: what gives a strand a workspace never gives it one that another strand of the cell holds: the choice of a
firing or of a resumption, the grant of a claim, and `MTS` to WP, in a strand that holds a firing outside a swarm. -/
def Claims.WorkspacesStayApart : Prop := ∀ (s t : State), s.WorkspacesApart →
  (∀ g k, exec (.firingChoice g k) s = .next t → t.WorkspacesApart) ∧
  (∀ g k, exec (.swarmClaimGrant g k) s = .next t → t.WorkspacesApart) ∧
  ∀ a, s.Quiet → s.me.owns = true → s.me.swarm = none → exec (.mts 0x001 a) s = .next t → t.WorkspacesApart

/-- R311: a strand that has left is free with its register-file copy as it stands, and is offered to the choice. -/
def Claims.StrandFreed : Prop := ∀ (s : State) (g : CellId) (k : StrandId), (s.strandAt g k).run = .leaving →
  exec (.strandFree g k) s = .next ((s.setStrand g k { Strand.reset with ws := (s.strandAt g k).ws }).push (.firingChoice g k))

/-- R35, R42, R44: when LEFT is 0 in user mode and no window is open, `WATCHDOG` is taken between instructions: the handler is
entered in supervisor mode with LEFT 4,096 and the deadline in TRAPVAL; memory stays. -/
def Claims.WatchdogStrikes : Prop := ∀ (s : State) (g : CellId) (k : StrandId) (t : Strand) (f : Firing),
  s.strandAt g k = t → t.run = .issuing → t.left = 0 → t.sv = false → t.firing = some f → f.trapEnt ≠ 0 →
  t.swarm = none → t.longs = [] → t.amov = none → t.midPair = false →
  ∃ s' u, exec (.watchdog g k) s = .next s' ∧ s'.mem = s.mem ∧ s'.strandAt g k = u ∧ u.run = .issuing ∧
    u.pc = f.trapEnt ∧ u.sv = true ∧ u.left = 4096 ∧ u.deadline = t.deadline ∧ u.firing = some { f with wdog := true } ∧
    u.ws[58] = 0x0E ∧ u.ws[59] = BitVec.ofNat 64 t.pc ∧ u.ws[60] = BitVec.ofNat 64 t.deadline ∧
    ∀ n : Fin 64, n.val ∉ [50, 54, 58, 59, 60, 61] → u.ws[n] = t.ws[n]

/-- R42, R367: when the budget of the handler that `WATCHDOG` entered has run out, the firing ends and a message of kind 6
goes to the drover. -/
def Claims.WatchdogHandlerEnds : Prop := ∀ (s : State) (g : CellId) (k : StrandId) (t : Strand) (f : Firing),
  s.strandAt g k = t → t.run = .issuing → t.left = 0 → t.inWdog = true → t.firing = some f → f.task = false →
  t.longs = [] → t.amov = none → t.midPair = false →
  ∃ s', exec (.watchdogHandlerExpiry g k) s = .next s' ∧ (s'.strandAt g k).run = .leaving ∧
    (s'.strandAt g k).firing = none ∧ Instr.strandFree g k ∈ s'.pending ∧
    (s'.hiveAt (hiveOf g)).faults =
      faultMessage 6 g t.slotNo k t.record t.status (((s.jobOf g).map fun j => j.2.step).getD 0) :: (s.hiveAt (hiveOf g)).faults

/-- R171: a follower cell gives its lowest-numbered free strand and a free pool workspace to the oldest claim, and the leader
looks again. -/
def Claims.ClaimGranted : Prop := ∀ (s : State) (g : CellId) (k : StrandId) (x : Claim) (r : List Claim) (j : Nat),
  (s.cellAt g).lowestFree = some k → (s.cellAt g).claims = x :: r → (s.cellAt g).freePool = some j → x.leaderCell ≠ g →
  ∃ t, exec (.swarmClaimGrant g k) s = .next t ∧ t.mem = s.mem ∧ (t.strandAt g k).run = .claimed ∧
    (t.strandAt g k).wp = 0x60000 + 512 * j ∧ (t.cellAt g).claims = r ∧ j ∈ (t.cellAt g).poolUsed ∧
    (∀ w, (s.strandAt x.leaderCell x.leaderStrand).swarm = some w →
      (t.strandAt x.leaderCell x.leaderStrand).swarm = some { w with members := w.members ++ [(g, k)] }) ∧
    Instr.parkedStrandResume x.leaderCell x.leaderStrand ∈ t.pending

/-- R218, R239: a strand that is parked at `WAITB` goes on when its unit has ended its wait, and stays parked otherwise. -/
def Claims.ParkedResumes : Prop := ∀ (s : State) (g : CellId) (k : StrandId) (b : Fin 8) (t : Strand),
  s.strandAt g k = t → t.run = .parked (.waitb b) → t.longs = [] → t.shadow = none → t.held = none → t.replay = none →
  (t.note = waitMet → exec (.parkedStrandResume g k) s = .next (s.setStrand g k
    { t with run := .issuing, pc := t.pc + 4 })) ∧
  (t.note ≠ waitMet → exec (.parkedStrandResume g k) s = .next s)

/-- R171, R172, R26: when every follower cell has given a strand the swarm is formed: the leader and each follower go on at
the word after `SWARM`, and a follower starts with the leader's registers, pointers, message words, FENABLE, VL and YLIMIT, its
streams unbound, and its own index in STATUS. -/
def Claims.SwarmForms : Prop := ∀ (s : State) (g : CellId) (k : StrandId) (n : SwarmSize) (t : Strand) (w : SwarmInfo),
  s.strandAt g k = t → t.run = .parked (.swarm n) → t.swarm = some w → w.size = n → w.leaderCell = g → w.leaderStrand = k →
  w.members.length = n.cells → t.swm = false → t.longs = [] → t.shadow = none → t.held = none → t.replay = none →
  ∃ s', exec (.parkedStrandResume g k) s = .next s' ∧ s'.mem = s.mem ∧ (s'.strandAt g k).run = .issuing ∧
    (s'.strandAt g k).pc = t.pc + 4 ∧ (s'.strandAt g k).swm = true ∧ (s'.strandAt g k).swix = 0 ∧
    ∀ (i : Nat) (h : CellId) (m : StrandId), 0 < i → i < n.cells → w.member i = some (h, m) →
      (s'.strandAt h m).run = .issuing ∧ (s'.strandAt h m).pc = t.pc + 4 ∧ (s'.strandAt h m).swm = true ∧
      (s'.strandAt h m).swix = i ∧
      ∀ r : Fin 64, r.val < 40 ∨ (44 ≤ r.val ∧ r.val < 49) ∨ r.val ∈ [52, 53, 54] → (s'.strandAt h m).ws[r] = t.ws[r]

namespace Sys2Proof.Machine

/-! ### The fold -/

/-- R265 as a table: what one doubleword entry of the rule leaves where the doubleword was `old`. -/
def foldRule (r : Rule) (old v : Word) : Word :=
  match r with
  | .add => old + v
  | .min => if old.slt v then old else v
  | .max => if old.slt v then v else old
  | .or => old ||| v
  | .first | .last | .unique => v

/-- No slice of any hive holds a sector, no word is uncorrectable, and every slice and controller delivers its data. -/
def State.Uncached (s : State) : Prop := s.marks = [] ∧ ∀ h, (s.hiveAt h).sectors = [] ∧ (s.hiveAt h).mutes = []

/-- Nothing but the job itself differs, and the happening of its next phase is set going. -/
def State.JobGoes (s t : State) (n : Nat) (j : Job) (i : Instr) : Prop :=
  t.mem = s.mem ∧ t.jobAt n = some j ∧ i ∈ t.pending

end Sys2Proof.Machine

/-- R263, R357: a gather that finds every cell of an open step quiet and nothing on its way records the totals; a second one
that finds the same totals, sent equal to absorbed, seals the step: the apply of every hive is set going. -/
def Claims.StepSealed : Prop := ∀ (s : State) (n : Nat) (j : Job), s.jobAt n = some j → j.phase = .open → j.ended = false →
  j.stopped = false → s.anyFolded j = true → (∀ g ∈ j.cells, s.cellQuiet g = true) → s.nothingWaits j = true →
  (j.gather = none → exec (.foldGather n) s =
    .next ((s.setJob n { j with gather := some (s.totals j) }).stillPending (.foldGather n))) ∧
  (j.gather = some (s.totals j) → (s.totals j).1 = (s.totals j).2 →
    ∃ t j', exec (.foldGather n) s = .next t ∧ t.mem = s.mem ∧ t.jobAt n = some j' ∧ j'.phase = .apply ∧
      j'.doneHives = [] ∧ j'.pen = j.pen ∧ j'.step = j.step ∧ ∀ h ∈ j.hives, Instr.foldApply n h ∈ t.pending)

/-- R264, R265: the apply of a hive whose pen holds one doubleword entry leaves in the doubleword what the rule of its page
gives, changes no other byte, and counts the entry; the last hive to apply ends the apply. -/
def Claims.EntryApplied : Prop := ∀ (s : State) (n h : Nat) (j : Job) (op : SteppedOp) (p : Page),
  s.jobAt n = some j → j.phase = .apply → j.hives = [h] → j.doneHives = [] → j.stopped = false → j.partials = [] →
  j.pen = [(h, op)] → j.badPen = [] → op.job = n → op.kind = .xst 3 → j.homePage h op.target = some p → s.Uncached →
  Memory.wf s.mem = true →
  ∃ t j', exec (.foldApply n h) s = .next t ∧ t.jobAt n = some j' ∧
    t.read (p.addr h op.target) 8 = (foldRule p.rule (BitVec.ofNat 64 (s.read (p.addr h op.target) 8)) op.data).toNat ∧
    (∀ b, b < p.addr h op.target ∨ p.addr h op.target + 8 ≤ b → t.byte b = s.byte b) ∧
    j'.figures.applied = j.figures.applied + 1 ∧ j'.doneHives = [h] ∧
    Instr.applyDone n ∈ t.pending

/-- R244, R245: the apply performs an `XAMO` of a page in its home: the doubleword takes the new value, and the old one waits
for the install as the result of the operation. -/
def Claims.AtomicApplied : Prop := ∀ (s : State) (n h : Nat) (j : Job) (op : SteppedOp) (p : Page) (o : Aop) (ord : Bool),
  s.jobAt n = some j → j.phase = .apply → j.hives = [h] → j.doneHives = [] → j.stopped = false → j.partials = [] →
  j.pen = [(h, op)] → j.badPen = [] → op.job = n → op.kind = .xamo o ord → o.isFn = false → (s.hiveAt h).rev ≠ 1 →
  j.homePage h op.target = some p → s.Uncached → Memory.wf s.mem = true → j.xamoResults = [] → h < 64 →
  ∃ t j' r, exec (.foldApply n h) s = .next t ∧ t.jobAt n = some j' ∧
    t.read (p.addr h op.target) 8 =
      (amoRule (BitVec.ofNat 64 (s.read (p.addr h op.target) 8)) op.data op.cmp o).toNat ∧
    (∀ b, b < p.addr h op.target ∨ p.addr h op.target + 8 ≤ b → t.byte b = s.byte b) ∧
    j'.xamoResults = [r] ∧ r.cell = op.src ∧ r.record = op.record ∧
    r.first = BitVec.ofNat 64 (s.read (p.addr h op.target) 8) ∧ r.status = BitVec.ofNat 64 (h * 2 ^ 48)

/-- R354, R360: a partial of a reduction goes one hop towards the home of its target, along the minimal route or the detour
round its lost links, and joins the partial that is there. -/
def Claims.PartialMoves : Prop := ∀ (s : State) (n hive target : Nat) (j : Job) (p : Partial), s.jobAt n = some j →
  j.phase = .apply → p.hive = hive → p.target = target → hive ≠ j.homeOf target →
  (j.partials = [p] → exec (.reductionPartialArrival n hive target) s =
    .next (let s' := s.setJob n { j with partials := [{ p with hive := s.nextHop hive (j.homeOf target) }] }
      if s.nextHop hive (j.homeOf target) = j.homeOf target then s'
      else s'.stillPending (.reductionPartialArrival n (s.nextHop hive (j.homeOf target)) target))) ∧
  (∀ q, j.partials = [p, q] → q.hive = s.nextHop hive (j.homeOf target) → q.target = target → q.low ≤ p.low →
    s.nextHop hive (j.homeOf target) = j.homeOf target → q.hive ≠ hive →
    exec (.reductionPartialArrival n hive target) s = .next (s.setJob n { j with
      partials := [⟨q.hive, target, Rule.combine (j.ruleAt target) q.value p.value, q.low⟩] }))

/-- R5, R353, R354: the next hive of a packet. With every link working it is the destination where one link leads there, and the
corner in the packet's row else. With a lost link it is the other corner, and where no two links through a corner work, or the one
link is lost, the lowest-numbered hive from which the destination is reached. The numbers of the ports are the model's choice
and the detour its reading (log entry 43). -/
def Claims.RoutesTaken : Prop := ∀ (s : State) (a b : Nat), a < 64 → b < 64 → a ≠ b →
  let row := a / 8 * 8 + b % 8
  let col := b / 8 * 8 + a % 8
  let joined := a / 8 = b / 8 ∨ a % 8 = b % 8
  ((∀ h, (s.hiveAt h).offLinks = []) → s.nextHop a b = if joined then b else row) ∧
  (joined → s.linkWorks a b = true → s.nextHop a b = b) ∧
  (¬ joined → s.linkWorks a row = true → s.linkWorks row b = true → s.nextHop a b = row) ∧
  (¬ joined → s.linkWorks a row = false ∨ s.linkWorks row b = false → s.linkWorks a col = true → s.linkWorks col b = true →
    s.nextHop a b = col) ∧
  (∀ x, joined → s.linkWorks a b = false → x < 64 → x ≠ a → x ≠ b → s.linkWorks a x = true → s.linkWorks x b = true →
    (∀ y, y < x → y = a ∨ y = b ∨ s.linkWorks a y = false ∨ s.linkWorks y b = false) → s.nextHop a b = x) ∧
  ∀ p, p < 15 → p ≠ 7 → (s.hiveAt a).offLinks = [p] → s.linkWorks a (portPeer a p) = false

/-- R52, R53, R266: a page takes its request at the install: `LIVE` names the new holder, `FROZEN` and `LANDING` set the rule and keep
the last holder, and the page no longer counts as written. -/
def Claims.RequestsTaken : Prop := ∀ (p : Page),
  (p.request = none → p.takeRequest = p) ∧
  ∀ r, p.request = some r →
    (r.state = .live ∨ r.state = .shadowed → p.takeRequest =
      { p with state := r.state, rule := r.rule, holder := r.holder, last := r.holder, request := none }) ∧
    (r.state = .frozen ∨ r.state = .landing → ∃ q, p.takeRequest = q ∧ q.state = r.state ∧ q.rule = r.rule ∧ q.request = none ∧
      q.dirty = false ∧ q.homes = p.homes ∧ q.base = p.base ∧
      q.last = (if p.state = .live ∨ p.state = .shadowed then p.holder else p.last))

/-- R358, R266: once every hive has applied the install of every hive is set going; once every hive has installed the release
is. -/
def Claims.FoldPhases : Prop := ∀ (s : State) (n : Nat) (j : Job), s.jobAt n = some j → j.allDone = true →
  j.stopped = false →
  (j.phase = .apply → j.group = 0 → ∃ t j', exec (.applyDone n) s = .next t ∧ t.mem = s.mem ∧ t.jobAt n = some j' ∧
    j'.phase = .install ∧ j'.doneHives = [] ∧ ∀ h ∈ j.hives, Instr.install n h ∈ t.pending) ∧
  (j.phase = .install → ∃ t, exec (.installDone n) s = .next t ∧
    s.JobGoes t n { j with phase := .installed } (.release n))

/-- R244, R266, R242, R52: the install of a hive writes the result records of its cells, lets the requests of its pages take
effect and renews the pen allotments; the last hive to install ends the install. -/
def Claims.HiveInstalls : Prop := ∀ (s : State) (n h : Nat) (j : Job) (r : XamoResult), s.jobAt n = some j →
  j.phase = .install → j.hives = [h] → j.doneHives = [] → j.stopped = false → j.xamoResults = [r] → hiveOf r.cell = h →
  (s.cellAt r.cell).meetsZeroing r.record 16 = false → s.storesHeld j h = false →
  j.xamList = [] → (s.hiveAt h).sorted = [] → j.homePage h statusPage = none → Memory.wf s.mem = true → j.cells.Nodup →
  ∃ t j', exec (.install n h) s = .next t ∧ t.jobAt n = some j' ∧
    t.read (tcmBase r.cell + r.record) 8 = s.storedTcm r.cell r.record 8 r.first.toNat ∧
    t.read (tcmBase r.cell + r.record + 8) 8 = s.storedTcm r.cell (r.record + 8) 8 r.status.toNat ∧
    (∀ b, b < tcmBase r.cell + r.record ∨ tcmBase r.cell + r.record + 16 ≤ b → t.byte b = s.byte b) ∧
    j'.pages = j.pages.map (fun p => if (p.homes.head?.map fun x => x.1 == h).getD false then p.takeRequest else p) ∧
    (∀ g ∈ j.cells, hiveOf g = h → (t.cellAt g).penLeft = (s.cellAt g).penAllot) ∧ Instr.installDone n ∈ t.pending

/-- R28, R249, R266: the release opens the next step: STEP counts up, the pens are empty, and a strand parked at `FOLD` goes on
after it; memory stays. -/
def Claims.StepReleased : Prop := ∀ (s : State) (n : Nat) (j : Job) (g : CellId) (k : StrandId) (t : Strand),
  s.jobAt n = some j → j.phase = .installed → j.stopped = false → j.cells = [g] → j.figures.redAborted = false →
  s.strandAt g k = t → t.run = .folded → t.longs = [] → t.shadow = none → t.held = none → t.replay = none →
  (∀ k', k' ≠ k → (s.strandAt g k').run = .free) →
  ∃ s' j', exec (.release n) s = .next s' ∧ s'.mem = s.mem ∧ s'.jobAt n = some j' ∧ j'.step = j.step + 1 ∧
    j'.phase = .open ∧ j'.pen = [] ∧ j'.redEntries = [] ∧ (s'.strandAt g k).run = .issuing ∧
    (s'.strandAt g k).pc = t.pc + 4 ∧ (s'.strandAt g k).ws = t.ws

/-- R381: when the digest of the other of two replicas has not come within 2^24 cycles, both restore their step, halt with
cause 6 and stay before their seal, with the step open again and the pens as they are, which is the model's reading (log
entry 36). -/
def Claims.DigestMissing : Prop := ∀ (s : State) (n m : Nat) (j o : Job), s.jobs = [(n, j), (m, o)] → n < m →
  j.group = o.group → j.group ≠ 0 → j.phase = .applied → o.phase = .apply → j.halted = none → o.halted = none →
  j.differed = false → o.differed = false → j.ended = false → o.ended = false → j.undo = [] → o.undo = [] → o.lateRoots = [] → j.appliedAt + 2 ^ 24 ≤ s.now →
  ∃ t j' o', exec (.replicaDigestTimeout n) s = .next t ∧ t.mem = s.mem ∧ t.jobAt n = some j' ∧ t.jobAt m = some o' ∧
    j'.halted = some 6 ∧ o'.halted = some 6 ∧ j'.phase = .open ∧ o'.phase = .open ∧ j'.pen = j.pen ∧ o'.pen = o.pen

/-- R378, R370: a seal that has stalled for 2^20 cycles halts the job with cause 3; a stall that begins is noted. -/
def Claims.StallHalts : Prop := ∀ (s : State) (n h : Nat) (j : Job), s.jobAt n = some j → j.phase = .open →
  j.ended = false → j.stopped = false → j.halted = none → h ∈ j.hives → s.stalls j = true →
  (∀ c, j.stallSince = some c → c + 2 ^ 20 ≤ s.now → ∃ t, exec (.sealStall n h) s = .next t ∧ t.mem = s.mem ∧
    t.jobAt n = some { j with halted := some 3, stopped := true, differed := true }) ∧
  (j.stallSince = none → exec (.sealStall n h) s =
    .next ((s.setJob n { j with stallSince := some s.now }).stillPending (.sealStall n h)))

/-! ### The service network and the debugger -/

/-- R272, R313, R339, R389: a legal TCMPWR is taken: a bank that enters mode 2 with no access to it under way is gated and its bytes read 0 at once, which is the
model's reading (log entry 26), one that keeps its mode keeps every byte; a legal SCHEDCFG and any ENGCTR are written; an illegal TCMPWR or SCHEDCFG changes no register. -/
def Claims.ServiceWrites : Prop := ∀ (s : State) (g : CellId) (v : Word),
  (tcmpwrBad v = false → ∃ t, exec (.tcmpwr g v) s = .next t ∧ (t.cellAt g).tcmpwr = v &&& 0xFFFF00FF ∧
    ∀ b : Fin 4, (v.toNat / 4 ^ b.val % 4 = 2 → (s.cellAt g).tcmpwr.toNat / 4 ^ b.val % 4 ≠ 2 → s.bankServes g b = false →
        (t.cellAt g).banks[b].state = .gated ∧ ∀ a, a < 0x20000 → t.byte (tcmBase g + b.val * 0x20000 + a) = 0) ∧
      ((s.cellAt g).tcmpwr.toNat / 4 ^ b.val % 4 = v.toNat / 4 ^ b.val % 4 →
        (t.cellAt g).banks[b] = (s.cellAt g).banks[b] ∧
        ∀ a, a < 0x20000 → t.byte (tcmBase g + b.val * 0x20000 + a) = s.byte (tcmBase g + b.val * 0x20000 + a))) ∧
  (schedcfgOk v = true → ∃ t, exec (.schedcfg g v) s = .next t ∧ t.mem = s.mem ∧
    (t.cellAt g).schedcfg = v &&& 0xFF003F) ∧
  (tcmpwrBad v = true → exec (.tcmpwr g v) s = .next (s.report (hiveOf g) ⟨0x40000000 + lcidOf g * 2 ^ 12, v, 2⟩)) ∧
  (schedcfgOk v = false → exec (.schedcfg g v) s = .next (s.report (hiveOf g) ⟨0x40000000 + lcidOf g * 2 ^ 12 + 8, v, 2⟩)) ∧
  ∀ n : Fin 8, exec (.engctr g n v) s = .next (s.setCell g { s.cellAt g with engctr := (s.cellAt g).engctr.set n v })

/-- R42, R143, R368: `RESUME` sends a strand that awaits the drover back to TRAPPC in user mode; `DELIVER` lets the trap that
waits proceed to the handler; `ENDFIRING` ends the firing once it has drained, and until then no other verb is taken. Each acts on
the record that WREC puts in. -/
def Claims.DroverVerbs : Prop := ∀ (s : State) (g : CellId) (k : StrandId) (kind : Nat) (tr : Option Trap) (f : Firing),
  (s.strandAt g k).run = .awaiting kind tr → (s.strandAt g k).firing = some f →
  ((s.strandAt g k).afterWatchdog = false → ∃ t, exec (.resume g k none) s = .next t ∧ t.mem = s.mem ∧
    (t.strandAt g k).run = .issuing ∧ (t.strandAt g k).sv = false ∧
    (t.strandAt g k).pc = (s.strandAt g k).ws[59].toNat % 2 ^ 19) ∧
  (∀ c p v a, (s.strandAt g k).afterWatchdog = false → ∃ t, exec (.resume g k (some (c, p, v, a))) s = .next t ∧
    t.mem = s.mem ∧ (t.strandAt g k).run = .issuing ∧ (t.strandAt g k).pc = p.toNat % 2 ^ 19 ∧
    (t.strandAt g k).ws[60] = v ∧ (t.strandAt g k).ws[61] = a) ∧
  (∀ x, kind = 1 → tr = some x → x.cause ≠ .watchdog → f.trapEnt ≠ 0 → (s.strandAt g k).sv = false →
    ∃ t, exec (.deliver g k none) s = .next t ∧ t.mem = s.mem ∧ (t.strandAt g k).run = .issuing ∧
      (t.strandAt g k).sv = true ∧ (t.strandAt g k).pc = f.trapEnt) ∧
  (f.task = false → (s.at g k).drained = true → ∃ t, exec (.endfiring g k none) s = .next t ∧
    (t.strandAt g k).run = .leaving ∧ (t.strandAt g k).firing = none ∧ Instr.strandFree g k ∈ t.pending) ∧
  ((s.at g k).drained = false → ∃ t, exec (.endfiring g k none) s = .next t ∧ (t.strandAt g k).run = .ending ∧ t.mem = s.mem ∧
    Instr.parkedStrandResume g k ∈ t.pending ∧ exec (.resume g k none) t = .next (t.badVerb g k 1) ∧
    exec (.deliver g k none) t = .next (t.badVerb g k 2))

/-- R16, R271: a debugger reads a doubleword of TCM that lies in no bound workspace and no gated bank, and writes one: exactly
its bytes change; a bound workspace is read from the register-file copy and is not written. Of a cell that does not exist a read gives 0 and a
write is dropped, and either is reported: the model's choice (log entry 65). -/
def Claims.DebuggerAccess : Prop := ∀ (s : State) (g : CellId) (off : Nat) (v : Word), off < 2 ^ 19 → off % 8 = 0 →
  (s.cellExists g = true → (s.cellAt g).boundAt off = none → (s.cellAt g).meetsGated off 8 = false →
    (s.cellAt g).meetsZeroing off 8 = false → s.marked (tcmBase g + off) = false →
    ∃ t, exec (.debuggerRead (.tcm g off)) s = .next t ∧ t.mem = s.mem ∧ (t.hiveAt (hiveOf g)).reports =
      ⟨0x7F00000000000000 + lcidOf g * 2 ^ 20 + off, s.tcmWord g off, 0⟩ :: (s.hiveAt (hiveOf g)).reports) ∧
  (s.cellExists g = true → (s.cellAt g).meetsBound off 8 = false → (s.cellAt g).meetsGated off 8 = false →
    (s.cellAt g).meetsZeroing off 8 = false → Memory.wf s.mem = true →
    ∃ t, exec (.debuggerWrite (.tcm g off) v) s = .next t ∧ t.read (tcmBase g + off) 8 = s.storedTcm g off 8 v.toNat ∧
      ∀ b, b < tcmBase g + off ∨ tcmBase g + off + 8 ≤ b → t.byte b = s.byte b) ∧
  (∀ (t : Strand) (n : Fin 64), s.cellExists g = true → (s.cellAt g).boundAt off = some t → off = t.wp + 8 * n.val →
    exec (.debuggerRead (.tcm g off)) s = .next (s.report (hiveOf g)
      ⟨0x7F00000000000000 + lcidOf g * 2 ^ 20 + off, t.ws[n], 0⟩)) ∧
  ((s.cellAt g).meetsBound off 8 = true ∨ s.cellExists g = false → exec (.debuggerWrite (.tcm g off) v) s =
    .next (s.report (hiveOf g) ⟨0x7F00000000000000 + lcidOf g * 2 ^ 20 + off, v, 2⟩)) ∧
  (s.cellExists g = false → exec (.debuggerRead (.tcm g off)) s =
    .next (s.report (hiveOf g) ⟨0x7F00000000000000 + lcidOf g * 2 ^ 20 + off, 0, 2⟩))

/-! ### The host -/

namespace Sys2Proof.Machine

/-- The bridge has read the next descriptor of its ring (R363). -/
def State.descriptorTaken (s : State) (hive : Nat) : State :=
  s.setHive hive { s.hiveAt hive with hrhead := ((s.hiveAt hive).hrhead + 1) % (s.hiveAt hive).hrsize.toNat }

end Sys2Proof.Machine

/-- R363, R364, R290: the doorbell of a ready bridge hive is kept; of an announced descriptor a transfer in writes its bytes at
the controllers and no other byte, a transfer out reads them and changes none, and one that is not accepted changes no byte;
each then completes with a record. With nothing announced no descriptor acts. That the oldest transfer completes first and a
transfer in writes at once is the model's reading (log entry 37), and so is the head that counts descriptors from 0 modulo HRSIZE
(log entry 61). -/
def Claims.HostTransfers : Prop := ∀ (s : State) (hive : Nat) (d : List Word), s.bridgeReady hive = true →
  (∀ tail, exec (.hrtail hive tail) s = .next (s.setHive hive { s.hiveAt hive with hrtail := BitVec.ofNat 64 tail })) ∧
  (∀ data, (s.hiveAt hive).ringHas = true → s.transferOk 0 d = true → data.length = transferLen d → Memory.wf s.mem = true →
    ∃ t, exec (.transferIn hive d data) s = .next t ∧
      Memory.bytes t.mem (transferPhys d) (transferLen d) = data ∧
      (∀ b, b < transferPhys d ∨ transferPhys d + transferLen d ≤ b → t.byte b = s.byte b) ∧
      (t.hiveAt hive).hrhead = ((s.hiveAt hive).hrhead + 1) % (s.hiveAt hive).hrsize.toNat ∧
      Instr.transferComplete hive ∈ t.pending) ∧
  ((s.hiveAt hive).ringHas = true → s.transferOk 1 d = true → s.marks = [] → (∀ h, (s.hiveAt h).mutes = []) →
    ∃ t, exec (.transferOut hive d) s = .next t ∧ t.mem = s.mem ∧
    (t.hiveAt hive).hostJobs = (s.hiveAt hive).hostJobs ++
      [⟨1, transferHive d, d, Memory.bytes s.mem (transferPhys d) (transferLen d), 0⟩] ∧
    Instr.transferComplete hive ∈ t.pending) ∧
  (∀ data, (s.hiveAt hive).ringHas = true → descType d = 0 → s.transferOk 0 d = false →
    exec (.transferIn hive d data) s = .next ((s.descriptorTaken hive).postRecord hive (hostRecord d 0 1 []))) ∧
  (∀ data, (s.hiveAt hive).ringHas = false → exec (.transferIn hive d data) s = .next s ∧
    exec (.transferOut hive d) s = .next s ∧ exec (.hostMessage hive d) s = .next s) ∧
  ∀ x r, (s.hiveAt hive).hostJobs = x :: r → x.kind ≠ 2 → exec (.transferComplete hive) s =
    .next ((s.setHive hive { s.hiveAt hive with hostJobs := r }).postRecord hive (hostRecord x.d 0 x.status x.data))

/-- R23, R363, R364, R306: a message of the host that is accepted is held by the bridge, and enters its ring with its four words
when its job is open; the record says 0. -/
def Claims.HostMessages : Prop := ∀ (s : State) (hive : Nat) (d : List Word),
  (s.bridgeReady hive = true → (s.hiveAt hive).ringHas = true → s.hostMessageOk d = true → exec (.hostMessage hive d) s = .next
    (((s.descriptorTaken hive).setHive hive { (s.descriptorTaken hive).hiveAt hive with
      hostJobs := ((s.descriptorTaken hive).hiveAt hive).hostJobs ++ [⟨2, hiveOf (hostDst d), d, [], 0⟩] }).push
      (.hostMessageDelivery hive))) ∧
  (∀ x j, (s.hiveAt hive).hostJobs = [x] → x.kind = 2 → x.d = d → s.jobOf (hostDst d) = some j → j.2.phase = .open →
    (s.cellAt (hostDst d)).fenced = false → s.arrivalFails (hostInput d) false = false →
    (s.hiveAt (hiveOf (hostDst d))).waitingFor (hostDst d) (hostSlot d) = [] →
    (s.hiveAt (hiveOf (hostDst d))).blocked (hostInput d) = false → s.ringFull (hostDst d) (hostSlot d) = false →
    s.arrivalWaits (hostInput d) = false →
    s.slotQbase (hostDst d) (hostSlot d) + 32 * 2 ^ s.slotQlog (hostDst d) (hostSlot d) ≤ 0x7F000 →
    Memory.wf s.mem = true →
    ∃ t, exec (.hostMessageDelivery hive) s = .next t ∧
      (∀ k : Fin 4, t.read (s.ringAddr (hostDst d) (hostSlot d) (s.slotTail (hostDst d) (hostSlot d)) + 8 * k.val) 8 =
        descWord d (2 + k.val)) ∧
      t.slotTail (hostDst d) (hostSlot d) = (s.slotTail (hostDst d) (hostSlot d) + 1) % 2 ^ 32 ∧
      (t.hiveAt (s.bridgeOf hive)).records = (s.hiveAt (s.bridgeOf hive)).records ++ [hostRecord d 1 0 []])

/-- R298-R305, R388: a launch that the planner can place starts a job at STEP 0 with an open step, empty pens and every strand of
its cells free; one that it refuses (a descriptor out of order, a replica count that is not that of the plans, no plan, or a
plan that does not hold) answers STATUS 1 and changes nothing but what precedes every launch. What is left to the planner is the
operand of the launch (log entry 31); the verbs and STATUS 2 are the model's reading (log entry 38). -/
def Claims.JobLaunched : Prop := ∀ (s : State) (hive : Nat) (p : LaunchPlan), (s.hiveAt hive).stage = 6 →
  (s.hiveAt hive).jobctlStatus = 2 → (s.hiveAt hive).jobctlVerb = 1 →
  (∀ s0 pl, s0 = p.hives.foldl (fun s h => (s.returnCells h).retireUnits h) s →
    launchBad (s.hiveAt hive).launch = false → launchRepl (s.hiveAt hive).launch = 1 →
    s0.buildPlan hive (launchRcb (s.hiveAt hive).launch) p = some pl →
    s0.planOk (launchAllowOld (s.hiveAt hive).launch) pl = true →
    ∃ t j, exec (.jobLaunch hive [p]) s = .next t ∧ t.jobAt s0.nextId = some j ∧ j.step = 0 ∧ j.phase = .open ∧
      j.pen = [] ∧ j.hives = pl.hives ∧ j.cells = pl.cells.map CellPlan.cell ∧ (t.hiveAt hive).jobctlStatus = 0 ∧
      ∀ c ∈ pl.cells, (t.cellAt c.cell).job = some s0.nextId ∧ (t.cellAt c.cell).pmask = c.pmask ∧
        (t.cellAt c.cell).allowEv = c.allowEv ∧ ∀ k : StrandId, (t.strandAt c.cell k).run = .free) ∧
  (∀ s0, s0 = p.hives.foldl (fun s h => (s.returnCells h).retireUnits h) s →
    launchBad (s.hiveAt hive).launch = true ∨ launchRepl (s.hiveAt hive).launch ≠ 1 ∨
      s0.buildPlan hive (launchRcb (s.hiveAt hive).launch) p = none ∨
      (∃ pl, s0.buildPlan hive (launchRcb (s.hiveAt hive).launch) p = some pl ∧
        s0.planOk (launchAllowOld (s.hiveAt hive).launch) pl = false) →
    exec (.jobLaunch hive [p]) s = .next (s0.setHive hive { s0.hiveAt hive with jobctlStatus := 1 })) ∧
  (launchBad (s.hiveAt hive).launch = true → exec (.jobLaunch hive []) s =
    .next (s.setHive hive { s.hiveAt hive with jobctlStatus := 1 }))

/-- R370, R374, R388, R305: the verbs of `JOBCTL` that wait for their answer: one resumes a halted job, which is then neither stopped nor
halted, one ends a job, whose cells are then empty; a resume of a job that is not halted, or that has lost a unit for good, answers
STATUS 3. STATUS 2 until the
answer is the model's reading (log entry 38). -/
def Claims.JobControlled : Prop := ∀ (s : State) (hive n : Nat) (j : Job), (s.hiveAt hive).stage = 6 →
  (s.hiveAt hive).jobctlStatus = 2 → s.jobsNumbered (s.hiveAt hive).jobctlJob = [n] → s.jobAt n = some j →
  ((s.hiveAt hive).jobctlVerb = 2 → j.halted.isSome = true → s.jobWhole j = true → s.routeUsers = [] → ∃ t, exec (.jobResume hive) s = .next t ∧ t.mem = s.mem ∧
    t.jobAt n = some { j with stopped := false, halted := none, lateRoots := [] } ∧ (t.hiveAt hive).jobctlStatus = 0) ∧
  ((s.hiveAt hive).jobctlVerb = 2 → j.halted = none ∨ s.jobWhole j = false → exec (.jobResume hive) s = .next (s.setHive hive { s.hiveAt hive with jobctlStatus := 3 })) ∧
  ((s.hiveAt hive).jobctlVerb = 3 → ∃ t, exec (.jobEnd hive) s = .next t ∧ t.jobAt n = some { j with ended := true } ∧
    (t.hiveAt hive).jobctlStatus = 0 ∧ ∀ g ∈ j.cells, (t.cellAt g).job = none)

/-- R385, R386, R388: `ATTEST` leaves the report and its signature; RETRY starts boot again from a stopped stage; the ring, power
and launch registers of a ready hive are written within their ranges, and JOBCTL sets its verb going with STATUS 2. -/
def Claims.ManagementRegisters : Prop := ∀ (s : State) (hive : Nat) (h : Hive) (v : Word), s.hiveAt hive = h →
  (h.stage = 6 → h.jobctlStatus = 2 → h.jobctlVerb = 4 → ∃ t, exec (.attest hive) s = .next t ∧ t.mem = s.mem ∧ (t.hiveAt hive).jobctlStatus = 0 ∧
    (t.hiveAt hive).attrep = s.reportBody hive ++ edSign (devIdSeed hive) (s.reportBody hive)) ∧
  (h.stage = 15 → exec (.retry hive) s = .next (s.setHive hive { h with
    stage := 1, code := 0, sparesUsed := [], unitMap := [], linked := false })) ∧
  (h.stage = 6 →
    exec (.managementRegisterWrite hive 0x08 v) s = .next (s.setHive hive { h with hrbase := v }) ∧
    (600 ≤ v.toNat % 2 ^ 16 → v.toNat % 2 ^ 16 ≤ 1500 →
      exec (.managementRegisterWrite hive 0x50 v) s = .next (s.setHive hive { h with cap := v.toNat % 2 ^ 16 })) ∧
    exec (.managementRegisterWrite hive 0x108 v) s = .next (s.setHive hive { h with launch := h.launch.set 1 (v &&& 0xF) }) ∧
    (h.jobctlStatus ≠ 2 → v.toNat % 16 = 3 → ∃ t, exec (.managementRegisterWrite hive 0x120 v) s = .next t ∧
      t.hiveAt hive = { h with jobctlJob := v.toNat / 2 ^ 56, jobctlVerb := 3, jobctlStatus := 2 } ∧ Instr.jobEnd hive ∈ t.pending)) ∧
  (h.stage ≠ 6 → ∀ off, off ≠ 0x48 → exec (.managementRegisterWrite hive off v) s = .next s)

/-! ### The drovers -/

/-- R370: `STOP` stops a job, and once every strand has stopped, and no change of routes waits for another job, it goes on. -/
def Claims.JobStops : Prop := ∀ (s : State) (n : Nat) (j : Job), s.jobAt n = some j → j.ended = false → j.halted = none →
  (j.stopped = false → exec (.stop n) s = .next ((s.setJob n { j with stopped := true }).stillPending (.stop n))) ∧
  (s.jobStopped j = true → s.routeUsers = [] → ∃ t, exec (.stop n) s = .next t ∧ t.mem = s.mem ∧
    t.jobAt n = some { j with stopped := false, lateRoots := [] })

/-- R373: a spare takes the place of a cell that no running job uses: its TCM and its Z array are zero and it is at its reset
state. -/
def Claims.SpareTakesOver : Prop := ∀ (s : State) (g : CellId), s.unitIdle (.cell g) = true → (s.cellAt g).job = none →
  g < 2 ^ 18 → (s.hiveAt (hiveOf g)).used (.comb (hiveOf g) (combIndex g)) < 2 →
  ∃ t, exec (.spareBringIn (.cell g)) s = .next t ∧ (∀ a, a < 2 ^ 19 → t.byte (tcmBase g + a) = 0) ∧
    (∀ a, a < 2 ^ 17 → t.byte (zAddr g 0 + a) = 0) ∧ (t.cellAt g).fenced = false ∧
    (∀ k : StrandId, (t.strandAt g k).run = .free) ∧
    (t.hiveAt (hiveOf g)).used (.comb (hiveOf g) (combIndex g)) =
      (s.hiveAt (hiveOf g)).used (.comb (hiveOf g) (combIndex g)) + 1

/-- R369, R372, R388 (log entry 39): a cell that fails to answer two successive probes is fenced, and the job whose actors it holds is
halted with cause 4; one that answers is not. -/
def Claims.ProbesFence : Prop := ∀ (s : State) (g : CellId), (s.cellAt g).fenced = false →
  (∀ c k n, (s.strandAt c k).run ≠ .parked (.swarm n)) →
  (exec (.cellProbe g true) s = .next (s.setHive (hiveOf g)
    { s.hiveAt (hiveOf g) with missedProbes := drop (s.hiveAt (hiveOf g)).missedProbes g })) ∧
  (look (s.hiveAt (hiveOf g)).missedProbes g = none → ∃ t, exec (.cellProbe g false) s = .next t ∧
    t.cells = s.cells ∧ look (t.hiveAt (hiveOf g)).missedProbes g = some 1) ∧
  (look (s.hiveAt (hiveOf g)).missedProbes g = some 1 → ∃ t, exec (.cellProbe g false) s = .next t ∧ t.mem = s.mem ∧
    (t.cellAt g).fenced = true ∧
    ∀ n j, (s.cellAt g).job = some n → (s.cellAt g).slots ≠ [] → s.jobAt n = some j → j.halted = none → j.ended = false →
      ∃ j', t.jobAt n = some j' ∧ j'.halted = some 4 ∧ j'.stopped = true)

/-- R354, R375, R369, R388 (log entry 39): a retransmission, where the policy of its class is off, is noted and changes no memory and no cell; a lost hive is fenced and its job halts with
cause 5. -/
def Claims.LinksAndHives : Prop := ∀ (s : State) (hive : Nat),
  (∀ link, (s.hiveAt hive).policy 2 % 2 = 0 → ∃ t, exec (.flitRetransmission hive link) s = .next t ∧ t.mem = s.mem ∧
    t.cells = s.cells ∧ t.jobs = s.jobs ∧ t.pending = s.pending ∧
    (t.hiveAt hive).events = (2, .link hive link, s.now) :: (s.hiveAt hive).events) ∧
  (∀ n j, s.jobs = [(n, j)] → hive ∈ j.hives → j.halted = none → j.ended = false →
    ∃ t j', exec (.hiveLost hive) s = .next t ∧ t.mem = s.mem ∧ (t.hiveAt hive).lost = true ∧ t.jobAt n = some j' ∧
      j'.halted = some 5 ∧ j'.stopped = true ∧ ∀ x ∈ t.cells, hiveOf x.1 = hive → x.2.fenced = true)

/-! ### Power, temperature and boot -/

namespace Sys2Proof.Machine

/-- The code with which the bytes of an image slot fail, 0 when they verify (R385). -/
def verifyRule (l : List Byte) (counter : Nat) : Nat :=
  match imageOf l with
  | none => 2
  | some i =>
    if i.key.length ≠ 57 ∨ ¬ (shake256 i.key 32 = Config.vendorDigest false ∨ shake256 i.key 32 = Config.vendorDigest true) then 2
    else if edVerify i.key i.body i.signature = false then 1
    else if i.svn < counter then 3 else 0

/-- R383, R385: what the stages of boot leave in a hive. -/
def State.bootRule (s : State) (h : Hive) : Instr → Option Hive
  | .powerOn _ => if h.stage = 0 ∧ h.alarm = false then some { h with stage := 1, code := 0 } else none
  | .pufEvaluation _ ok =>
    if h.stage ≠ 1 then none else if ok then some { h with stage := 2 } else some { h with stage := 15, code := 4 }
  | .imageVerification hive counterOk slotA slotB =>
    let a := s.slotBytesOf hive 0
    let b := s.slotBytesOf hive 1
    if h.stage ≠ 2 ∨ counterOk ≠ s.counterOk hive ∨ slotA ≠ imageOf a ∨ slotB ≠ imageOf b then none
    else if s.counterOk hive = false then some { h with stage := 15, code := 5 }
    else if verifyRule a (s.counter hive) = 0 then some (h.takeImage 0 a)
    else if verifyRule b (s.counter hive) = 0 then some (h.takeImage 1 b)
    else some { h with stage := 15, code := verifyRule b (s.counter hive) }
  | .linkTraining hive ok =>
    if h.stage = 6 then some (if ok then { h with endpoint := s.bridgeOf hive == hive } else h)
    else if h.stage ≠ 5 then none
    else if ok then some { h with linked := true, endpoint := s.bridgeOf hive == hive }
    else some { h with stage := 15, code := 7 }
  | _ => none

/-- The hive that a happening of boot concerns. -/
def bootHive : Instr → Nat
  | .powerOn h | .pufEvaluation h _ | .imageVerification h _ _ _ | .linkTraining h _ => h
  | _ => 0

end Sys2Proof.Machine

/-- R373, R374, R383, R385: each stage of boot ends in the next one, or in stage 15 with its code; the tables of the boot image
are set; the counter block advances at the start of the firmware; the recovery window takes a byte for slot B in stage 15 and no
other byte of the flash changes. Code 2 for bytes that are no image and the place of slot B are the model's own (log entry 20), and
so is the code of slot B where both fail (log entry 41). -/
def Claims.BootStages : Prop :=
  (∀ (i : Instr) (s : State) (h : Hive), s.bootRule (s.hiveAt (bootHive i)) i = some h →
    exec i s = .next (s.setHive (bootHive i) h)) ∧
  (∀ (s : State) (hive : Nat) (h : Hive), s.hiveAt hive = h → h.stage = 3 →
    ∀ m, h.maps = m → (m.wellFormed = true → (∀ u ∈ m.units, unitHive u.1 = hive) →
      ∃ t, exec (.repairMapApply hive m) s = .next t ∧ t.mem = s.mem ∧ (t.hiveAt hive).stage = 4 ∧
        (t.hiveAt hive).absentCells = m.absentCells ∧ (t.hiveAt hive).absentCombs = m.absentCombs ∧
        (t.hiveAt hive).absentDies = m.absentDies ∧ (t.hiveAt hive).homeDie = homeTable m.absentDies ∧
        (t.hiveAt hive).bridgeColumn = m.bridgeColumn % 8 ∧ (t.hiveAt hive).unitMap = m.units) ∧
      (m.wellFormed = false →
        exec (.repairMapApply hive m) s = .next (s.setHive hive { h with stage := 15, code := 6 }))) ∧
  (∀ (s : State) (hive : Nat) (h : Hive), s.hiveAt hive = h → h.stage = 5 → h.linked = true →
    ∃ t, exec (.firmwareStart hive) s = .next t ∧ t.mem = s.mem ∧ t.hiveAt hive = { h with stage := 6 } ∧
      (s.counter hive < 2 ^ 32 → h.svn < 2 ^ 32 → t.counter hive = max (s.counter hive) h.svn)) ∧
  ∀ (s : State) (hive off : Nat) (v : Byte), (s.hiveAt hive).stage = 15 → 0x01000000 ≤ off → off < 0x04000000 →
    ∃ t, exec (.recoveryWindowWrite hive off v) s = .next t ∧ t.mem = s.mem ∧ t.hives = s.hives ∧
      t.flashByte hive (2 ^ 26 + (off - 0x01000000)) = v ∧
      ∀ k, k ≠ 2 ^ 26 + (off - 0x01000000) → t.flashByte hive k = s.flashByte hive k

/-- R277, R385, R383: stage 4 ends with every cell and comb of the hive reset, its TCM, Z arrays and scratchpads zero, and the
super and the LPDDR6 as they were; removing the power ends at stage 0 with every memory of the hive reading 0, which is the model's
choice for the super and the LPDDR6 (log entry 2); a module reset of a powered hive goes back to stage 1 and changes no memory.
That T0 is the end of stage 4 is the model's reading (log entry 27). -/
def Claims.MemoriesCleared : Prop := ∀ (s : State) (hive : Nat), hive < 64 →
  ((s.hiveAt hive).stage = 4 → ∃ t, exec (.memoryClear hive) s = .next t ∧ (t.hiveAt hive).stage = 5 ∧
    (t.hiveAt hive).t0 = s.now ∧
    (∀ g a, hiveOf g = hive → a < 2 ^ 19 → t.byte (tcmBase g + a) = 0) ∧
    (∀ g i, hiveOf g = hive → i < 16384 → t.read (zAddr g i) 8 = 0) ∧
    (∀ c a, c < 256 → a < 2 ^ 22 → t.byte (scratchAddr (hive * 256 + c) a) = 0) ∧
    (∀ a, 2 ^ 44 ≤ a → t.byte a = s.byte a) ∧ ∀ g, hiveOf g = hive → t.cellAt g = Cell.reset) ∧
  (∃ t, exec (.powerRemoval hive) s = .next t ∧ (t.hiveAt hive).stage = 0 ∧ (t.hiveAt hive).alarm = false ∧
    (∀ g a, hiveOf g = hive → a < 2 ^ 19 → t.byte (tcmBase g + a) = 0) ∧
    (∀ g i, hiveOf g = hive → i < 16384 → t.read (zAddr g i) 8 = 0) ∧
    (∀ c a, c < 256 → a < 2 ^ 22 → t.byte (scratchAddr (hive * 256 + c) a) = 0) ∧
    (∀ a, a < 2 ^ 39 → t.byte (superAddr hive a) = 0) ∧ (∀ a, a < 2 ^ 40 → t.byte (lpddrAddr hive a) = 0) ∧
    ∀ g, hiveOf g = hive → t.cellAt g = Cell.reset) ∧
  ((s.hiveAt hive).stage ≠ 0 → ∃ t, exec (.moduleReset hive) s = .next t ∧ (t.hiveAt hive).stage = 1 ∧ t.mem = s.mem)

/-- R383, R384, R387: 2^16 cycles after the last, a power period above the cap moves the clock one step down, with issue stopped for 1,024 cycles; 100 degrees holds
the slowest step; 115 degrees raises the alarm, halts the job with cause 7 and powers the hive down 2^20 cycles later, with
the alarm still up. `PERST` resets the endpoint only. -/
def Claims.PowerAndHeat : Prop := ∀ (s : State) (hive : Nat) (h : Hive), s.hiveAt hive = h →
  (∀ w, h.stage = 6 → h.periodAt + 2 ^ 16 ≤ s.now → h.hot = false → h.cap < w → h.clock < 4 → ∃ t, exec (.powerPeriodEnd hive w) s = .next t ∧
    t.mem = s.mem ∧ (t.hiveAt hive).clock = h.clock + 1 ∧ (t.hiveAt hive).stallUntil = s.now + 1024 ∧
    (t.hiveAt hive).avgPower = w ∧ Instr.clockStallEnd ∈ t.pending) ∧
  ((∀ x ∈ s.hives, x.2.stallUntil ≤ s.now) → exec .clockStallEnd s =
    .next { s with hives := s.hives.map fun x => (x.1, { x.2 with stallUntil := 0 }) }) ∧
  (∀ c, h.stage = 6 → h.sampledAt + 2 ^ 16 ≤ s.now → 100 ≤ c → c < 115 → ∃ t, exec (.thermalSample hive c) s = .next t ∧ t.mem = s.mem ∧
    (t.hiveAt hive).clock = 4 ∧ (t.hiveAt hive).hot = true ∧ (t.hiveAt hive).temp = c) ∧
  (∀ c n j, h.stage = 6 → h.sampledAt + 2 ^ 16 ≤ s.now → 115 ≤ c → h.alarm = false → s.jobs = [(n, j)] → hive ∈ j.hives → j.halted = none →
    j.ended = false → ∃ t j', exec (.thermalSample hive c) s = .next t ∧ (t.hiveAt hive).alarm = true ∧
      (t.hiveAt hive).powerDownAt = some (s.now + 2 ^ 20) ∧ t.jobAt n = some j' ∧ j'.halted = some 7 ∧
      Instr.thermalPowerDown ∈ t.pending) ∧
  (∀ c, s.hives = [(hive, h)] → h.powerDownAt = some c → c ≤ s.now → s.jobs = [] → ∃ t,
    exec .thermalPowerDown s = .next t ∧ (t.hiveAt hive).stage = 0 ∧ (t.hiveAt hive).alarm = true) ∧
  exec .perst s = .next { s with hives := s.hives.map fun x => (x.1, { x.2 with endpoint := false }) }

/-! ### Instructions followed to their end -/

namespace Sys2Proof.Machine

/-- The state after a list of instructions and happenings, when each of them answers a next state. -/
def State.after (s : State) : List Instr → Option State
  | [] => some s
  | i :: r => match exec i s with
    | .next t => t.after r
    | _ => none

/-- What follows an instruction in an engine's queue: its start and its retirement (R177). -/
def State.engineSteps (s : State) (e : Eng) : List Instr :=
  [.engineInstructionStart s.curCell e, .engineInstructionRetire s.curCell e]

/-- A firing with nothing outstanding, an engine with nothing queued, no Z instruction before its own, no bank being zeroed and
no flag enabled. -/
def State.EngineFree (s : State) (e : Eng) : Prop :=
  s.Quiet ∧ s.me.firing.isSome = true ∧ s.cell.queue e = [] ∧ s.zWaits = false ∧ s.cell.zeroing = false ∧ s.me.fenable = 0

/-- The instruction has retired: its entry is gone, its shadow has ended, and the strand has gone past it with these
registers. -/
def State.Retired (s t : State) (e : Eng) (ws : Vector Word 64) : Prop :=
  t.cell.queue e = [] ∧ t.me.shadow = none ∧ t.me.pc = s.me.pc + 4 ∧ t.me.run = .issuing ∧ t.me.ws = ws

/-- The pointer words that a V instruction reads (R146). -/
def vecWords (t : Strand) (i : Instr) : List Word := i.ptrArgs.map fun p => t.p p.reg

/-- The strand with the pointers of a V instruction advanced (R147). -/
def Strand.vecAdvanced (t : Strand) (i : Instr) : Strand := t.advance (i.ptrArgs.zip (vecOperands t.vl i))

/-- The queue entry of a V instruction that the current strand issues, once it has started (R151). -/
def State.vecEntry (s : State) (i : Instr) : EngEntry :=
  ⟨s.cell.nextId, s.curStrand, s.me.fid, s.me.slotNo, s.actorCell, s.me.fenable, s.me.pc, i, [], vecWords s.me i, s.me.vl, 0, true,
    none, 0, 0, false, false, 0, none⟩

/-- An element of operand A or B of an integer multiply, and its sum of products for accumulator j (R75, R203, R206-R208). -/
def Multiply.intA (q : Multiply) (l : List Byte) (m k : Nat) : Int :=
  match q.a with
  | .delta => (if q.bitsA = 0 then q.d else toSigned q.bitsA (fifoElem l q.bitsA k)) * 2 ^ q.scale
  | .fmt f => intVal f (fifoElem l q.bitsA (m * q.k + k))
def Multiply.intB (q : Multiply) (l : List Byte) (k n : Nat) : Int :=
  intVal q.fb (fifoElem l (elemBits q.fb) (if q.bn then k * q.n + n else n * q.k + k))
def Multiply.intSum (q : Multiply) (fa fb : List Byte) (j : Nat) : Int :=
  ((List.range q.k).map fun k => q.intA fa (j / q.n) k * q.intB fb k (j % q.n)).sum

end Sys2Proof.Machine

/-- R146-R151, R153, R154, R158, R80: `VADD`, `VSUB`, `VMUL`, `VMIN`, `VMAX`, `VAND`, `VOR`, `VXOR`, `VSHL` and `VSHR` complete: the
instruction issues, starts and retires, every element of D has its value, no other byte of memory has changed, the pointers of
the `pN+` forms have advanced, and the flags are in FFLAGS. -/
def Claims.VectorLanesComplete : Prop :=
  ∀ (i : Instr) (s : State) (f : Fmt) (op : Nat → Nat → Nat × Flags) (pd pa pb : Word) (e : Nat),
  s.EngineFree .vu → lanewise i = some (f, op) → elemHalf f = 2 * e → 0 < e → vecWords s.me i = [pd, pa, pb] →
  checkPtrs (vecPtrs s.me i) = .ok () → s.TcmOpen s.curCell → contiguous pd s.me.vl e → contiguous pa s.me.vl e →
  contiguous pb s.me.vl e → apart pd pa s.me.vl e → apart pd pb s.me.vl e → Memory.wf s.mem = true →
  ∃ u t, exec i s = .next u ∧ u.after (s.engineSteps .vu) = some t ∧
    (∀ k, k < s.me.vl → t.element s.curCell pd e k =
      (op (s.element s.curCell pa e k) (s.element s.curCell pb e k)).1 % 256 ^ e) ∧
    (∀ a, a < tcmBase s.curCell + ptrAddr pd ∨ tcmBase s.curCell + ptrAddr pd + s.me.vl * e ≤ a → t.byte a = s.byte a) ∧
    s.Retired t .vu ((s.me.vecAdvanced i).raiseFlags ((List.range s.me.vl).foldl
      (fun fl k => fl ||| (op (s.element s.curCell pa e k) (s.element s.curCell pb e k)).2) 0)).ws

/-- R146-R151, R153, R154, R159-R170, R80: `VMA`, `VCMP`, `VSEL`, `VCVT`, `VRED`, `VDOT`, `VSCAN`, `VPERM`, `VGATH`, `VSCAT`, `VFILL`,
`VCOPY`, `VCLMUL`, `VHASH`, `VCMPB` and `VFINDB` complete, shown on one element: the instruction issues, starts and retires, D has
its value, no other byte of memory has changed, the pointers of the `pN+` forms have advanced, and the flags are in FFLAGS. -/
def Claims.VectorElementCompletes : Prop :=
  ∀ (i : Instr) (s : State) (d n v : Nat) (fl : Flags),
  s.EngineFree .vu → i.wf = true → wholeBytes i = true → s.me.vl = 1 → checkPtrs (vecPtrs s.me i) = .ok () →
  s.TcmOpen s.curCell → (∀ p ∈ vecWords s.me i, contiguous p 1 16) →
  s.singleRule s.curCell (s.vecEntry i) = some (d, n, v, fl) → d + 16 ≤ 0x60000 →
  (∀ f a b c, i = .vgath f a b c →
    baseOffset (s.me.p b) (vecBytes f) (s.read (tcmBase s.curCell + ptrAddr (s.me.p c.reg)) 4) + 16 ≤ 0x60000) →
  Memory.wf s.mem = true →
  ∃ u t, exec i s = .next u ∧ u.after (s.engineSteps .vu) = some t ∧ t.read (tcmBase s.curCell + d) n = v % 256 ^ n ∧
    (∀ a, a < tcmBase s.curCell + d ∨ tcmBase s.curCell + d + n ≤ a → t.byte a = s.byte a) ∧
    s.Retired t .vu ((s.me.vecAdvanced i).raiseFlags fl).ws

/-- R21, R60, R77, R78, R80, R146-R151, R153, R154, R158-R170: every V instruction, of any format that it accepts, through pointers of any
mode, with any overlap, completes: it issues, starts and retires, the TCM of its cell is as its elements, one at a time in
ascending order, or its one result leave it, no other byte of memory has changed, the pointers of the `pN+` forms have
advanced, and the flags are in FFLAGS. -/
def Claims.VectorCompletes : Prop := ∀ (i : Instr) (s : State) (r : VecRun), s.EngineFree .vu → i.isVec = true → i.wf = true →
  checkPtrs (vecPtrs s.me i) = .ok () → s.TcmOpen s.curCell → Memory.wf s.mem = true →
  vecRule i (vecWords s.me i) s.me.vl 0 0 (s.tcmOf s.curCell) = some r →
  ∃ u t, exec i s = .next u ∧ u.after (s.engineSteps .vu) = some t ∧ s.TcmTakes t s.curCell r.mem ∧
    s.Retired t .vu ((s.me.vecAdvanced i).raiseFlags r.flags).ws

/-- R74, R75, R202-R208, R80: `CDMAC`, `CDMACV` and `MMA` with a listed pairing whose operand bytes are in the FIFOs complete:
every accumulator has the sum of its products added (for the integer formats as integers modulo 2^64), ZOV stays set or is set
by an overflow, no other byte of memory changes, and the operand bytes leave the FIFOs. -/
def Claims.MultiplyCompletes : Prop := ∀ (i : Instr) (s : State) (d a b : WReg) (q : Multiply) (p : Pairing),
  s.EngineFree .sce → ((∃ f bn, i = .cdmac f bn d a b) ∨ (∃ f bn, i = .cdmacv f bn d a b) ∨ (∃ fa f bn, i = .mma fa f bn d a b)) →
  multiplyOf i (s.w d) (s.w a) (s.w b) = some q → q.bad (s.w d) = false → pairing q.a q.fb = some p →
  q.bytesA ≤ s.cell.fifoA.length → q.bytesB ≤ s.cell.fifoB.length → s.marks = [] → Memory.wf s.mem = true →
  let acc := fun j => q.acc s.cell.fifoA s.cell.fifoB p (s.z s.curCell (q.zb + j)) j
  ∃ u t, exec i s = .next u ∧ u.after (s.engineSteps .sce) = some t ∧
    (∀ j, j < q.m * q.n → t.z s.curCell (q.zb + j) = (acc j).1 % 2 ^ 64 ∧
      t.zovAt s.curCell (q.zb + j) = (s.zovAt s.curCell (q.zb + j) || (acc j).2.1)) ∧
    (p = .exact 0 → ∀ j, j < q.m * q.n → t.z s.curCell (q.zb + j) =
      ofInt 64 (toSigned 64 (s.z s.curCell (q.zb + j)) + q.intSum s.cell.fifoA s.cell.fifoB j)) ∧
    (∀ c, c < zAddr s.curCell q.zb ∨ zAddr s.curCell (q.zb + q.m * q.n) ≤ c → t.byte c = s.byte c) ∧
    t.cell.fifoA = s.cell.fifoA.drop q.bytesA ∧ t.cell.fifoB = s.cell.fifoB.drop q.bytesB ∧
    s.Retired t .sce (s.me.raiseFlags ((List.range (q.m * q.n)).foldl (fun fl j => fl ||| (acc j).2.2) 0)).ws

/-- R210: `ZCLR` completes: every accumulator that it names reads 0 with ZOV clear, no other byte of memory changes, and FLUSHF
empties both FIFOs. -/
def Claims.ClearCompletes : Prop := ∀ (s : State) (a b : WReg), s.EngineFree .sce → (s.w a).toNat < 16384 →
  (s.w b).toNat / 2 ^ 15 % 2 ^ 48 = 0 → (s.w a).toNat + (s.w b).toNat % 2 ^ 15 ≤ 16384 → Memory.wf s.mem = true →
  ∃ u t, exec (.zclr a b) s = .next u ∧ u.after (s.engineSteps .sce) = some t ∧
    (∀ k, k < (s.w b).toNat % 2 ^ 15 → t.z s.curCell ((s.w a).toNat + k) = 0 ∧ t.zovAt s.curCell ((s.w a).toNat + k) = false) ∧
    (∀ c, c < zAddr s.curCell (s.w a).toNat ∨ zAddr s.curCell ((s.w a).toNat + (s.w b).toNat % 2 ^ 15) ≤ c → t.byte c = s.byte c) ∧
    t.cell.fifoA = (if (s.w b).getLsbD 63 then [] else s.cell.fifoA) ∧
    t.cell.fifoB = (if (s.w b).getLsbD 63 then [] else s.cell.fifoB) ∧ s.Retired t .sce s.me.ws

/-- R212, R80: `ZCVT` to a format of whole bytes completes: every element in TCM is its accumulator converted, with CLR the
accumulators read 0 with ZOV clear, no other byte of memory changes, and the flags are in FFLAGS. -/
def Claims.ConversionCompletes : Prop :=
  ∀ (s : State) (f : Fmt) (rm : Rm) (sat : Bool) (d a b : WReg) (e : Nat), s.EngineFree .sce → s.TcmOpen s.curCell →
  s.curCell < 2 ^ 18 → elemHalf f = 2 * e → 0 < e → zcvtBad (s.w a) = false → (s.w b).toNat < 2 ^ 7 → (s.w d).toNat % e = 0 →
  (s.w d).toNat + zcvtCount (s.w a) * e ≤ 0x60000 → Memory.wf s.mem = true →
  let zb := shapeZb (s.w a)
  let val := fun k => convertVal f rm sat (zValue (zcvtKind (s.w a)) (s.z s.curCell (zb + k)) ((s.w b).toNat % 64))
  ∃ u t, exec (.zcvt f rm sat d a b) s = .next u ∧ u.after (s.engineSteps .sce) = some t ∧
    (∀ k, k < zcvtCount (s.w a) → t.read (tcmBase s.curCell + (s.w d).toNat + k * e) e = (val k).1 % 256 ^ e) ∧
    (∀ k, k < zcvtCount (s.w a) → (s.w b).getLsbD 6 = true →
      t.z s.curCell (zb + k) = 0 ∧ t.zovAt s.curCell (zb + k) = false) ∧
    (∀ c, c < tcmBase s.curCell + (s.w d).toNat ∨ tcmBase s.curCell + (s.w d).toNat + zcvtCount (s.w a) * e ≤ c →
      (s.w b).getLsbD 6 = false ∨ c < zAddr s.curCell zb ∨ zAddr s.curCell (zb + zcvtCount (s.w a)) ≤ c → t.byte c = s.byte c) ∧
    s.Retired t .sce (s.me.raiseFlags ((List.range (zcvtCount (s.w a))).foldl
      (fun fl k => fl ||| ((val k).2 ||| if s.zovAt s.curCell (zb + k) then flagNV else 0)) 0)).ws

/-- R213, R214: `SDCFG` of a descriptor in order completes: the cell's channel is the 136 doublewords in TCM, the other channels
and memory stay. -/
def Claims.ChannelConfigured : Prop := ∀ (s : State) (a b : WReg) (ch : Channel), s.EngineFree .sdu → s.TcmOpen s.curCell →
  (s.w a).toNat < 8 → (s.w b).toNat % 64 = 0 → (s.w b).toNat + 1088 ≤ 0x60000 →
  ch = s.readChannel s.curCell (s.w b).toNat s.me.slotNo s.actorCell →
  ch.firstBad (s.route s.actorCell s.me.slotNo ch.edge).isSome = none →
  ∃ u t, exec (.sdcfg a b) s = .next u ∧ u.after (s.engineSteps .sdu) = some t ∧ t.mem = s.mem ∧
    t.cell.chan (s.w a).toNat = some ch ∧ (∀ n, n ≠ (s.w a).toNat → t.cell.chan n = s.cell.chan n) ∧ s.Retired t .sdu s.me.ws

/-- R82, R83, R215-R217: `SDSCAN` of one element, and `SDFLUSH` of a channel of one, complete: below the threshold nothing is
sent and memory stays; else S takes its new value, no other byte changes, a unit of ALLOW.EV is taken, and the event goes to
the consumer of its index on the channel's edge. -/
def Claims.ScanCompletes : Prop :=
  ∀ (s : State) (i : Instr) (a b : WReg) (ch : Channel) (first theta : Nat), s.EngineFree .sdu → s.TcmOpen s.curCell →
  (i = .sdscan a b ∧ (s.w b).toNat = first + 2 ^ 16 ∧ first < 2 ^ 14 ∧ theta = ch.theta ∧ first + 1 ≤ ch.nel) ∨
    (i = .sdflush a ∧ first = 0 ∧ theta = 1 ∧ ch.nel = 1) →
  (s.w a).toNat < 8 → s.cell.chan (s.w a).toNat = some ch → ch.sbase + 8 * first + 8 ≤ 0x60000 → Memory.wf s.mem = true →
  let at_ := tcmBase s.curCell + ch.sbase + 8 * first
  let x := ch.input (s.z s.curCell (ch.zb + first))
  let sv := toSigned 64 (s.read at_ 8)
  let q := ch.quantise (ch.activate x.1 - sv)
  ch.clampQ q = q →
  (q.natAbs < theta → ∃ u t, exec i s = .next u ∧ u.after (s.engineSteps .sdu) = some t ∧ t.mem = s.mem ∧
    t.cell.allowEv = s.cell.allowEv ∧ s.Retired t .sdu (s.me.raiseFlags x.2).ws) ∧
  (theta ≤ q.natAbs → 0 < s.cell.allowEv → ∀ e c sl, s.route ch.home ch.slot ch.edge = some e →
    e.consumer ((ch.idx0 + first) % 2 ^ 32) = some (c, sl) →
    ∃ u t inp, exec i s = .next u ∧ u.after (s.engineSteps .sdu) = some t ∧
      t.read at_ 8 = ofInt 64 (sat64 (sv + q * (2 ^ ch.scale : Nat))) ∧ (∀ c, c < at_ ∨ at_ + 8 ≤ c → t.byte c = s.byte c) ∧
      arrivalOf inp ∈ t.pending ∧ inp.dst = c ∧ inp.slot = sl ∧ inp.kind = .event ∧
      inp.w1 = BitVec.ofNat 64 ((ch.idx0 + first) % 2 ^ 32) ∧ inp.w2 = BitVec.ofInt 64 q ∧
      t.cell.allowEv = s.cell.allowEv - 1 ∧ s.Retired t .sdu (s.me.raiseFlags x.2).ws)

namespace Sys2Proof.Machine

/-- The mailbox entry of a copy that was not refused (R49, R182). -/
def copyEntryRule (w : Word) : Word :=
  BitVec.ofNat 64 (w.toNat / 2 ^ 20 % 2 ^ 16 + w.toNat / 2 ^ 36 % 64 * 2 ^ 16 + w.toNat % 2 ^ 20 * 2 ^ 28)

/-- A copy of up to 64 bytes from a TCM range to a TCM range that are open, apart, and in cells that take it. -/
def State.CopyReady (s : State) (w : Word) (r g : CellId) (src off : Nat) : Prop :=
  s.EngineFree .forager ∧ s.copies = [] ∧ copyLen w ≤ 64 ∧ src + copyLen w ≤ 0x60000 ∧ off + copyLen w ≤ 0x60000 ∧
  s.TcmOpen r ∧ s.TcmOpen g ∧ (s.cellAt r).zeroing = false ∧ (s.cellAt g).zeroing = false ∧ (s.cellAt g).fenced = false ∧
  copyNomb w = false ∧ (s.cellAt g).mailbox.length < 32 ∧
  (∀ x ∈ (s.hiveAt (hiveOf g)).waiting, x.input?.isSome = true ∨ x.dst ≠ g) ∧
  (tcmBase g + off + copyLen w ≤ tcmBase r + src ∨ tcmBase r + src + copyLen w ≤ tcmBase g + off) ∧ Memory.wf s.mem = true

/-- The copy is done: its bytes are at the destination and no other byte has changed, its mailbox entry is there, and its
instruction has retired. -/
def State.CopyDone (s t : State) (w : Word) (r g : CellId) (src off : Nat) : Prop :=
  (∀ k, k < copyLen w → t.byte (tcmBase g + off + k) = s.byte (tcmBase r + src + k)) ∧
  (∀ a, a < tcmBase g + off ∨ tcmBase g + off + copyLen w ≤ a → t.byte a = s.byte a) ∧
  (t.cellAt g).mailbox = (s.cellAt g).mailbox ++ [copyEntryRule w] ∧ t.copies = [] ∧ s.Retired t .forager s.me.ws

end Sys2Proof.Machine

/-- R182-R187, R325, R49: `PUSH` and `PUSHX` complete: the instruction issues, starts, is taken in by the source cell where it is
a `PUSHX`, moves its bytes, enters its mailbox entry and retires. -/
def Claims.CopiesComplete : Prop := ∀ (s : State) (d a b : WReg) (g : CellId) (off : Nat),
  (∀ src, s.CopyReady (s.w b) s.curCell g src off → s.copyCheck false (s.w a) (s.w b) (s.w d) = .ok () →
    ownAddr s.curCell (s.w a).toNat = src → s.pushDest (s.w d).toNat (copyLen (s.w b)) = some (.tcm g off) →
    ∃ u t, exec (.push d a b none) s = .next u ∧ u.after [.engineInstructionStart s.curCell .forager,
      .copyBlockWrite s.nextId, .copyCompletion s.nextId, .copyRetirement s.nextId] = some t ∧
      s.CopyDone t (s.w b) s.curCell g src off) ∧
  (∀ r src, s.CopyReady (s.w b) r g src off → s.copyCheck true (s.w a) (s.w b) (s.w d) = .ok () →
    s.windowCell (hiveOf s.curCell) (s.w a).toNat = some (r, src) → s.copyDest (s.w d).toNat (copyLen (s.w b)) = some (.tcm g off) →
    (s.cellAt r).fenced = false → (s.cellAt r).proxies = [] → s.pushAllowed r s.curCell = true →
    ∃ u t, exec (.pushx d a b none) s = .next u ∧ u.after [.engineInstructionStart s.curCell .forager,
      .pushxProxyEntry s.nextId, .copyBlockWrite s.nextId, .copyCompletion s.nextId, .copyRetirement s.nextId] = some t ∧
      s.CopyDone t (s.w b) r g src off)

/-- R193-R195, R197-R199: `FACT`, `FCONS.a`, `FCONS.b`, `FCONS.m`, `FWRITE` and `FPRE` complete: `FACT` on a granted bank whose
conditions are met opens the row; on an open row the others move its 1,024 bytes to a FIFO or to TCM, take 1,024 bytes into the
port, and close it. -/
def Claims.FramesComplete : Prop := ∀ (s : State) (n : Fin 4) (a : WReg), s.EngineFree .forager →
  (rowWordOk (s.w a) → (s.port s.curCell n).isOpen = false → s.otherPort s.curCell n (rowBank (s.w a)) = none →
    (s.frameBank (combOf s.curCell) (rowBank (s.w a))).grant = some s.curCell →
    s.mayActivate (combOf s.curCell) (rowBank (s.w a)) (rowGuard (s.w a)) = true →
    ∃ u t, exec (.fact n a) s = .next u ∧ u.after [.engineInstructionStart s.curCell .forager, .frameActivate s.curCell] = some t ∧
      t.mem = s.mem ∧ t.port s.curCell n = ⟨.opening, (s.w a).toNat % 2 ^ 7, (s.w a).toNat / 2 ^ 16 % 2 ^ 14,
        (s.w a).toNat / 2 ^ 32 % 2 ^ 12, false, [], s.now⟩ ∧ s.Retired t .forager s.me.ws) ∧
  (s.RowOpen s.curCell n → s.TcmOpen s.curCell → Memory.wf s.mem = true →
    (s.cell.fifoA.length + 1024 ≤ 8192 → ∃ u t, exec (.fconsA n) s = .next u ∧ u.after (s.engineSteps .forager) = some t ∧
      t.mem = s.mem ∧ t.cell.fifoA = s.cell.fifoA ++ Memory.bytes s.mem (s.rowAt s.curCell n) 1024 ∧
      s.Retired t .forager s.me.ws) ∧
    (s.cell.fifoB.length + 1024 ≤ 16384 → ∃ u t, exec (.fconsB n) s = .next u ∧ u.after (s.engineSteps .forager) = some t ∧
      t.mem = s.mem ∧ t.cell.fifoB = s.cell.fifoB ++ Memory.bytes s.mem (s.rowAt s.curCell n) 1024 ∧
      s.Retired t .forager s.me.ws) ∧
    ((s.w a).toNat % 64 = 0 → (s.w a).toNat + 1024 ≤ 0x60000 →
      (∃ u t, exec (.fconsM n a) s = .next u ∧ u.after (s.engineSteps .forager) = some t ∧
        (∀ k, k < 1024 → t.byte (tcmBase s.curCell + (s.w a).toNat + k) = s.byte (s.rowAt s.curCell n + k)) ∧
        (∀ c, c < tcmBase s.curCell + (s.w a).toNat ∨ tcmBase s.curCell + (s.w a).toNat + 1024 ≤ c → t.byte c = s.byte c) ∧
        s.Retired t .forager s.me.ws) ∧
      ∃ u t, exec (.fwrite n a) s = .next u ∧ u.after (s.engineSteps .forager) = some t ∧ t.mem = s.mem ∧
        (t.port s.curCell n).dirty = true ∧
        (t.port s.curCell n).data = Memory.bytes s.mem (tcmBase s.curCell + (s.w a).toNat) 1024 ∧ s.Retired t .forager s.me.ws) ∧
    ((s.port s.curCell n).actAt + 45 ≤ s.now → ∃ u t, exec (.fpre n) s = .next u ∧
      u.after (s.engineSteps .forager) = some t ∧ t.mem = s.mem ∧ (t.port s.curCell n).state = .closed ∧
      s.Retired t .forager s.me.ws))

/-- R171, R172, R26: `SWARM` completes: every follower cell grants its claim, and the leader and each follower go on at the word
after it as members with their indexes. -/
def Claims.SwarmCompletes : Prop := ∀ (n : SwarmSize) (s : State) (k : Nat → StrandId), s.Quiet → s.me.sv = false →
  s.me.swm = false → inComb s.curCell % n.cells = 0 → s.firstBad n = none →
  (∀ i, 0 < i → i < n.cells → (s.cellAt (s.curCell + i)).lowestFree = some (k i) ∧ (s.cellAt (s.curCell + i)).claims = [] ∧
    (s.cellAt (s.curCell + i)).freePool.isSome = true) →
  ∃ u t, exec (.swarm n) s = .next u ∧ u.after (((List.range n.cells).drop 1).map (fun i => .swarmClaimGrant (s.curCell + i) (k i)) ++
      [.parkedStrandResume s.curCell s.curStrand]) = some t ∧ t.mem = s.mem ∧
    t.me.run = .issuing ∧ t.me.pc = s.me.pc + 4 ∧ t.me.swm = true ∧ t.me.swix = 0 ∧
    ∀ i, 0 < i → i < n.cells → (t.strandAt (s.curCell + i) (k i)).run = .issuing ∧
      (t.strandAt (s.curCell + i) (k i)).pc = s.me.pc + 4 ∧ (t.strandAt (s.curCell + i) (k i)).swm = true ∧
      (t.strandAt (s.curCell + i) (k i)).swix = i

/-- R48, R236, R238: `ARRIVE` and `ARRIVEB`, of the own cell's unit and of another cell's, complete: the unit counts the arrival
and the addition, turns its phase over where that completes it, and the strand goes on. -/
def Claims.ArrivalsComplete : Prop :=
  ∀ (i : Instr) (s : State) (d : CellId) (b : Fin 8) (add : Option Word) (u0 : Barrier), s.Quiet →
  arriveRule s i = some (.ok d, b, add) → s.fenced .comb = true → s.arriveCheck d b = .ok () → (s.cellAt d).bars[b] = u0 →
  u0.acur.getLsbD (inComb s.curCell) = false →
  ∃ u t, exec i s = .next u ∧ u.after [.barrierArrival ⟨d, b, s.curCell, s.curStrand, add, s.now⟩] = some t ∧ t.mem = s.mem ∧
    t.me.run = .issuing ∧ t.me.pc = s.me.pc + 4 ∧ t.me.ws = s.me.ws ∧ ((t.cellAt d).bars[b]).pend = u0.pend + add.getD 0 ∧
    (u0.cur + 1 = u0.target → u0.pend + add.getD 0 = 0 →
      ((t.cellAt d).bars[b]).phase = !u0.phase ∧ ((t.cellAt d).bars[b]).cur = u0.nxt) ∧
    (u0.cur + 1 ≠ u0.target ∨ u0.pend + add.getD 0 ≠ 0 →
      ((t.cellAt d).bars[b]).phase = u0.phase ∧ ((t.cellAt d).bars[b]).cur = u0.cur + 1)

/-- R141, R280, R290: `CINV` and `CFLUSH` of a line that a slice holds dirty complete: the line is written back to its controller
and no other byte changes; `CINV` leaves it in no slice, `CFLUSH` leaves it clean. -/
def Claims.SliceOperationsComplete : Prop := ∀ (s : State) (a : WReg) (va loc : Nat) (p : Page) (x : Sector), s.Quiet →
  s.cell.stores = [] → 2 ^ 20 ≤ (s.w a).toNat → (s.w a).toNat < 2 ^ 57 → s.place s.curCell (s.w a).toNat = .virt va loc p →
  s.lineWaits [x] 0 = false → (s.hiveAt s.hive).sectors = [x] → x.loc / 8 = loc / 256 → x.dirty = true → x.data.length = 32 → Memory.wf s.mem = true →
  ∀ inv : Bool, ∃ u t, exec (if inv then .cinv a else .cflush a) s = .next u ∧
    u.after [.storeAcknowledgement s.curCell s.curStrand s.cell.nextId] = some t ∧ t.cell.stores = [] ∧
    Memory.bytes t.mem (x.loc * 32) 32 = x.data ∧
    (∀ c, c < x.loc * 32 ∨ x.loc * 32 + 32 ≤ c → t.byte c = s.byte c) ∧
    (t.hiveAt s.hive).sectors = (if inv then [] else [{ x with dirty := false }]) ∧ t.me.pc = s.me.pc + 4 ∧ t.me.ws = s.me.ws

/-- R242-R244, R247, R248, R295: `XST`, `XFLAG`, `XAMO` and `XAM` in an open step complete: their pen holds the entry behind those
it had, and an `XAMO` stands outstanding no more. -/
def Claims.SteppedComplete : Prop := ∀ (s : State) (n : Nat) (j : Job), s.Quiet → s.jobOf s.curCell = some (n, j) →
  s.jobAt n = some j → j.phase = .open → Memory.wf s.mem = true →
  let Placed := fun (i : Instr) (op : SteppedOp) => ∃ u t j', exec i s = .next u ∧ u.after [.steppedOpAccept op] = some t ∧
    t.jobAt n = some j' ∧ j'.pen = j.pen ++ [(op.home, op)] ∧ j'.figures.penUsed = j.figures.penUsed + op.cost ∧
    t.me.longs = [] ∧ t.me.pc = s.me.pc + 4 ∧ t.me.ws = s.me.ws
  (∀ (w : Fmt) (d a : WReg) (off : BitVec 10) (p : Page),
    s.TargetOk (.xst (widthCode w)) (offsetAddr (s.w a) off (widthBytes w)) (widthBytes w) 1 p →
    isReduction (offsetAddr (s.w a) off (widthBytes w)) p = false →
    Placed (.xst w d a off)
      (s.newStepped (.xst (widthCode w)) (offsetAddr (s.w a) off (widthBytes w)) (p.homeFor s.hive) (s.w d) 0)) ∧
  (∀ (a b : WReg) (p : Page), s.TargetOk .xflag (s.w a).toNat 8 1 p →
    Placed (.xflag a b) (s.newStepped .xflag (s.w a).toNat (p.homeFor s.hive) (s.w b) 0)) ∧
  (∀ (op : Aop) (ord : Bool) (d a b : WReg) (la : Fin 16) (p : Page), op ≠ .cas → s.windowOf la = 0 →
    s.TargetOk (.xamo op ord) (s.w a).toNat 8 2 p → s.localCheck (.xamo op ord d a b la) (s.w d).toNat 16 16 1 = .ok () →
    s.rangeWaits (s.w d).toNat 2 = false →
    Placed (.xamo op ord d a b la) { s.newStepped (.xamo op ord) (s.w a).toNat (p.homeFor s.hive) (s.w b) 0 with
      record := ownAddr s.curCell (s.w d).toNat }) ∧
  ∀ (a : WReg), s.localCheck (.xam a) (s.w a).toNat 40 8 0 = .ok () → s.marks = [] → s.rangeWaits (s.w a).toNat 5 = false →
    64 ≤ s.cell.penLeft →
    let m := fun n : Nat => BitVec.ofNat 64 (s.read (tcmBase s.curCell + ownAddr s.curCell (s.w a).toNat + 8 * n) 8)
    s.xamBad (m 0) = false →
    Placed (.xam a) { s.newStepped .xam 0 ((m 0).toNat / 2 ^ 12 % 64) (m 0) (m 1) with m2 := m 2, m3 := m 3, m4 := m 4 }

namespace Sys2Proof.Machine

/-- The instruction issues and its result comes back: `wd` takes the value, and CF where it is given; no other register
changes but FFLAGS, and the strand has gone past it with nothing outstanding. -/
def State.ComesBack (s : State) (i : Instr) (d : WReg) (v : Word) (cf : Option Bool) (mem : Bool) : Prop :=
  ∃ u t, exec i s = .next u ∧ u.after [.longLatencyResult s.curCell s.curStrand s.cell.nextId] = some t ∧
    t.me.w d = v ∧ (∀ b, cf = some b → t.me.cf = b) ∧ (mem = true → t.mem = s.mem) ∧
    (∀ k : Fin 64, k ≠ d.castLE (by decide) → k ≠ 51 → (cf.isSome = true → k ≠ 50) → t.me.ws[k] = s.me.ws[k]) ∧
    t.me.longs = [] ∧ t.me.pc = s.me.pc + 4 ∧ t.me.run = .issuing

end Sys2Proof.Machine

/-- R94, R117, R123, R127, R128, R231, R234, R246: the long-latency instructions complete: `DIV`, `DIVZ`, `REM`, `REMZ`, `FDIV` and
`FSQRT`; `LD`, `LDX` and `AMO` of the own TCM; `LDFE`, `LDFF` and `FEQ` of a word that is full; `XLD` of a page homed in another
hive. Each issues, and its result comes back into `wd`. -/
def Claims.LongResultsComplete : Prop := ∀ (s : State), s.Quiet →
  (∀ i d la v, divRule s.me i = some (d, la, v) → s.windowOf la = 0 → d ≠ 0 → s.ComesBack i d v none true) ∧
  (∀ i d la r, fpLongRule s.me i = some (d, la, r) → r.2 &&& s.me.fenable = 0 → s.windowOf la = 0 → d ≠ 0 →
    s.ComesBack i d (BitVec.ofNat 64 r.1) none true) ∧
  (∀ i r w, loadRule s.me i = some r → r.kind = .load w r.addr → s.windowOf r.la = 0 → r.dest ≠ 0 → r.addr < 0x7F000 →
    s.cell.stores = [] → s.zeroHeld s.curCell r.addr r.size = false → s.rangeMarked (tcmBase s.curCell + r.addr) r.size = false →
    s.check s.curCell s.me.sv (s.instrWord i) r.addr r.size 0 = .ok (.tcm s.curCell r.addr) →
    s.ComesBack i r.dest (extendLoad w (s.read (tcmBase s.curCell + r.addr) r.size)) none true) ∧
  (∀ op ord d a b la, op.isFn = false → s.windowOf la = 0 → d ≠ 0 → (s.w a).toNat + 8 ≤ 0x7F000 → (s.w a).toNat % 8 = 0 →
    s.cell.stores = [] → s.zeroHeld s.curCell (s.w a).toNat 8 = false →
    s.rangeMarked (tcmBase s.curCell + (s.w a).toNat) 8 = false → s.cell.closed (s.w a).toNat 8 = false →
    s.ComesBack (.amo op ord d a b la) d (s.tcmWord s.curCell (s.w a).toNat)
      (if op = .cas then some (s.tcmWord s.curCell (s.w a).toNat == s.w d) else none) false) ∧
  (∀ i r n off p, feRule s.me i = some r → s.windowOf r.la = 0 → r.dest ≠ 0 → s.misses s.curCell r.addr = false →
    r.addr % 8 = 0 → s.place s.curCell r.addr = .scratch n off p → p.state = .live → s.fullAt n off = true →
    (s.combAt n).waiters = [] → s.cell.stores = [] → s.rangeMarked (scratchAddr n off) 8 = false →
    s.ComesBack i r.dest (BitVec.ofNat 64 (s.read (scratchAddr n off) 8)) (if r.cf then some true else none) true) ∧
  (∀ w acq d a off la va p, s.windowOf la = 0 → d ≠ 0 →
    let addr := offsetAddr (s.w a) off (widthBytes w)
    s.misses s.curCell addr = false → addr % widthBytes w = 0 → s.place s.curCell addr = .away va p → p.state ≠ .live →
    s.unreadable (p.addr (p.homeFor s.hive) va) = false →
    s.ComesBack (.xld w acq d a off la) d
      (extendLoad w (ofBytes (s.cachedBytes (p.addr (p.homeFor s.hive) va) (widthBytes w)))) none true)

/-! ### Encoding -/

namespace Sys2Proof.Machine

/-- R105 as a table: the SYS minor, wa, bits 13:12 and IMM12. -/
def sysRow (minor a res imm : Nat) : Option Instr :=
  match minor with
  | 0 => if a = 0 ∧ res = 0 ∧ imm = 0 then some .nop else none
  | 1 => if a = 0 ∧ res = 0 ∧ imm < 5 then some (.fence (([.strand, .cell, .comb, .hive, .job] : List Scope)[imm]?.getD .strand))
      else none
  | 2 => if a = 0 ∧ res = 0 ∧ imm = 0 then some .ifence else none
  | 3 => if a = 0 ∧ res = 0 then some (.yield (BitVec.ofNat 12 imm)) else none
  | 4 => if a = 0 ∧ res = 0 ∧ imm = 0 then some .done else none
  | 5 => if a = 0 ∧ res = 0 ∧ imm = 0 then some .doneNw else none
  | 6 => if res = 0 then some (.trap (BitVec.ofNat 12 imm) (Fin.ofNat 32 a)) else none
  | 7 => if a = 0 ∧ res = 0 ∧ imm = 0 then some .rtt else none
  | 8 => if a = 0 ∧ res = 0 ∧ imm = 0 then some .fold else none
  | 9 => if a = 0 ∧ res = 0 ∧ imm < 3 then some (.swarm (([.n2, .n4, .n8] : List SwarmSize)[imm]?.getD .n2)) else none
  | 10 => if a = 0 ∧ res = 0 ∧ imm = 0 then some .unswarm else none
  | _ => none

/-- R100: FN of the integer group, the operations of two sources. -/
def intGroup : List (Nat × (Fmt → WReg → WReg → WReg → Instr)) :=
  [(0, .add), (1, .sub), (2, .and), (3, .or), (4, .xor), (5, .shl), (6, .shr), (7, .sha)] ++
  [(8, .rot), (9, .slt), (10, .sltz), (11, .min), (12, .max), (13, .minz), (14, .maxz), (15, .sel)] ++
  [(16, .mul), (17, .mulh), (18, .mulhz)]

/-- R100: FN of the integer group, the unary operations. -/
def unaryGroup : List (Nat × (Fmt → WReg → WReg → Instr)) := [(20, .clz), (21, .ctz), (22, .popc), (23, .bswap)]

/-- The integer formats `.b .h .w .d` by their code (R59, R100). -/
def widthOf (c : Nat) : Fmt := ([.int8, .int16, .int32, .int64] : List Fmt)[c]?.getD .int8

/-- A word of an A-class or a C-class major (R91, R92). -/
def major (k op w : Nat) : Prop := fld w 30 30 = k ∧ fld w 29 24 = op

/-- The word decodes (R89). -/
def accepted (w : Nat) : Prop := ∃ i, oneWord 3 w = .ok (.one i)

/-- The word traps `ILLEGAL_INSTRUCTION` with itself in TRAPVAL (R89). -/
def refused (w : Nat) : Prop := oneWord 3 w = .error ⟨.illegalInstruction, BitVec.ofNat 64 w, 0, 0, 0, 0⟩

/-- Register fields wd, wa and wb (R90-R92). -/
def regD (w : Nat) : WReg := Fin.ofNat 32 (fld w 23 19)
def regA (w : Nat) : WReg := Fin.ofNat 32 (fld w 18 14)
def regB (w : Nat) : WReg := Fin.ofNat 32 (fld w 13 9)

/-- R106: AOP codes. -/
def aopOf (c : Nat) : Aop :=
  ([.swap, .add, .and, .or, .xor, .min, .max, .cas, .fn 0, .fn 1, .fn 2, .fn 3, .fn 4, .fn 5, .fn 6, .fn 7] : List Aop)[c]?.getD .swap

end Sys2Proof.Machine

/-- R89, R91: decoding the word of a well-formed instruction gives it back, with every operand at every value. -/
def Claims.RoundTrip : Prop := ∀ i : Instr, i.isWord = true → i.wf = true → decodeWord 3 (encode i) = .ok i

/-- R89: what the decoder accepts is well formed and has no other word. -/
def Claims.AcceptedWords : Prop := ∀ (w : Nat) (i : Instr), decodeWord 3 w = .ok i → i.wf = true ∧ encode i = w % 2 ^ 31

/-- R91, R92, R99, R104: words written from the formats, one for each of a few families. -/
def Claims.DecodedWords : Prop :=
  decodeWord 3 0x40294C60 = .ok (.add .int64 5 5 6) ∧ decodeWord 3 0x43080005 = .ok (.li 1 5) ∧
  decodeWord 3 0x4E1A4478 = .ok (.bext 3 9 8 60) ∧ decodeWord 3 0x5331D180 = .ok (.fma .bf16 .rne false 6 7 8) ∧
  decodeWord 3 0x08209822 = .ok (.ld .int64 false 4 2 2 2) ∧ decodeWord 3 0x80180064 = .ok (.yield 100) ∧
  decodeWord 3 0x0E325C00 = .ok (.stfe true 6 9 0) ∧ decodeWord 3 0x6902D800 = .ok (.sdscan 11 12) ∧
  decodeWord 3 0x70024E00 = .ok (.vadd .fp32 .rne false ⟨0, false⟩ ⟨1, false⟩ ⟨2, false⟩)

/-- R99, R104: a major that the maps leave unallocated traps. -/
def Claims.UnallocatedMajors : Prop := ∀ w : Nat,
  (fld w 30 30 = 1 → 0x2B ≤ fld w 29 24 → fld w 29 24 ≤ 0x2F → refused w) ∧
  (fld w 30 30 = 0 → fld w 29 24 = 0x37 ∨ 0x3D ≤ fld w 29 24 → refused w)

/-- R105: the SYS major. -/
def Claims.SysMajor : Prop := oneWord 3 0 = .ok (.one .nop) ∧ ∀ w : Nat, major 0 0 w →
  (∀ i, sysRow (fld w 23 19) (fld w 18 14) (fld w 13 12) (fld w 11 0) = some i → oneWord 3 w = .ok (.one i)) ∧
  (sysRow (fld w 23 19) (fld w 18 14) (fld w 13 12) (fld w 11 0) = none → refused w)

/-- R100: the integer group, and the formats that the other integer majors accept. -/
def Claims.IntegerMajors : Prop := ∀ w : Nat,
  (major 1 0x00 w →
    (∀ x ∈ intGroup, fld w 4 0 = x.1 → fld w 8 5 < 4 →
      oneWord 3 w = .ok (.one (x.2 (widthOf (fld w 8 5)) (regD w) (regA w) (regB w)))) ∧
    (∀ x ∈ unaryGroup, fld w 4 0 = x.1 → fld w 8 5 < 4 → fld w 13 9 = 0 →
      oneWord 3 w = .ok (.one (x.2 (widthOf (fld w 8 5)) (regD w) (regA w)))) ∧
    (4 ≤ fld w 8 5 ∨ fld w 4 0 = 19 ∨ 24 ≤ fld w 4 0 ∨ (20 ≤ fld w 4 0 ∧ fld w 13 9 ≠ 0) → refused w)) ∧
  (major 1 0x01 w ∨ major 1 0x02 w → (fld w 8 5 < 4 → accepted w) ∧ (4 ≤ fld w 8 5 → refused w)) ∧
  (∀ op, 0x05 ≤ op → op ≤ 0x0D → major 1 op w →
    (fld w 13 11 = 7 → refused w) ∧
    (op < 0x09 ∨ op = 0x0D → fld w 13 11 < 7 → accepted w) ∧
    (0x09 ≤ op → op ≤ 0x0C → (4 ≤ fld w 13 11 → refused w) ∧
      (fld w 13 11 < 4 → fld w 10 0 < 8 * 2 ^ fld w 13 11 → accepted w)))

/-- R106: AOP in `AMO`, `XAMO` and `AMOV`. -/
def Claims.AtomicCodes : Prop := ∀ w : Nat,
  (major 0 0x10 w → oneWord 3 w =
    .ok (.one (.amo (aopOf (fld w 8 5)) (fld w 4 4 == 1) (regD w) (regA w) (regB w) (Fin.ofNat 16 (fld w 3 0))))) ∧
  (major 0 0x13 w → (fld w 8 5 < 8 → oneWord 3 w =
    .ok (.one (.xamo (aopOf (fld w 8 5)) (fld w 4 4 == 1) (regD w) (regA w) (regB w) (Fin.ofNat 16 (fld w 3 0))))) ∧
    (8 ≤ fld w 8 5 → refused w)) ∧
  (major 0 0x11 w → (fld w 23 20 = 7 → refused w) ∧
    (fld w 23 20 ≠ 7 → fld w 5 0 = 0 → fld w 13 11 ≠ fld w 9 7 → oneWord 3 w =
      .ok (.one (.amov (aopOf (fld w 23 20)) (fld w 19 19 == 1) (regA w) ⟨Fin.ofNat 8 (fld w 13 11), fld w 10 10 == 1⟩
        ⟨Fin.ofNat 8 (fld w 9 7), fld w 6 6 == 1⟩))))

/-- R119: `LI` and `LIH`. -/
def Claims.LongImmediates : Prop :=
  (∀ w, major 1 0x03 w → oneWord 3 w = .ok (.one (.li (regD w) (BitVec.ofNat 19 (fld w 18 0))))) ∧
  (∀ (d : WReg) (imm : BitVec 19) (s : State), s.Quiet →
    exec (.li d imm) s = .next (s.advance (s.me.wrote d (BitVec.ofInt 64 imm.toInt)))) ∧
  (∀ imm : BitVec 19, -262144 ≤ imm.toInt ∧ imm.toInt ≤ 262143) ∧
  (∀ w, major 1 0x04 w → (fld w 16 16 = 0 →
    oneWord 3 w = .ok (.one (.lih (regD w) (Fin.ofNat 4 (fld w 18 17)) (BitVec.ofNat 16 (fld w 15 0))))) ∧
    (fld w 16 16 = 1 → refused w)) ∧
  (∀ (d : WReg) (h : Fin 4) (imm : BitVec 16) (s : State), s.Quiet → ∃ v : Word,
    exec (.lih d h imm) s = .next (s.advance (s.me.wrote d v)) ∧
    ∀ k, k < 64 → v.getLsbD k = if 16 * h.val ≤ k ∧ k < 16 * h.val + 16 then imm.getLsbD (k - 16 * h.val)
      else (s.w d).getLsbD k) ∧
  ∀ (d : WReg) (h : Fin 4) (imm : BitVec 16), d ≠ 0 →
    d.val ∈ (Instr.lih d h imm).reads ∧ d.val ∈ (Instr.lih d h imm).writes

/-- R18: `w0` reads as zero and takes no write; every other register takes exactly the value written to it. -/
def Claims.WorkingRegisters : Prop := ∀ (t : Strand) (v : Word),
  t.w 0 = 0 ∧ t.setW 0 v = t ∧ ∀ d : WReg, d ≠ 0 → (t.setW d v).w d = v ∧ ∀ a, a ≠ d → (t.setW d v).w a = t.w a

/-- R144: `NOP`. -/
def Claims.NopRule : Prop :=
  encode .nop = 0 ∧ oneWord 3 0 = .ok (.one .nop) ∧ sysRow 0 0 0 0 = some .nop ∧
  (∀ s : State, s.Quiet → exec .nop s = .next (s.advance s.me.ws)) ∧
  Instr.serialising .nop = false ∧
  (∀ b : Word, bundleShapeOk b = true → word1 b = 0 → ∀ pc, pc % 8 = 4 → slotOf 3 b pc false = .ok (.one .nop)) ∧
  (∀ b : Word, bundleShapeOk b = true → word0 b = 2 ^ 31 → ∀ pc, pc % 8 = 0 → slotOf 3 b pc false = .ok (.one .nop)) ∧
  (∀ (b : Word) (j : Instr), bundleShapeOk b = true → word0 b = 0 → decodeWord 3 (word1 b) = .ok j →
    ∀ pc, pc % 8 = 0 → slotOf 3 b pc false = .ok (.pair .nop j)) ∧
  ∀ (s : State) (o : LongOp), s.me.longs = [o] → o.result = none → 0 < o.left → s.me.shadow = none → s.me.held = none →
    s.me.replay = none → exec .nop s = .next (s.setMe { s.me with
      pc := s.me.pc + 4, run := .issuing, longs := [{ o with left := o.left - 1, slot := o.slot + 1 }] })

/-- R142, R25, R143, R87: `TRAP`, and how a handler continues past it. -/
def Claims.TrapRule : Prop :=
  (∀ (n : BitVec 12) (a : WReg), sysRow 6 a.val 0 n.toNat = some (.trap n a) ∧
    (Instr.trap n a).serialising = true ∧ ∀ j, pairOk (.trap n a) j = false) ∧
  (∀ (n : BitVec 12) (a : WReg) (s : State), s.Quiet → exec (.trap n a) s =
    .next (s.takeTrap ⟨.software, n.setWidth 64, s.w a, 0, 0, 0⟩ s.me.pc false 0)) ∧
  (∀ (n : BitVec 12) (a : WReg) (s : State) (ent : Nat), s.Quiet → s.EntersHandler ent →
    ∃ t, exec (.trap n a) s = .next t ∧ t.me.ws[58].toNat % 64 = 0x1B ∧ t.me.ws[59] = BitVec.ofNat 64 s.me.pc ∧
      t.me.ws[60] = n.setWidth 64 ∧ t.me.ws[61] = s.w a ∧ t.me.pc = ent) ∧
  (∀ (a : WReg) (s : State), s.Quiet → s.me.sv = true → s.me.inWdog = false → (s.me.dw 58).getLsbD 12 = false →
    (s.w a).toNat < 2 ^ 19 →
    ∃ t u, exec (.mts 0x031 a) s = .next t ∧ exec .rtt t = .next u ∧ u.me.sv = false ∧ u.me.run = .issuing ∧
      u.me.pc = (s.w a).toNat) ∧
  ∀ (encv : Nat) (b : Word) (pc : Nat) (alone : Bool), bundleShapeOk b = true → pc % 8 = 4 →
    slotOf encv b pc alone = oneWord encv (word1 b)

/-- R224, R225: `MBW`, and a malformed `m0` when it is sent. -/
def Claims.MessageWordRule : Prop :=
  (∀ w, major 0 0x27 w → fld w 23 19 = 0 → fld w 13 9 = 0 → fld w 8 3 = 0 →
    (fld w 2 0 < 5 → oneWord 3 w = .ok (.one (.mbw (Fin.ofNat 8 (fld w 2 0)) (regA w)))) ∧
    (5 ≤ fld w 2 0 → refused w)) ∧
  (∀ (n : Fin 5) (a : WReg) (s : State), s.Quiet → ∃ t, exec (.mbw ⟨n.val, by omega⟩ a) s = .next t ∧
    t = s.advance (s.me.ws.set (44 + n.val) (s.w a)) ∧ t.me.m n = s.w a) ∧
  ∀ (s : State) (i : Instr), s.Quiet → i = .sendm ∨ i = .sendmT → 2 ^ 26 ≤ (s.me.m 0).toNat →
    exec i s = .next (s.takeTrap ⟨.access, s.me.m 0, 0, 0, 0, 0⟩ s.me.pc false 0)

/-! ### The machine as a whole -/

namespace Sys2Proof.Machine

/-- The current strand may fetch and issue: nothing holds it, and the bundle of its pc lies below 0x7_F000 and is readable
(R35, R87, R133, R312). -/
def State.CanFetch (s : State) : Prop :=
  s.Quiet ∧ s.strandRuns = true ∧ s.fetchHeld = false ∧ s.atBoundary = false ∧ s.me.isFollower = false ∧ s.me.swarm = none ∧ s.me.buf = [] ∧
    bundleOf s.me.pc < 0x7F000 ∧ s.cell.meetsGated (bundleOf s.me.pc) 8 = false ∧
    s.marked (tcmBase s.curCell + bundleOf s.me.pc) = false

/-- The bundle at the pc (R85). -/
def State.bundleHere (s : State) : Word := BitVec.ofNat 64 (s.read (tcmBase s.curCell + bundleOf s.me.pc) 8)

/-- The current strand with its bundle in the fetch buffer. -/
def State.fetched (s : State) : State := s.readBundle (bundleOf s.me.pc)

/-- The word that issues alone at a pc of a bundle: word 1, or word 0 of a solo bundle (R85, R87, R88). -/
def loneWord (b : Word) (pc : Nat) : Option Nat :=
  if bundleShapeOk b = false then none
  else if pc % 8 = 4 then some (word1 b)
  else if pc % 8 = 0 ∧ soloBundle b = true then some (word0 b) else none

/-- In every strand `w0` and doubleword 63, which the layout of a workspace reserves, are zero (R15, R18). -/
def State.ZeroRegisters (s : State) : Prop := ∀ x ∈ s.cells, ∀ k : StrandId,
  (x.2.strands[k]).ws[0] = 0 ∧ (x.2.strands[k]).ws[63] = 0

/-- Issue goes past the strand that has issued (R312), and a cycle passes. -/
def State.issued (s : State) (g : CellId) (k : StrandId) : State :=
  (s.setCell g { s.cellAt g with issuePtr := (k.val + 1) % 4 }).tick 1

end Sys2Proof.Machine

/-- R85, R87-R89: a step in which a strand issues a lone word runs the instruction that the word at its pc decodes to. The
schedule and the clock are the model's own (log entries 3 and 4). -/
def Claims.StepRunsWord : Prop :=
  ∀ (s s1 : State) (g : CellId) (k : StrandId) (r : List Choice) (w : Nat) (i : Instr) (t : State),
  s.oracle = .issue g k :: r → s1 = ({ s with oracle := r } : State).at g k → s1.CanFetch →
  loneWord s1.bundleHere s1.me.pc = some w → decodeWord s1.me.encv w = .ok i → exec i s1.fetched = .next t →
  (t.strandAt g k ≠ s1.fetched.me → step s = .next ((t.at g k).issued g k)) ∧
  (t.strandAt g k = s1.fetched.me → step s = .next (t.tick 1))

/-- R88, R89: a lone word that does not decode traps `ILLEGAL_INSTRUCTION` in that step. The schedule and the clock are the
model's own (log entries 3 and 4). -/
def Claims.StepTrapsWord : Prop :=
  ∀ (s s1 : State) (g : CellId) (k : StrandId) (r : List Choice) (w : Nat) (e : Reject),
  s.oracle = .issue g k :: r → s1 = ({ s with oracle := r } : State).at g k → s1.CanFetch →
  loneWord s1.bundleHere s1.me.pc = some w → decodeWord s1.me.encv w = .error e →
  step s = .next ((s1.fetched.takeTrap ⟨.illegalInstruction, BitVec.ofNat 64 w, 0, 0, 0, 0⟩ s1.me.pc false 0).issued g k)

/-- R85, R86, R89, R44: the checks of a bundle in the step that would issue it: items 1 and 2 on the S and K bits trap
`ILLEGAL_BUNDLE` with the bundle in TRAPVAL and its address in TRAPPC; then the decode of word 0 and of word 1 of a pair traps
`ILLEGAL_INSTRUCTION` with the word in TRAPVAL and its number in TRAPAUX; then items 3 to 5 trap `ILLEGAL_BUNDLE`. Neither word has an
effect. The schedule and the clock are the model's own (log entries 3 and 4). -/
def Claims.StepTrapsBundle : Prop :=
  ∀ (s s1 : State) (g : CellId) (k : StrandId) (r : List Choice) (b : Word),
  s.oracle = .issue g k :: r → s1 = ({ s with oracle := r } : State).at g k → s1.CanFetch → s1.bundleHere = b →
  let pc := bundleOf s1.me.pc
  let bad := step s = .next (((s1.fetched.setMe { s1.fetched.me with pc := pc }).takeTrap ⟨.illegalBundle, b, 0, 0, 0, 0⟩
    pc false 0).issued g k)
  let noWord := fun (w n : Nat) => step s = .next ((s1.fetched.takeTrap
    ⟨.illegalInstruction, BitVec.ofNat 64 w, BitVec.ofNat 64 n, 0, 0, 0⟩ s1.me.pc false 0).issued g k)
  (b.getLsbD 63 = true ∨ (b.getLsbD 31 = false ∧ (b.getLsbD 30 = true ∨ b.getLsbD 62 = false)) → bad) ∧
  (s1.me.pc % 8 = 0 → b.getLsbD 63 = false → b.getLsbD 31 = false → b.getLsbD 30 = false → b.getLsbD 62 = true →
    (∀ e, decodeWord s1.me.encv (word0 b) = .error e → noWord (word0 b) 0) ∧
    (∀ i e, decodeWord s1.me.encv (word0 b) = .ok i → decodeWord s1.me.encv (word1 b) = .error e → noWord (word1 b) 1) ∧
    ∀ i j, decodeWord s1.me.encv (word0 b) = .ok i → decodeWord s1.me.encv (word1 b) = .ok j →
      i.serialising = true ∨ (∃ x ∈ i.writes, x ∈ j.writes ∨ x ∈ j.reads) ∨ (i.longLatency = true ∧ j.noPartner = true) → bad)

/-- R85, R86: a step in which a strand issues a pair runs its word 0 and then its word 1. That word 1 waits or goes with the pair
as it could issue before word 0 is the model's reading (log entry 8), and the schedule and the clock are its own (log entries 3
and 4). -/
def Claims.StepRunsPair : Prop :=
  ∀ (s s1 : State) (g : CellId) (k : StrandId) (r : List Choice) (i j : Instr) (t u v : State),
  s.oracle = .issue g k :: r → s1 = ({ s with oracle := r } : State).at g k → s1.CanFetch → s1.me.pc % 8 = 0 →
  bundleShapeOk s1.bundleHere = true → soloBundle s1.bundleHere = false →
  decodeWord s1.me.encv (word0 s1.bundleHere) = .ok i → decodeWord s1.me.encv (word1 s1.bundleHere) = .ok j →
  pairOk i j = true → j.endsWindows = false →
  s1.fetched.partnerGoes j = true →
  exec i s1.fetched = .next t → t.strandAt g k ≠ s1.fetched.me → u = t.at g k → u.isAt (s1.me.pc + 4) = true →
  u.me.swarm = none → u.strandRuns = true → u.me.clear j = true →
  exec j u = .next v → v.strandAt g k ≠ u.me → step s = .next ((v.at g k).issued g k)

/-- No rule of the spec stops the machine: every instruction, with the traps it takes, answers a next state, and a step stops only where the model's own schedule names
a happening that is not there or an instruction word (log entries 4 and 5). -/
def Claims.EveryRowAnswers : Prop :=
  (∀ (i : Instr) (s : State), ∃ t, exec i s = .next t) ∧
  ∀ s : State, (∃ t, step s = .next t) ∨
    (∃ n r, s.oracle = .happen n :: r ∧ s.pending.length ≤ n ∧ step s = .fault .badSchedule) ∨
    (∃ i r, s.oracle = .outside i :: r ∧ i.isWord = true ∧ step s = .refused .notHappening)

/-- R15, R18, R36, R37, R48, R193, R232, R272, R313, R388: what reset leaves where the spec gives the value. -/
def Claims.ResetState : Prop := Memory.wf State.reset.mem = true ∧
  (∀ g : CellId, State.reset.cellAt g = Cell.reset ∧ Cell.reset.tcmpwr = 0x10000000 ∧ Cell.reset.schedcfg = 0xCC0004 ∧
    Cell.reset.allowEv = 0 ∧ Cell.reset.allowRq = 0 ∧ Cell.reset.allowSv = 0 ∧
    Cell.reset.pmask = 0 ∧ (∀ n : Fin 4, (Cell.reset.ports[n]).state = .closed ∧ (Cell.reset.ports[n]).bank = 0) ∧
    ∀ b : Fin 8, (Cell.reset.bars[b]).en = false ∧ (Cell.reset.bars[b]).cur = 0 ∧ (Cell.reset.bars[b]).phase = false) ∧
  (∀ n, State.reset.combAt n = Comb.reset ∧ ∀ k : Fin 8, Comb.reset.fns[k] = 0) ∧
  (∀ h, State.reset.hiveAt h = Hive.reset ∧ Hive.reset.stage = 0 ∧ Hive.reset.cap = 1500 ∧ Hive.reset.clock = 0) ∧
  State.reset.ZeroRegisters ∧ ∀ k : StrandId, (Cell.reset.strands[k]).ws[0] = 0 ∧ (Cell.reset.strands[k]).ws[63] = 0

/-- R8: every step, of whatever agent, keeps the memory in its canonical form, so that equal memories are equal data. The form
is the model's own (log entry 2). -/
def Claims.MemoryKept : Prop := ∀ s t : State, Memory.wf s.mem = true → step s = .next t → Memory.wf t.mem = true

/-- R15, R18: every step, of whatever agent, keeps `w0` and the reserved doubleword 63 of every strand at zero. -/
def Claims.ZeroRegistersKept : Prop := ∀ s t : State, s.ZeroRegisters → step s = .next t → t.ZeroRegisters

/-! ### The statements -/

/-- For every well-formed instruction word, decoding its encoding gives it back with every operand; every accepted
word is the encoding of a well-formed instruction. -/
def Obligations.DecodeEncodeAgree : Prop := Claims.RoundTrip ∧ Claims.AcceptedWords

/-- From every state with a canonical memory, a step that answers a next state leaves a canonical memory. The
canonical form is the model's own (log entry 2). -/
def Obligations.MemoryStaysCanonical : Prop := Claims.MemoryKept

/-- Nine words written from the formats and opcode maps decode to the instructions that they stand for. -/
def Obligations.WordsOfFamilies : Prop := Claims.DecodedWords

/-- Every word of the SYS major decodes to the row of R105 that its minor, wa and IMM12 name, and traps
ILLEGAL_INSTRUCTION where the table has none; the all-zero word is NOP. Rule R105. -/
def Obligations.SysMajorDecodes : Prop := Claims.SysMajor

/-- FN selects the operation of major 0x00 with FMT 0x0-0x3, a unary operation with wb = 0; other codes trap. DIV and
REM accept FMT 0x0-0x3, the AI majors IFMT 0x0-0x6, the shift and rotate majors 0x0-0x3. Rule R100. -/
def Obligations.IntegerMajorsDecode : Prop := Claims.IntegerMajors

/-- AMO accepts every AOP code, XAMO codes 0-7 and AMOV all but 7; a code outside traps ILLEGAL_INSTRUCTION. Rule
R106. -/
def Obligations.AtomicOperationCodes : Prop := Claims.AtomicCodes

/-- LI writes the sign-extended 19-bit immediate; LIH writes 16 bits at 16h and leaves the other 48, and counts as
reading and writing wd; bit 16 of AH is reserved. Rule R119. -/
def Obligations.LongImmediateRule : Prop := Claims.LongImmediates

/-- NOP is the all-zero word, has no effect but the next pc, is not serialising, may stand in either word of a bundle
and in word 0 of a pair, and counts in a lookahead window. Rule R144. -/
def Obligations.NopHasNoEffect : Prop := Claims.NopRule

/-- TRAP traps SOFTWARE with n in TRAPVAL, W[wa] in TRAPAUX and its own address in TRAPPC; it never pairs; a handler
that writes TRAPPC and returns goes on there, and a start at word 1 issues that word alone. Rule R142. -/
def Obligations.TrapInstructionRule : Prop := Claims.TrapRule

/-- MBW writes W[wa] whole into mN for N = 0-4 and checks nothing; a malformed m0 traps when it is sent. Rule R224. -/
def Obligations.MessageWordWritten : Prop := Claims.MessageWordRule

/-- When the schedule lets a strand issue and the word at its pc decodes, the step is exec of that instruction at the
state with the bundle fetched, then the issue pointer past the strand, and a cycle. Schedule and clock are the model's
own (log entries 3, 4). -/
def Obligations.StepRunsDecodedWord : Prop := Claims.StepRunsWord

/-- A lone word that does not decode traps ILLEGAL_INSTRUCTION in the step; a bundle that fails the checks of R86, in their order,
traps with no effect from either word; the step of a pair runs word 0 and then word 1; unallocated majors do not decode. Schedule
and clock, and when a pair waits, are the model's own (log entries 3, 4 and 8). -/
def Obligations.StepRunsPairsAndTraps : Prop := Claims.StepTrapsWord ∧ Claims.StepTrapsBundle ∧ Claims.StepRunsPair ∧
  Claims.UnallocatedMajors

/-- The registers whose reset value the spec gives hold it: ALLOW, PMASK, barrier units, frame ports, TCMPWR,
SCHEDCFG, function slots, CAP, BOOTST.STAGE; w0 and the reserved doubleword of every strand are zero. That cells, combs and hives are
all at their reset state is the model's choice (log entry 1). -/
def Obligations.ResetLeaves : Prop := Claims.ResetState

/-- exec answers a next state for every instruction and state; a step stops only where the model's own schedule names
what is not there (log entries 4, 5). -/
def Obligations.EveryInstructionAnswers : Prop := Claims.EveryRowAnswers

/-- Every instruction of the integer group, every immediate and bit-field instruction writes the result of its table
to wd, CF where it compares, and changes nothing else but the pc; w0 reads zero and takes no write. -/
def Obligations.IntegerInstructions : Prop := Claims.WorkingRegisters ∧ Claims.IntegerResult ∧ Claims.ImmediateResult

/-- Divisions and square roots issue with the result of the operands read then; the result is written when its window
has closed; an instruction of the window, integer, immediate or floating, executes, counts it down and drops a late write to its own
destination; past the window one that touches the destination waits. -/
def Obligations.LongLatencyResults : Prop := Claims.DivisionIssues ∧ Claims.FloatLongIssues ∧ Claims.LongResultWritten ∧
  Claims.WindowInstruction ∧ Claims.WindowOver

/-- Without an enabled flag the result is written and the flags are ORed into FFLAGS; an enabled flag traps
FP_EXCEPTION with neither wd nor CF written; a number rounded to a format without raising a flag has the pattern that stands for
exactly it. -/
def Obligations.FloatingInstructions : Prop := Claims.FloatResult ∧ Claims.FloatTraps ∧ Claims.UnflaggedIsExact

/-- From every state in which w0 and the reserved doubleword 63 of every strand are zero, a step that answers a next state leaves
them zero. -/
def Obligations.ZeroRegistersStay : Prop := Claims.ZeroRegistersKept

/-- A load that passes its checks issues; from TCM, the Z window, a scratchpad or a page of the hive it gets the little-endian bytes
at its address, extended; a misaligned access traps first, and then the checks of R129 in their order. -/
def Obligations.LoadsRead : Prop := Claims.LoadIssues ∧ Claims.LoadReads ∧ Claims.MisalignedFirst ∧ Claims.ChecksInOrder

/-- A store changes exactly the addressed bytes: at issue in the own TCM, at its acknowledgement in a scratchpad or a
slice; until then it counts in PSTORE, and that no byte changes before is the model's reading (log entry 13); a load, store, atomic or
full/empty access that fails a check takes its trap. -/
def Obligations.StoresWrite : Prop := Claims.StoreToTcm ∧ Claims.StoreElsewhereWaits ∧ Claims.StorePerforms ∧ Claims.ChecksTrap

/-- An atomic issues, and when performed, in TCM, a scratchpad or a slice, writes the word's new value and returns the old one; with a
function slot it applies the slot's word, sets or clears F and returns as RET says; every other byte stays. -/
def Obligations.AtomicsPerform : Prop := Claims.AtomicIssues ∧ Claims.AtomicPerforms ∧ Claims.FunctionsApplied

/-- STFE fills an empty word, LDFE empties a full one, LDFF and FEQ read it; a refused read is made again 256 cycles
later; AMOCFG loads a function slot or traps. -/
def Obligations.FullEmptyWords : Prop := Claims.StoreFills ∧ Claims.FullEmptyReads ∧ Claims.RefusedReadRetried ∧
  Claims.FunctionSlots

/-- Branches and jumps go to their target or the next word, link the next bundle, and trap on a bad target. -/
def Obligations.ControlTransfers : Prop := Claims.BranchGoes ∧ Claims.JumpGoes ∧ Claims.BadTargets

/-- NOP, PSET, PGET and SETVL leave what their rules say; MFS answers each listed register with the value of its rule, MTS writes
the writable bits of the register it names; a number that is not listed traps. -/
def Obligations.SystemRegisters : Prop := Claims.PlainRegisters ∧ Claims.SystemRegisterReads ∧ Claims.SystemRegisterWrites

/-- User mode traps PRIVILEGE on a supervisor register and on RTT; MTS to WP writes the workspace back and loads the
one it names without reserved bits; the mode, priority, swarm fields, number and watchdog count stay, which is the model's
reading (log entry 22). -/
def Obligations.PrivilegeAndWorkspace : Prop := Claims.PrivilegeTraps ∧ Claims.WorkspaceRebinds

/-- A fence waits, at each scope for what the scope names, and then only moves on; IFENCE empties the fetch buffer but for the bundle
being issued, which is the model's reading (log entry 10); CINV and CFLUSH of a virtual address count until the slice answers, have
no effect on TCM and in a window, and trap ACCESS elsewhere. -/
def Obligations.FencesAndSlices : Prop := Claims.FencesPass ∧ Claims.FenceWaits ∧ Claims.SliceOperations

/-- A trap writes its record, sets SV and goes to TRAPENT; without a handler or in supervisor mode it escalates to the
drover. -/
def Obligations.TrapsAreTaken : Prop := Claims.TrapEntry ∧ Claims.TrapInstruction ∧ Claims.Escalation

/-- RTT returns to user mode at TRAPPC, alone with its window passed where LAW is 1; the drover's RESUME, DELIVER and
ENDFIRING do what their rows say, ENDFIRING once the firing has drained. -/
def Obligations.TrapsReturn : Prop := Claims.ReturnFromTrap ∧ Claims.DroverVerbs

/-- SWARM checks, then asks every follower cell for a strand; a follower cell gives its lowest-numbered free strand
and a workspace to the oldest claim, and when all have answered every member goes on after SWARM with the leader's
registers; UNSWARM ends a swarm with the followers' flags ORed in; a trap in a member breaks it with the record of SWARM_BROKEN in
the leader; the followers are free and their registers in their workspaces. Which workspace a follower has, and what becomes of its late
results and advanced pointers at a break, is the model's own (log entries 21 and 46). -/
def Obligations.SwarmInstructions : Prop := Claims.SwarmAsks ∧ Claims.SwarmChecks ∧ Claims.SwarmEnds ∧
  Claims.SwarmBreaks ∧ Claims.ClaimGranted ∧ Claims.SwarmForms

/-- DONE and DONE.nw end a firing and write its registers back; FOLD folds the strand; a strand that has left is free.
-/
def Obligations.FiringsEnd : Prop := Claims.FiringEnds ∧ Claims.FoldWaits ∧ Claims.StrandFreed

/-- YIELD reloads the budget and goes on, or switches the firing out with its registers in its workspace. -/
def Obligations.YieldDecides : Prop := Claims.YieldGoesOn ∧ Claims.YieldSwitches

/-- A free strand starts the candidate that the choice picks, and its binding gives it the registers of a firing start
or of a resumption; nothing gives two strands of a cell the same workspace. -/
def Obligations.FiringsStart : Prop := Claims.FiringChosen ∧ Claims.FiringBound ∧ Claims.WorkspacesStayApart

/-- LEFT at 0 takes WATCHDOG with a budget of 4,096 cycles; when that has run out too the firing ends with a message.
-/
def Obligations.WatchdogActs : Prop := Claims.WatchdogStrikes ∧ Claims.WatchdogHandlerEnds

/-- EVSEND sends the event of R19 to the consumer of its index and takes an allowance; without one it sets CF, and on
an edge that is not the slot's it traps; EVPOP takes the next reserved input, EVCNT counts, MBW writes a message word,
WAITM takes the oldest mailbox entry of its slot or parks. That w3<15:8> is the production edge is the model's reading (log
entry 25). -/
def Obligations.InputsAreTaken : Prop := Claims.EventSent ∧ Claims.EventNotSent ∧ Claims.InputsRead ∧
  Claims.MailTaken

/-- SENDM sends, sets CF or traps by its allowance; an accepted input is written at the tail of its ring, and a
refused one is reported. -/
def Obligations.MessagesTravel : Prop := Claims.MessageSent ∧ Claims.InputEnters ∧ Claims.InputRefused

/-- FORK sends a task with its path and reserves its join-buffer entry; JOIN takes the return of the lowest unjoined
child, parks, or sets CF without one. -/
def Obligations.TasksForkAndJoin : Prop := Claims.TaskForked ∧ Claims.TaskJoined

/-- Waiting inputs, sorted events, allowances, task returns, mailbox entries and parked strands move on when what they
wait for has come. -/
def Obligations.WaitersMoveOn : Prop := Claims.WaitingMoves ∧ Claims.ParkedResumes

/-- An arrival sets out, is counted once for its cell, and turns the phase over when the target is met and PEND is 0; a second one is
counted for the next phase, a third traps BARRIER_OVERRUN; WAITB and WAITBT go on, park or trap; a WAITBT expires; BCFG sets a
unit with its counts cleared and its phase kept, and gets one. That a strand parks at an arrival until it is counted, and what a wait
at a unit that is not enabled reports, is the model's own (log entries 35 and 64). -/
def Obligations.BarriersCount : Prop := Claims.ArrivalSetsOut ∧ Claims.ArrivalCounts ∧ Claims.ArrivalsAgain ∧ Claims.BarrierWaits ∧
  Claims.BarrierExpiry ∧ Claims.BarrierConfigured

/-- CQRY reads the state word; CPASS, FREEZE, LAND and PUBLISH act for the allowed cell, at once or by a request for the open, and
trap CROOK for another; FREEZE and LAND of a written shadowed page trap PUBLISH_CONFLICT. That LAST follows a pass at once is the
model's reading (log entry 33). -/
def Obligations.PagesChange : Prop := Claims.PageQueried ∧ Claims.PageChanges ∧ Claims.PagePublished ∧
  Claims.PageRefused

/-- V, SCE, SDU and copy instructions that pass their checks enter the queue with their operands as read at issue, and
each of the four engines starts its queue in order: a multiply once its operand bytes are there, a copy with its blocks. -/
def Obligations.EnginesTakeInstructions : Prop := Claims.VectorIssues ∧ Claims.MultiplyIssues ∧ Claims.DeltaIssues ∧
  Claims.CopyIssues ∧ Claims.EngineStarts

/-- Every V instruction leaves what its elements, one at a time in ascending order, or its one result leave, for every format,
pointer mode and overlap; no other byte changes, the flags are ORed into FFLAGS, and an enabled flag traps FP_EXCEPTION at its
element with those below it written. -/
def Obligations.VectorResults : Prop := Claims.VectorElementwise ∧ Claims.VectorSingle ∧ Claims.VectorPerforms

/-- ZLD reads an accumulator and its ZOV, ZST writes one, ZCLR clears every one that it names; no other byte changes.
-/
def Obligations.AccumulatorsAccessed : Prop := Claims.AccumulatorAccess ∧ Claims.AccumulatorsCleared

/-- Issue, start and retirement of every V instruction leave what its elements in ascending order, or its one result, leave, for
every format, pointer mode and overlap; no other byte changes, the pN+ pointers have advanced and the flags are in FFLAGS. -/
def Obligations.VectorInstructionsComplete : Prop := Claims.VectorLanesComplete ∧ Claims.VectorElementCompletes ∧
  Claims.VectorCompletes

/-- Issue, start and retirement of the multiplies add the sums of products to the accumulators and take the operand
bytes from the FIFOs; ZCLR clears what it names, ZCVT writes the converted accumulators to TCM; no other byte changes.
-/
def Obligations.MatrixInstructionsComplete : Prop := Claims.MultiplyCompletes ∧ Claims.ClearCompletes ∧ Claims.ConversionCompletes

/-- SDCFG of a descriptor in order gives the cell its channel; a scan or flush of one element sends nothing below its
threshold, else it updates S and sends the event; no other byte changes. -/
def Obligations.DeltaInstructionsComplete : Prop := Claims.ChannelConfigured ∧ Claims.ScanCompletes

/-- PUSH and PUSHX move their bytes, enter the mailbox entry and retire; FACT opens its row, FCONS and FWRITE move the
1,024 bytes of an open row, FPRE closes it; no other byte changes. -/
def Obligations.ForagerInstructionsComplete : Prop := Claims.CopiesComplete ∧ Claims.FramesComplete

/-- SWARM goes on in every member once each follower cell has granted its claim; an arrival is counted and its strand
goes on; CINV and CFLUSH of a dirty line write it back. -/
def Obligations.SynchronisingInstructionsComplete : Prop := Claims.SwarmCompletes ∧ Claims.ArrivalsComplete ∧ Claims.SliceOperationsComplete

/-- XST, XFLAG, XAMO and XAM in an open step come to stand in their pen; divisions, square roots, loads, atomics,
full/empty reads and XLD get their result back into wd, and nothing else changes but FFLAGS and CF. -/
def Obligations.LongAndSteppedComplete : Prop := Claims.SteppedComplete ∧ Claims.LongResultsComplete

/-- A block of a copy moves its bytes and no other, a finished copy enters the mailbox and retires, and a forwarded
PUSHX enters the proxy list or traps PERMISSION_MASK. -/
def Obligations.CopiesMove : Prop := Claims.CopyBlock ∧ Claims.CopyEnds ∧ Claims.ProxyEntry

/-- SBIND binds a stream, SRD takes its oldest element or traps where none is left, SUNBIND frees its context, and a block
brings its elements in ascending order. Which context SBIND takes is the model's choice (log entry 53). -/
def Obligations.StreamsFlow : Prop := Claims.Streams ∧ Claims.StreamBlock

/-- XST, XFLAG, XAMO and XAM send their entry in an open step and take their allotment; XLD reads published contents, and of a
result record its value or its trap; a pen appends an accepted entry and memory stays; AMOV leaves what the atomics of its
elements, in order, leave. -/
def Obligations.SteppedOperationsSent : Prop := Claims.SteppedStores ∧ Claims.SteppedAtomic ∧ Claims.SteppedMessage ∧
  Claims.SteppedLoad ∧ Claims.RecordsRead ∧ Claims.SteppedAccepted ∧ Claims.AmovCompletes ∧ Claims.AmovElements

/-- Frame instructions enter the forager's queue or trap on a bad row word; FSTAT waits for the queue and reads the
port; activates open rows, FCONS and FWRITE move 1,024 bytes, FPRE closes, and a refresh takes an open row away after
writing it back. -/
def Obligations.FramesMove : Prop := Claims.FrameIssues ∧ Claims.FrameStatus ∧ Claims.FrameActivates ∧
  Claims.FrameMoves ∧ Claims.FrameFeeds ∧ Claims.FrameRefreshed

/-- Page-state entries and sectors are filled; banks wake, clear and become drowsy; service writes are taken or
refused. The 2,048 entries filled last stay, and a bank reads 0 from its gating on: the model's (log entries 42 and 26). -/
def Obligations.CachesAndBanks : Prop := Claims.CachesFill ∧ Claims.BanksTurn ∧ Claims.ServiceWrites

/-- Two equal gathers seal a step; apply, install and release follow one another; the release counts STEP up and lets
folded strands go on. -/
def Obligations.StepsFold : Prop := Claims.StepSealed ∧ Claims.FoldPhases ∧ Claims.StepReleased

/-- An entry of a pen changes its doubleword by the rule of its page, an XAMO by its operation with the old value kept
for the install, and no other byte changes; the install writes result records, takes page requests and renews
allotments; a partial goes one hop towards its home, along the minimal route or a detour, and combines there. -/
def Obligations.EntriesAreApplied : Prop := Claims.EntryApplied ∧ Claims.AtomicApplied ∧ Claims.HiveInstalls ∧
  Claims.PartialMoves ∧ Claims.RoutesTaken ∧ Claims.RequestsTaken

/-- A missing digest halts both replicas before their seal, with pens kept, which is the model's reading (log entry 36); a
stalled seal halts its job, STOP stops it, and JOBCTL resumes or ends one (log entry 38), but resumes none that has lost a unit for good
(log entry 39). -/
def Obligations.JobsHaltAndStop : Prop := Claims.DigestMissing ∧ Claims.StallHalts ∧ Claims.JobStops ∧
  Claims.JobControlled

/-- With the doorbell rung, transfers and messages of the host's ring change what they name and post their record, and
act only then; a debugger reads and writes TCM outside bound workspaces. The order and the head of the ring and a debugger's
access to no cell are the model's (log entries 37, 61 and 65). -/
def Obligations.HostAndDebugger : Prop := Claims.HostTransfers ∧ Claims.HostMessages ∧ Claims.DebuggerAccess

/-- A launch whose run tree the planner can place starts a job with an open step 0 on free strands, and one that it
cannot answers STATUS 1; management registers take values in range. The planner's operand is log entry 31, the verbs' STATUS log
entry 38. -/
def Obligations.JobsLaunch : Prop := Claims.JobLaunched ∧ Claims.ManagementRegisters

/-- Each stage of boot ends in the next or in stage 15; the recovery window takes bytes for slot B; stage 4 clears the
memories; power and heat move the clock, raise the alarm and power the hive down; PERST resets the endpoint only. The codes of bad
slots, the contents of DRAM without power and T0 are the model's (log entries 2, 20, 27 and 41). -/
def Obligations.BootAndPower : Prop := Claims.BootStages ∧ Claims.MemoriesCleared ∧ Claims.PowerAndHeat

/-- A spare takes over at its reset state, two missed probes fence a cell and halt its job with cause 4, and a lost hive halts with
cause 5. What a fence and a lost hive do to a job is the model's reading (log entry 39). -/
def Obligations.RepairsAct : Prop := Claims.SpareTakesOver ∧ Claims.ProbesFence ∧ Claims.LinksAndHives
end

