-- ==== Sys2Proof/Laws/Encoding.lean ====
section
/-! SUPPORT. The codes of an instruction word's fields lie below their field's size. -/

namespace Sys2Proof.Laws

theorem fmt_code_lt (f : Fmt) : f.code < 16 := by cases f <;> decide
theorem rm_code_lt (r : Rm) : r.code < 8 := by cases r <;> decide
theorem pred_code_lt (p : Pred) : p.code < 8 := by cases p <;> decide
theorem sgn_code_lt (o : SgnOp) : o.code < 4 := by cases o <;> decide
theorem red_code_lt (o : RedOp) : o.code < 8 := by cases o <;> decide
theorem aop_code_lt (o : Aop) : o.code < 16 := by cases o <;> simp only [Aop.code] <;> omega
theorem scope_code_lt (c : Scope) : c.code < 8 := by cases c <;> decide
theorem swarm_code_lt (n : SwarmSize) : n.code < 4 := by cases n <;> decide
theorem rule_code_lt (r : Rule) : r.code < 8 := by cases r <;> decide
theorem bool_lt (b : Bool) : b.toNat < 2 := by cases b <;> decide
theorem ptr_enc_lt (p : PtrArg) : p.enc < 16 := by
  have := bool_lt p.inc
  simp only [PtrArg.enc]
  omega
theorem bar_enc_lt (b : Option (Fin 8)) : encBar b < 16 := by
  cases b <;> simp only [encBar] <;> omega
theorem encD_lt (d : WReg) : encD d < 2 ^ 24 := by simp only [encD]; omega
theorem encA_lt (a : WReg) : encA a < 2 ^ 19 := by simp only [encA]; omega
theorem encB_lt (b : WReg) : encB b < 2 ^ 14 := by simp only [encB]; omega

end Sys2Proof.Laws
end

