-- ==== Sys2Proof/Laws/State.lean ====
section
/-! SUPPORT. The small lemmas of the state: lists kept by key, one lemma per field and update, and what reading a part
after writing a part gives. -/

namespace Sys2Proof.Machine

/-! ### Lists kept by key -/

theorem look_put_same {α : Type} (l : List (Nat × α)) (n : Nat) (a : α) : look (put l n a) n = some a := by
  induction l with
  | nil => simp [put, look]
  | cons p r ih =>
    simp only [put]
    split
    · simp [look]
    · split
      · simp [look]
      · simp [look, *]

theorem look_put_other {α : Type} (l : List (Nat × α)) (n m : Nat) (a : α) (h : m ≠ n) :
    look (put l n a) m = look l m := by
  induction l with
  | nil => simp [put, look, Ne.symm h]
  | cons p r ih =>
    simp only [put]
    split
    · subst_vars; simp [look, Ne.symm h]
    · split
      · simp [look, Ne.symm h]
      · simp only [look, ih]

theorem put_put {α : Type} (l : List (Nat × α)) (n : Nat) (a b : α) : put (put l n a) n b = put l n b := by
  induction l with
  | nil => simp [put]
  | cons p r ih =>
    by_cases h1 : p.1 = n
    · simp [put, h1]
    · by_cases h2 : n < p.1
      · simp [put, h1, h2]
      · simp [put, h1, h2, ih]

/-! ### One lemma per field and update -/

@[simp] theorem State.setCell_combsPerDie (s : State) (g : CellId) (c : Cell) : (s.setCell g c).combsPerDie = s.combsPerDie := rfl
@[simp] theorem State.setCell_now (s : State) (g : CellId) (c : Cell) : (s.setCell g c).now = s.now := rfl
@[simp] theorem State.setCell_combs (s : State) (g : CellId) (c : Cell) : (s.setCell g c).combs = s.combs := rfl
@[simp] theorem State.setCell_hives (s : State) (g : CellId) (c : Cell) : (s.setCell g c).hives = s.hives := rfl
@[simp] theorem State.setCell_jobs (s : State) (g : CellId) (c : Cell) : (s.setCell g c).jobs = s.jobs := rfl
@[simp] theorem State.setCell_copies (s : State) (g : CellId) (c : Cell) : (s.setCell g c).copies = s.copies := rfl
@[simp] theorem State.setCell_mem (s : State) (g : CellId) (c : Cell) : (s.setCell g c).mem = s.mem := rfl
@[simp] theorem State.setCell_shadow (s : State) (g : CellId) (c : Cell) : (s.setCell g c).shadow = s.shadow := rfl
@[simp] theorem State.setCell_shadowGood (s : State) (g : CellId) (c : Cell) : (s.setCell g c).shadowGood = s.shadowGood := rfl
@[simp] theorem State.setCell_drover (s : State) (g : CellId) (c : Cell) : (s.setCell g c).drover = s.drover := rfl
@[simp] theorem State.setCell_flash (s : State) (g : CellId) (c : Cell) : (s.setCell g c).flash = s.flash := rfl
@[simp] theorem State.setCell_marks (s : State) (g : CellId) (c : Cell) : (s.setCell g c).marks = s.marks := rfl
@[simp] theorem State.setCell_full (s : State) (g : CellId) (c : Cell) : (s.setCell g c).full = s.full := rfl
@[simp] theorem State.setCell_zov (s : State) (g : CellId) (c : Cell) : (s.setCell g c).zov = s.zov := rfl
@[simp] theorem State.setCell_pending (s : State) (g : CellId) (c : Cell) : (s.setCell g c).pending = s.pending := rfl
@[simp] theorem State.setCell_returns (s : State) (g : CellId) (c : Cell) : (s.setCell g c).returns = s.returns := rfl
@[simp] theorem State.setCell_oracle (s : State) (g : CellId) (c : Cell) : (s.setCell g c).oracle = s.oracle := rfl
@[simp] theorem State.setCell_curCell (s : State) (g : CellId) (c : Cell) : (s.setCell g c).curCell = s.curCell := rfl
@[simp] theorem State.setCell_curStrand (s : State) (g : CellId) (c : Cell) : (s.setCell g c).curStrand = s.curStrand := rfl
@[simp] theorem State.setCell_nextId (s : State) (g : CellId) (c : Cell) : (s.setCell g c).nextId = s.nextId := rfl
@[simp] theorem State.setCell_free (s : State) (g : CellId) (c : Cell) : (s.setCell g c).free = s.free := rfl
@[simp] theorem State.setComb_combsPerDie (s : State) (n : Nat) (c : Comb) : (s.setComb n c).combsPerDie = s.combsPerDie := rfl
@[simp] theorem State.setComb_now (s : State) (n : Nat) (c : Comb) : (s.setComb n c).now = s.now := rfl
@[simp] theorem State.setComb_cells (s : State) (n : Nat) (c : Comb) : (s.setComb n c).cells = s.cells := rfl
@[simp] theorem State.setComb_hives (s : State) (n : Nat) (c : Comb) : (s.setComb n c).hives = s.hives := rfl
@[simp] theorem State.setComb_jobs (s : State) (n : Nat) (c : Comb) : (s.setComb n c).jobs = s.jobs := rfl
@[simp] theorem State.setComb_copies (s : State) (n : Nat) (c : Comb) : (s.setComb n c).copies = s.copies := rfl
@[simp] theorem State.setComb_mem (s : State) (n : Nat) (c : Comb) : (s.setComb n c).mem = s.mem := rfl
@[simp] theorem State.setComb_shadow (s : State) (n : Nat) (c : Comb) : (s.setComb n c).shadow = s.shadow := rfl
@[simp] theorem State.setComb_shadowGood (s : State) (n : Nat) (c : Comb) : (s.setComb n c).shadowGood = s.shadowGood := rfl
@[simp] theorem State.setComb_drover (s : State) (n : Nat) (c : Comb) : (s.setComb n c).drover = s.drover := rfl
@[simp] theorem State.setComb_flash (s : State) (n : Nat) (c : Comb) : (s.setComb n c).flash = s.flash := rfl
@[simp] theorem State.setComb_marks (s : State) (n : Nat) (c : Comb) : (s.setComb n c).marks = s.marks := rfl
@[simp] theorem State.setComb_full (s : State) (n : Nat) (c : Comb) : (s.setComb n c).full = s.full := rfl
@[simp] theorem State.setComb_zov (s : State) (n : Nat) (c : Comb) : (s.setComb n c).zov = s.zov := rfl
@[simp] theorem State.setComb_pending (s : State) (n : Nat) (c : Comb) : (s.setComb n c).pending = s.pending := rfl
@[simp] theorem State.setComb_returns (s : State) (n : Nat) (c : Comb) : (s.setComb n c).returns = s.returns := rfl
@[simp] theorem State.setComb_oracle (s : State) (n : Nat) (c : Comb) : (s.setComb n c).oracle = s.oracle := rfl
@[simp] theorem State.setComb_curCell (s : State) (n : Nat) (c : Comb) : (s.setComb n c).curCell = s.curCell := rfl
@[simp] theorem State.setComb_curStrand (s : State) (n : Nat) (c : Comb) : (s.setComb n c).curStrand = s.curStrand := rfl
@[simp] theorem State.setComb_nextId (s : State) (n : Nat) (c : Comb) : (s.setComb n c).nextId = s.nextId := rfl
@[simp] theorem State.setComb_free (s : State) (n : Nat) (c : Comb) : (s.setComb n c).free = s.free := rfl
@[simp] theorem State.setHive_combsPerDie (s : State) (n : Nat) (h : Hive) : (s.setHive n h).combsPerDie = s.combsPerDie := rfl
@[simp] theorem State.setHive_now (s : State) (n : Nat) (h : Hive) : (s.setHive n h).now = s.now := rfl
@[simp] theorem State.setHive_cells (s : State) (n : Nat) (h : Hive) : (s.setHive n h).cells = s.cells := rfl
@[simp] theorem State.setHive_combs (s : State) (n : Nat) (h : Hive) : (s.setHive n h).combs = s.combs := rfl
@[simp] theorem State.setHive_jobs (s : State) (n : Nat) (h : Hive) : (s.setHive n h).jobs = s.jobs := rfl
@[simp] theorem State.setHive_copies (s : State) (n : Nat) (h : Hive) : (s.setHive n h).copies = s.copies := rfl
@[simp] theorem State.setHive_mem (s : State) (n : Nat) (h : Hive) : (s.setHive n h).mem = s.mem := rfl
@[simp] theorem State.setHive_shadow (s : State) (n : Nat) (h : Hive) : (s.setHive n h).shadow = s.shadow := rfl
@[simp] theorem State.setHive_shadowGood (s : State) (n : Nat) (h : Hive) : (s.setHive n h).shadowGood = s.shadowGood := rfl
@[simp] theorem State.setHive_drover (s : State) (n : Nat) (h : Hive) : (s.setHive n h).drover = s.drover := rfl
@[simp] theorem State.setHive_flash (s : State) (n : Nat) (h : Hive) : (s.setHive n h).flash = s.flash := rfl
@[simp] theorem State.setHive_marks (s : State) (n : Nat) (h : Hive) : (s.setHive n h).marks = s.marks := rfl
@[simp] theorem State.setHive_full (s : State) (n : Nat) (h : Hive) : (s.setHive n h).full = s.full := rfl
@[simp] theorem State.setHive_zov (s : State) (n : Nat) (h : Hive) : (s.setHive n h).zov = s.zov := rfl
@[simp] theorem State.setHive_pending (s : State) (n : Nat) (h : Hive) : (s.setHive n h).pending = s.pending := rfl
@[simp] theorem State.setHive_returns (s : State) (n : Nat) (h : Hive) : (s.setHive n h).returns = s.returns := rfl
@[simp] theorem State.setHive_oracle (s : State) (n : Nat) (h : Hive) : (s.setHive n h).oracle = s.oracle := rfl
@[simp] theorem State.setHive_curCell (s : State) (n : Nat) (h : Hive) : (s.setHive n h).curCell = s.curCell := rfl
@[simp] theorem State.setHive_curStrand (s : State) (n : Nat) (h : Hive) : (s.setHive n h).curStrand = s.curStrand := rfl
@[simp] theorem State.setHive_nextId (s : State) (n : Nat) (h : Hive) : (s.setHive n h).nextId = s.nextId := rfl
@[simp] theorem State.setHive_free (s : State) (n : Nat) (h : Hive) : (s.setHive n h).free = s.free := rfl
@[simp] theorem State.setJob_combsPerDie (s : State) (n : Nat) (j : Job) : (s.setJob n j).combsPerDie = s.combsPerDie := rfl
@[simp] theorem State.setJob_now (s : State) (n : Nat) (j : Job) : (s.setJob n j).now = s.now := rfl
@[simp] theorem State.setJob_cells (s : State) (n : Nat) (j : Job) : (s.setJob n j).cells = s.cells := rfl
@[simp] theorem State.setJob_combs (s : State) (n : Nat) (j : Job) : (s.setJob n j).combs = s.combs := rfl
@[simp] theorem State.setJob_hives (s : State) (n : Nat) (j : Job) : (s.setJob n j).hives = s.hives := rfl
@[simp] theorem State.setJob_copies (s : State) (n : Nat) (j : Job) : (s.setJob n j).copies = s.copies := rfl
@[simp] theorem State.setJob_mem (s : State) (n : Nat) (j : Job) : (s.setJob n j).mem = s.mem := rfl
@[simp] theorem State.setJob_shadow (s : State) (n : Nat) (j : Job) : (s.setJob n j).shadow = s.shadow := rfl
@[simp] theorem State.setJob_shadowGood (s : State) (n : Nat) (j : Job) : (s.setJob n j).shadowGood = s.shadowGood := rfl
@[simp] theorem State.setJob_drover (s : State) (n : Nat) (j : Job) : (s.setJob n j).drover = s.drover := rfl
@[simp] theorem State.setJob_flash (s : State) (n : Nat) (j : Job) : (s.setJob n j).flash = s.flash := rfl
@[simp] theorem State.setJob_marks (s : State) (n : Nat) (j : Job) : (s.setJob n j).marks = s.marks := rfl
@[simp] theorem State.setJob_full (s : State) (n : Nat) (j : Job) : (s.setJob n j).full = s.full := rfl
@[simp] theorem State.setJob_zov (s : State) (n : Nat) (j : Job) : (s.setJob n j).zov = s.zov := rfl
@[simp] theorem State.setJob_pending (s : State) (n : Nat) (j : Job) : (s.setJob n j).pending = s.pending := rfl
@[simp] theorem State.setJob_returns (s : State) (n : Nat) (j : Job) : (s.setJob n j).returns = s.returns := rfl
@[simp] theorem State.setJob_oracle (s : State) (n : Nat) (j : Job) : (s.setJob n j).oracle = s.oracle := rfl
@[simp] theorem State.setJob_curCell (s : State) (n : Nat) (j : Job) : (s.setJob n j).curCell = s.curCell := rfl
@[simp] theorem State.setJob_curStrand (s : State) (n : Nat) (j : Job) : (s.setJob n j).curStrand = s.curStrand := rfl
@[simp] theorem State.setJob_nextId (s : State) (n : Nat) (j : Job) : (s.setJob n j).nextId = s.nextId := rfl
@[simp] theorem State.setJob_free (s : State) (n : Nat) (j : Job) : (s.setJob n j).free = s.free := rfl
@[simp] theorem State.setStrand_combsPerDie (s : State) (g : CellId) (k : StrandId) (t : Strand) : (s.setStrand g k t).combsPerDie = s.combsPerDie := rfl
@[simp] theorem State.setStrand_now (s : State) (g : CellId) (k : StrandId) (t : Strand) : (s.setStrand g k t).now = s.now := rfl
@[simp] theorem State.setStrand_combs (s : State) (g : CellId) (k : StrandId) (t : Strand) : (s.setStrand g k t).combs = s.combs := rfl
@[simp] theorem State.setStrand_hives (s : State) (g : CellId) (k : StrandId) (t : Strand) : (s.setStrand g k t).hives = s.hives := rfl
@[simp] theorem State.setStrand_jobs (s : State) (g : CellId) (k : StrandId) (t : Strand) : (s.setStrand g k t).jobs = s.jobs := rfl
@[simp] theorem State.setStrand_copies (s : State) (g : CellId) (k : StrandId) (t : Strand) : (s.setStrand g k t).copies = s.copies := rfl
@[simp] theorem State.setStrand_mem (s : State) (g : CellId) (k : StrandId) (t : Strand) : (s.setStrand g k t).mem = s.mem := rfl
@[simp] theorem State.setStrand_shadow (s : State) (g : CellId) (k : StrandId) (t : Strand) : (s.setStrand g k t).shadow = s.shadow := rfl
@[simp] theorem State.setStrand_shadowGood (s : State) (g : CellId) (k : StrandId) (t : Strand) : (s.setStrand g k t).shadowGood = s.shadowGood := rfl
@[simp] theorem State.setStrand_drover (s : State) (g : CellId) (k : StrandId) (t : Strand) : (s.setStrand g k t).drover = s.drover := rfl
@[simp] theorem State.setStrand_flash (s : State) (g : CellId) (k : StrandId) (t : Strand) : (s.setStrand g k t).flash = s.flash := rfl
@[simp] theorem State.setStrand_marks (s : State) (g : CellId) (k : StrandId) (t : Strand) : (s.setStrand g k t).marks = s.marks := rfl
@[simp] theorem State.setStrand_full (s : State) (g : CellId) (k : StrandId) (t : Strand) : (s.setStrand g k t).full = s.full := rfl
@[simp] theorem State.setStrand_zov (s : State) (g : CellId) (k : StrandId) (t : Strand) : (s.setStrand g k t).zov = s.zov := rfl
@[simp] theorem State.setStrand_pending (s : State) (g : CellId) (k : StrandId) (t : Strand) : (s.setStrand g k t).pending = s.pending := rfl
@[simp] theorem State.setStrand_returns (s : State) (g : CellId) (k : StrandId) (t : Strand) : (s.setStrand g k t).returns = s.returns := rfl
@[simp] theorem State.setStrand_oracle (s : State) (g : CellId) (k : StrandId) (t : Strand) : (s.setStrand g k t).oracle = s.oracle := rfl
@[simp] theorem State.setStrand_curCell (s : State) (g : CellId) (k : StrandId) (t : Strand) : (s.setStrand g k t).curCell = s.curCell := rfl
@[simp] theorem State.setStrand_curStrand (s : State) (g : CellId) (k : StrandId) (t : Strand) : (s.setStrand g k t).curStrand = s.curStrand := rfl
@[simp] theorem State.setStrand_nextId (s : State) (g : CellId) (k : StrandId) (t : Strand) : (s.setStrand g k t).nextId = s.nextId := rfl
@[simp] theorem State.setStrand_free (s : State) (g : CellId) (k : StrandId) (t : Strand) : (s.setStrand g k t).free = s.free := rfl
@[simp] theorem State.setCur_combsPerDie (s : State) (c : Cell) : (s.setCur c).combsPerDie = s.combsPerDie := rfl
@[simp] theorem State.setCur_now (s : State) (c : Cell) : (s.setCur c).now = s.now := rfl
@[simp] theorem State.setCur_combs (s : State) (c : Cell) : (s.setCur c).combs = s.combs := rfl
@[simp] theorem State.setCur_hives (s : State) (c : Cell) : (s.setCur c).hives = s.hives := rfl
@[simp] theorem State.setCur_jobs (s : State) (c : Cell) : (s.setCur c).jobs = s.jobs := rfl
@[simp] theorem State.setCur_copies (s : State) (c : Cell) : (s.setCur c).copies = s.copies := rfl
@[simp] theorem State.setCur_mem (s : State) (c : Cell) : (s.setCur c).mem = s.mem := rfl
@[simp] theorem State.setCur_shadow (s : State) (c : Cell) : (s.setCur c).shadow = s.shadow := rfl
@[simp] theorem State.setCur_shadowGood (s : State) (c : Cell) : (s.setCur c).shadowGood = s.shadowGood := rfl
@[simp] theorem State.setCur_drover (s : State) (c : Cell) : (s.setCur c).drover = s.drover := rfl
@[simp] theorem State.setCur_flash (s : State) (c : Cell) : (s.setCur c).flash = s.flash := rfl
@[simp] theorem State.setCur_marks (s : State) (c : Cell) : (s.setCur c).marks = s.marks := rfl
@[simp] theorem State.setCur_full (s : State) (c : Cell) : (s.setCur c).full = s.full := rfl
@[simp] theorem State.setCur_zov (s : State) (c : Cell) : (s.setCur c).zov = s.zov := rfl
@[simp] theorem State.setCur_pending (s : State) (c : Cell) : (s.setCur c).pending = s.pending := rfl
@[simp] theorem State.setCur_returns (s : State) (c : Cell) : (s.setCur c).returns = s.returns := rfl
@[simp] theorem State.setCur_oracle (s : State) (c : Cell) : (s.setCur c).oracle = s.oracle := rfl
@[simp] theorem State.setCur_curCell (s : State) (c : Cell) : (s.setCur c).curCell = s.curCell := rfl
@[simp] theorem State.setCur_curStrand (s : State) (c : Cell) : (s.setCur c).curStrand = s.curStrand := rfl
@[simp] theorem State.setCur_nextId (s : State) (c : Cell) : (s.setCur c).nextId = s.nextId := rfl
@[simp] theorem State.setCur_free (s : State) (c : Cell) : (s.setCur c).free = s.free := rfl
@[simp] theorem State.setMe_combsPerDie (s : State) (t : Strand) : (s.setMe t).combsPerDie = s.combsPerDie := rfl
@[simp] theorem State.setMe_now (s : State) (t : Strand) : (s.setMe t).now = s.now := rfl
@[simp] theorem State.setMe_combs (s : State) (t : Strand) : (s.setMe t).combs = s.combs := rfl
@[simp] theorem State.setMe_hives (s : State) (t : Strand) : (s.setMe t).hives = s.hives := rfl
@[simp] theorem State.setMe_jobs (s : State) (t : Strand) : (s.setMe t).jobs = s.jobs := rfl
@[simp] theorem State.setMe_copies (s : State) (t : Strand) : (s.setMe t).copies = s.copies := rfl
@[simp] theorem State.setMe_mem (s : State) (t : Strand) : (s.setMe t).mem = s.mem := rfl
@[simp] theorem State.setMe_shadow (s : State) (t : Strand) : (s.setMe t).shadow = s.shadow := rfl
@[simp] theorem State.setMe_shadowGood (s : State) (t : Strand) : (s.setMe t).shadowGood = s.shadowGood := rfl
@[simp] theorem State.setMe_drover (s : State) (t : Strand) : (s.setMe t).drover = s.drover := rfl
@[simp] theorem State.setMe_flash (s : State) (t : Strand) : (s.setMe t).flash = s.flash := rfl
@[simp] theorem State.setMe_marks (s : State) (t : Strand) : (s.setMe t).marks = s.marks := rfl
@[simp] theorem State.setMe_full (s : State) (t : Strand) : (s.setMe t).full = s.full := rfl
@[simp] theorem State.setMe_zov (s : State) (t : Strand) : (s.setMe t).zov = s.zov := rfl
@[simp] theorem State.setMe_pending (s : State) (t : Strand) : (s.setMe t).pending = s.pending := rfl
@[simp] theorem State.setMe_returns (s : State) (t : Strand) : (s.setMe t).returns = s.returns := rfl
@[simp] theorem State.setMe_oracle (s : State) (t : Strand) : (s.setMe t).oracle = s.oracle := rfl
@[simp] theorem State.setMe_curCell (s : State) (t : Strand) : (s.setMe t).curCell = s.curCell := rfl
@[simp] theorem State.setMe_curStrand (s : State) (t : Strand) : (s.setMe t).curStrand = s.curStrand := rfl
@[simp] theorem State.setMe_nextId (s : State) (t : Strand) : (s.setMe t).nextId = s.nextId := rfl
@[simp] theorem State.setMe_free (s : State) (t : Strand) : (s.setMe t).free = s.free := rfl
@[simp] theorem State.at_combsPerDie (s : State) (g : CellId) (k : StrandId) : (s.at g k).combsPerDie = s.combsPerDie := rfl
@[simp] theorem State.at_now (s : State) (g : CellId) (k : StrandId) : (s.at g k).now = s.now := rfl
@[simp] theorem State.at_cells (s : State) (g : CellId) (k : StrandId) : (s.at g k).cells = s.cells := rfl
@[simp] theorem State.at_combs (s : State) (g : CellId) (k : StrandId) : (s.at g k).combs = s.combs := rfl
@[simp] theorem State.at_hives (s : State) (g : CellId) (k : StrandId) : (s.at g k).hives = s.hives := rfl
@[simp] theorem State.at_jobs (s : State) (g : CellId) (k : StrandId) : (s.at g k).jobs = s.jobs := rfl
@[simp] theorem State.at_copies (s : State) (g : CellId) (k : StrandId) : (s.at g k).copies = s.copies := rfl
@[simp] theorem State.at_mem (s : State) (g : CellId) (k : StrandId) : (s.at g k).mem = s.mem := rfl
@[simp] theorem State.at_shadow (s : State) (g : CellId) (k : StrandId) : (s.at g k).shadow = s.shadow := rfl
@[simp] theorem State.at_shadowGood (s : State) (g : CellId) (k : StrandId) : (s.at g k).shadowGood = s.shadowGood := rfl
@[simp] theorem State.at_drover (s : State) (g : CellId) (k : StrandId) : (s.at g k).drover = s.drover := rfl
@[simp] theorem State.at_flash (s : State) (g : CellId) (k : StrandId) : (s.at g k).flash = s.flash := rfl
@[simp] theorem State.at_marks (s : State) (g : CellId) (k : StrandId) : (s.at g k).marks = s.marks := rfl
@[simp] theorem State.at_full (s : State) (g : CellId) (k : StrandId) : (s.at g k).full = s.full := rfl
@[simp] theorem State.at_zov (s : State) (g : CellId) (k : StrandId) : (s.at g k).zov = s.zov := rfl
@[simp] theorem State.at_pending (s : State) (g : CellId) (k : StrandId) : (s.at g k).pending = s.pending := rfl
@[simp] theorem State.at_returns (s : State) (g : CellId) (k : StrandId) : (s.at g k).returns = s.returns := rfl
@[simp] theorem State.at_oracle (s : State) (g : CellId) (k : StrandId) : (s.at g k).oracle = s.oracle := rfl
@[simp] theorem State.at_nextId (s : State) (g : CellId) (k : StrandId) : (s.at g k).nextId = s.nextId := rfl
@[simp] theorem State.at_free (s : State) (g : CellId) (k : StrandId) : (s.at g k).free = s.free := rfl
@[simp] theorem State.push_combsPerDie (s : State) (i : Instr) : (s.push i).combsPerDie = s.combsPerDie := rfl
@[simp] theorem State.push_now (s : State) (i : Instr) : (s.push i).now = s.now := rfl
@[simp] theorem State.push_cells (s : State) (i : Instr) : (s.push i).cells = s.cells := rfl
@[simp] theorem State.push_combs (s : State) (i : Instr) : (s.push i).combs = s.combs := rfl
@[simp] theorem State.push_hives (s : State) (i : Instr) : (s.push i).hives = s.hives := rfl
@[simp] theorem State.push_jobs (s : State) (i : Instr) : (s.push i).jobs = s.jobs := rfl
@[simp] theorem State.push_copies (s : State) (i : Instr) : (s.push i).copies = s.copies := rfl
@[simp] theorem State.push_mem (s : State) (i : Instr) : (s.push i).mem = s.mem := rfl
@[simp] theorem State.push_shadow (s : State) (i : Instr) : (s.push i).shadow = s.shadow := rfl
@[simp] theorem State.push_shadowGood (s : State) (i : Instr) : (s.push i).shadowGood = s.shadowGood := rfl
@[simp] theorem State.push_drover (s : State) (i : Instr) : (s.push i).drover = s.drover := rfl
@[simp] theorem State.push_flash (s : State) (i : Instr) : (s.push i).flash = s.flash := rfl
@[simp] theorem State.push_marks (s : State) (i : Instr) : (s.push i).marks = s.marks := rfl
@[simp] theorem State.push_full (s : State) (i : Instr) : (s.push i).full = s.full := rfl
@[simp] theorem State.push_zov (s : State) (i : Instr) : (s.push i).zov = s.zov := rfl
@[simp] theorem State.push_oracle (s : State) (i : Instr) : (s.push i).oracle = s.oracle := rfl
@[simp] theorem State.push_curCell (s : State) (i : Instr) : (s.push i).curCell = s.curCell := rfl
@[simp] theorem State.push_curStrand (s : State) (i : Instr) : (s.push i).curStrand = s.curStrand := rfl
@[simp] theorem State.push_nextId (s : State) (i : Instr) : (s.push i).nextId = s.nextId := rfl
@[simp] theorem State.push_free (s : State) (i : Instr) : (s.push i).free = s.free := rfl
@[simp] theorem State.clearMarks_combsPerDie (s : State) (a n : Nat) : (s.clearMarks a n).combsPerDie = s.combsPerDie := rfl
@[simp] theorem State.clearMarks_now (s : State) (a n : Nat) : (s.clearMarks a n).now = s.now := rfl
@[simp] theorem State.clearMarks_cells (s : State) (a n : Nat) : (s.clearMarks a n).cells = s.cells := rfl
@[simp] theorem State.clearMarks_combs (s : State) (a n : Nat) : (s.clearMarks a n).combs = s.combs := rfl
@[simp] theorem State.clearMarks_hives (s : State) (a n : Nat) : (s.clearMarks a n).hives = s.hives := rfl
@[simp] theorem State.clearMarks_jobs (s : State) (a n : Nat) : (s.clearMarks a n).jobs = s.jobs := rfl
@[simp] theorem State.clearMarks_copies (s : State) (a n : Nat) : (s.clearMarks a n).copies = s.copies := rfl
@[simp] theorem State.clearMarks_mem (s : State) (a n : Nat) : (s.clearMarks a n).mem = s.mem := rfl
@[simp] theorem State.clearMarks_shadow (s : State) (a n : Nat) : (s.clearMarks a n).shadow = s.shadow := rfl
@[simp] theorem State.clearMarks_shadowGood (s : State) (a n : Nat) : (s.clearMarks a n).shadowGood = s.shadowGood := rfl
@[simp] theorem State.clearMarks_drover (s : State) (a n : Nat) : (s.clearMarks a n).drover = s.drover := rfl
@[simp] theorem State.clearMarks_flash (s : State) (a n : Nat) : (s.clearMarks a n).flash = s.flash := rfl
@[simp] theorem State.clearMarks_full (s : State) (a n : Nat) : (s.clearMarks a n).full = s.full := rfl
@[simp] theorem State.clearMarks_zov (s : State) (a n : Nat) : (s.clearMarks a n).zov = s.zov := rfl
@[simp] theorem State.clearMarks_pending (s : State) (a n : Nat) : (s.clearMarks a n).pending = s.pending := rfl
@[simp] theorem State.clearMarks_returns (s : State) (a n : Nat) : (s.clearMarks a n).returns = s.returns := rfl
@[simp] theorem State.clearMarks_oracle (s : State) (a n : Nat) : (s.clearMarks a n).oracle = s.oracle := rfl
@[simp] theorem State.clearMarks_curCell (s : State) (a n : Nat) : (s.clearMarks a n).curCell = s.curCell := rfl
@[simp] theorem State.clearMarks_curStrand (s : State) (a n : Nat) : (s.clearMarks a n).curStrand = s.curStrand := rfl
@[simp] theorem State.clearMarks_nextId (s : State) (a n : Nat) : (s.clearMarks a n).nextId = s.nextId := rfl
@[simp] theorem State.clearMarks_free (s : State) (a n : Nat) : (s.clearMarks a n).free = s.free := rfl
@[simp] theorem State.writeBytes_combsPerDie (s : State) (a : Nat) (l : List Byte) : (s.writeBytes a l).combsPerDie = s.combsPerDie := rfl
@[simp] theorem State.writeBytes_now (s : State) (a : Nat) (l : List Byte) : (s.writeBytes a l).now = s.now := rfl
@[simp] theorem State.writeBytes_cells (s : State) (a : Nat) (l : List Byte) : (s.writeBytes a l).cells = s.cells := rfl
@[simp] theorem State.writeBytes_combs (s : State) (a : Nat) (l : List Byte) : (s.writeBytes a l).combs = s.combs := rfl
@[simp] theorem State.writeBytes_hives (s : State) (a : Nat) (l : List Byte) : (s.writeBytes a l).hives = s.hives := rfl
@[simp] theorem State.writeBytes_jobs (s : State) (a : Nat) (l : List Byte) : (s.writeBytes a l).jobs = s.jobs := rfl
@[simp] theorem State.writeBytes_copies (s : State) (a : Nat) (l : List Byte) : (s.writeBytes a l).copies = s.copies := rfl
@[simp] theorem State.writeBytes_shadow (s : State) (a : Nat) (l : List Byte) : (s.writeBytes a l).shadow = s.shadow := rfl
@[simp] theorem State.writeBytes_shadowGood (s : State) (a : Nat) (l : List Byte) : (s.writeBytes a l).shadowGood = s.shadowGood := rfl
@[simp] theorem State.writeBytes_drover (s : State) (a : Nat) (l : List Byte) : (s.writeBytes a l).drover = s.drover := rfl
@[simp] theorem State.writeBytes_flash (s : State) (a : Nat) (l : List Byte) : (s.writeBytes a l).flash = s.flash := rfl
@[simp] theorem State.writeBytes_full (s : State) (a : Nat) (l : List Byte) : (s.writeBytes a l).full = s.full := rfl
@[simp] theorem State.writeBytes_zov (s : State) (a : Nat) (l : List Byte) : (s.writeBytes a l).zov = s.zov := rfl
@[simp] theorem State.writeBytes_pending (s : State) (a : Nat) (l : List Byte) : (s.writeBytes a l).pending = s.pending := rfl
@[simp] theorem State.writeBytes_returns (s : State) (a : Nat) (l : List Byte) : (s.writeBytes a l).returns = s.returns := rfl
@[simp] theorem State.writeBytes_oracle (s : State) (a : Nat) (l : List Byte) : (s.writeBytes a l).oracle = s.oracle := rfl
@[simp] theorem State.writeBytes_curCell (s : State) (a : Nat) (l : List Byte) : (s.writeBytes a l).curCell = s.curCell := rfl
@[simp] theorem State.writeBytes_curStrand (s : State) (a : Nat) (l : List Byte) : (s.writeBytes a l).curStrand = s.curStrand := rfl
@[simp] theorem State.writeBytes_nextId (s : State) (a : Nat) (l : List Byte) : (s.writeBytes a l).nextId = s.nextId := rfl
@[simp] theorem State.writeBytes_free (s : State) (a : Nat) (l : List Byte) : (s.writeBytes a l).free = s.free := rfl

/-! ### The strand's registers: what a write of one leaves -/

@[simp] theorem Strand.setW_run (t : Strand) (d : WReg) (v : Word) : (t.setW d v).run = t.run := by
  unfold Strand.setW; split <;> rfl
@[simp] theorem Strand.setW_firing (t : Strand) (d : WReg) (v : Word) : (t.setW d v).firing = t.firing := by
  unfold Strand.setW; split <;> rfl
@[simp] theorem Strand.setW_pc (t : Strand) (d : WReg) (v : Word) : (t.setW d v).pc = t.pc := by
  unfold Strand.setW; split <;> rfl
@[simp] theorem Strand.setW_wp (t : Strand) (d : WReg) (v : Word) : (t.setW d v).wp = t.wp := by
  unfold Strand.setW; split <;> rfl
@[simp] theorem Strand.setW_buf (t : Strand) (d : WReg) (v : Word) : (t.setW d v).buf = t.buf := by
  unfold Strand.setW; split <;> rfl
@[simp] theorem Strand.setW_shadow (t : Strand) (d : WReg) (v : Word) : (t.setW d v).shadow = t.shadow := by
  unfold Strand.setW; split <;> rfl
@[simp] theorem Strand.setW_held (t : Strand) (d : WReg) (v : Word) : (t.setW d v).held = t.held := by
  unfold Strand.setW; split <;> rfl
@[simp] theorem Strand.setW_replay (t : Strand) (d : WReg) (v : Word) : (t.setW d v).replay = t.replay := by
  unfold Strand.setW; split <;> rfl
@[simp] theorem Strand.setW_swarm (t : Strand) (d : WReg) (v : Word) : (t.setW d v).swarm = t.swarm := by
  unfold Strand.setW; split <;> rfl
@[simp] theorem Strand.setW_since (t : Strand) (d : WReg) (v : Word) : (t.setW d v).since = t.since := by
  unfold Strand.setW; split <;> rfl
@[simp] theorem Strand.setW_note (t : Strand) (d : WReg) (v : Word) : (t.setW d v).note = t.note := by
  unfold Strand.setW; split <;> rfl
@[simp] theorem Strand.setW_amov (t : Strand) (d : WReg) (v : Word) : (t.setW d v).amov = t.amov := by
  unfold Strand.setW; split <;> rfl
@[simp] theorem Strand.setW_oneElement (t : Strand) (d : WReg) (v : Word) : (t.setW d v).oneElement = t.oneElement := by
  unfold Strand.setW; split <;> rfl
@[simp] theorem Strand.setW_stuck (t : Strand) (d : WReg) (v : Word) : (t.setW d v).stuck = t.stuck := by
  unfold Strand.setW; split <;> rfl
@[simp] theorem Strand.setStatus_run (t : Strand) (v : Word) : (t.setStatus v).run = t.run := rfl
@[simp] theorem Strand.setStatus_firing (t : Strand) (v : Word) : (t.setStatus v).firing = t.firing := rfl
@[simp] theorem Strand.setStatus_pc (t : Strand) (v : Word) : (t.setStatus v).pc = t.pc := rfl
@[simp] theorem Strand.setStatus_wp (t : Strand) (v : Word) : (t.setStatus v).wp = t.wp := rfl
@[simp] theorem Strand.setStatus_buf (t : Strand) (v : Word) : (t.setStatus v).buf = t.buf := rfl
@[simp] theorem Strand.setStatus_longs (t : Strand) (v : Word) : (t.setStatus v).longs = t.longs := rfl
@[simp] theorem Strand.setStatus_shadow (t : Strand) (v : Word) : (t.setStatus v).shadow = t.shadow := rfl
@[simp] theorem Strand.setStatus_held (t : Strand) (v : Word) : (t.setStatus v).held = t.held := rfl
@[simp] theorem Strand.setStatus_replay (t : Strand) (v : Word) : (t.setStatus v).replay = t.replay := rfl
@[simp] theorem Strand.setStatus_swarm (t : Strand) (v : Word) : (t.setStatus v).swarm = t.swarm := rfl
@[simp] theorem Strand.setStatus_since (t : Strand) (v : Word) : (t.setStatus v).since = t.since := rfl
@[simp] theorem Strand.setStatus_note (t : Strand) (v : Word) : (t.setStatus v).note = t.note := rfl
@[simp] theorem Strand.setStatus_amov (t : Strand) (v : Word) : (t.setStatus v).amov = t.amov := rfl
@[simp] theorem Strand.setStatus_oneElement (t : Strand) (v : Word) : (t.setStatus v).oneElement = t.oneElement := rfl
@[simp] theorem Strand.setStatus_stuck (t : Strand) (v : Word) : (t.setStatus v).stuck = t.stuck := rfl
@[simp] theorem Strand.setSv_run (t : Strand) (b : Bool) : (t.setSv b).run = t.run := rfl
@[simp] theorem Strand.setSv_firing (t : Strand) (b : Bool) : (t.setSv b).firing = t.firing := rfl
@[simp] theorem Strand.setSv_pc (t : Strand) (b : Bool) : (t.setSv b).pc = t.pc := rfl
@[simp] theorem Strand.setSv_wp (t : Strand) (b : Bool) : (t.setSv b).wp = t.wp := rfl
@[simp] theorem Strand.setSv_buf (t : Strand) (b : Bool) : (t.setSv b).buf = t.buf := rfl
@[simp] theorem Strand.setSv_longs (t : Strand) (b : Bool) : (t.setSv b).longs = t.longs := rfl
@[simp] theorem Strand.setSv_shadow (t : Strand) (b : Bool) : (t.setSv b).shadow = t.shadow := rfl
@[simp] theorem Strand.setSv_held (t : Strand) (b : Bool) : (t.setSv b).held = t.held := rfl
@[simp] theorem Strand.setSv_replay (t : Strand) (b : Bool) : (t.setSv b).replay = t.replay := rfl
@[simp] theorem Strand.setSv_swarm (t : Strand) (b : Bool) : (t.setSv b).swarm = t.swarm := rfl
@[simp] theorem Strand.setSv_since (t : Strand) (b : Bool) : (t.setSv b).since = t.since := rfl
@[simp] theorem Strand.setSv_note (t : Strand) (b : Bool) : (t.setSv b).note = t.note := rfl
@[simp] theorem Strand.setSv_amov (t : Strand) (b : Bool) : (t.setSv b).amov = t.amov := rfl
@[simp] theorem Strand.setSv_oneElement (t : Strand) (b : Bool) : (t.setSv b).oneElement = t.oneElement := rfl
@[simp] theorem Strand.setSv_stuck (t : Strand) (b : Bool) : (t.setSv b).stuck = t.stuck := rfl
@[simp] theorem Strand.setCf_run (t : Strand) (b : Bool) : (t.setCf b).run = t.run := rfl
@[simp] theorem Strand.setCf_firing (t : Strand) (b : Bool) : (t.setCf b).firing = t.firing := rfl
@[simp] theorem Strand.setCf_pc (t : Strand) (b : Bool) : (t.setCf b).pc = t.pc := rfl
@[simp] theorem Strand.setCf_wp (t : Strand) (b : Bool) : (t.setCf b).wp = t.wp := rfl
@[simp] theorem Strand.setCf_buf (t : Strand) (b : Bool) : (t.setCf b).buf = t.buf := rfl
@[simp] theorem Strand.setCf_shadow (t : Strand) (b : Bool) : (t.setCf b).shadow = t.shadow := rfl
@[simp] theorem Strand.setCf_held (t : Strand) (b : Bool) : (t.setCf b).held = t.held := rfl
@[simp] theorem Strand.setCf_replay (t : Strand) (b : Bool) : (t.setCf b).replay = t.replay := rfl
@[simp] theorem Strand.setCf_swarm (t : Strand) (b : Bool) : (t.setCf b).swarm = t.swarm := rfl
@[simp] theorem Strand.setCf_since (t : Strand) (b : Bool) : (t.setCf b).since = t.since := rfl
@[simp] theorem Strand.setCf_note (t : Strand) (b : Bool) : (t.setCf b).note = t.note := rfl
@[simp] theorem Strand.setCf_amov (t : Strand) (b : Bool) : (t.setCf b).amov = t.amov := rfl
@[simp] theorem Strand.setCf_oneElement (t : Strand) (b : Bool) : (t.setCf b).oneElement = t.oneElement := rfl
@[simp] theorem Strand.setCf_stuck (t : Strand) (b : Bool) : (t.setCf b).stuck = t.stuck := rfl
@[simp] theorem Strand.setRecord_run (t : Strand) (c p v a : Word) : (t.setRecord c p v a).run = t.run := rfl
@[simp] theorem Strand.setRecord_firing (t : Strand) (c p v a : Word) : (t.setRecord c p v a).firing = t.firing := rfl
@[simp] theorem Strand.setRecord_pc (t : Strand) (c p v a : Word) : (t.setRecord c p v a).pc = t.pc := rfl
@[simp] theorem Strand.setRecord_wp (t : Strand) (c p v a : Word) : (t.setRecord c p v a).wp = t.wp := rfl
@[simp] theorem Strand.setRecord_buf (t : Strand) (c p v a : Word) : (t.setRecord c p v a).buf = t.buf := rfl
@[simp] theorem Strand.setRecord_longs (t : Strand) (c p v a : Word) : (t.setRecord c p v a).longs = t.longs := rfl
@[simp] theorem Strand.setRecord_shadow (t : Strand) (c p v a : Word) : (t.setRecord c p v a).shadow = t.shadow := rfl
@[simp] theorem Strand.setRecord_held (t : Strand) (c p v a : Word) : (t.setRecord c p v a).held = t.held := rfl
@[simp] theorem Strand.setRecord_replay (t : Strand) (c p v a : Word) : (t.setRecord c p v a).replay = t.replay := rfl
@[simp] theorem Strand.setRecord_swarm (t : Strand) (c p v a : Word) : (t.setRecord c p v a).swarm = t.swarm := rfl
@[simp] theorem Strand.setRecord_since (t : Strand) (c p v a : Word) : (t.setRecord c p v a).since = t.since := rfl
@[simp] theorem Strand.setRecord_note (t : Strand) (c p v a : Word) : (t.setRecord c p v a).note = t.note := rfl
@[simp] theorem Strand.setRecord_amov (t : Strand) (c p v a : Word) : (t.setRecord c p v a).amov = t.amov := rfl
@[simp] theorem Strand.setRecord_oneElement (t : Strand) (c p v a : Word) : (t.setRecord c p v a).oneElement = t.oneElement := rfl
@[simp] theorem Strand.setRecord_stuck (t : Strand) (c p v a : Word) : (t.setRecord c p v a).stuck = t.stuck := rfl
@[simp] theorem Strand.raiseFlags_run (t : Strand) (f : BitVec 5) : (t.raiseFlags f).run = t.run := rfl
@[simp] theorem Strand.raiseFlags_firing (t : Strand) (f : BitVec 5) : (t.raiseFlags f).firing = t.firing := rfl
@[simp] theorem Strand.raiseFlags_pc (t : Strand) (f : BitVec 5) : (t.raiseFlags f).pc = t.pc := rfl
@[simp] theorem Strand.raiseFlags_wp (t : Strand) (f : BitVec 5) : (t.raiseFlags f).wp = t.wp := rfl
@[simp] theorem Strand.raiseFlags_buf (t : Strand) (f : BitVec 5) : (t.raiseFlags f).buf = t.buf := rfl
@[simp] theorem Strand.raiseFlags_longs (t : Strand) (f : BitVec 5) : (t.raiseFlags f).longs = t.longs := rfl
@[simp] theorem Strand.raiseFlags_shadow (t : Strand) (f : BitVec 5) : (t.raiseFlags f).shadow = t.shadow := rfl
@[simp] theorem Strand.raiseFlags_held (t : Strand) (f : BitVec 5) : (t.raiseFlags f).held = t.held := rfl
@[simp] theorem Strand.raiseFlags_replay (t : Strand) (f : BitVec 5) : (t.raiseFlags f).replay = t.replay := rfl
@[simp] theorem Strand.raiseFlags_swarm (t : Strand) (f : BitVec 5) : (t.raiseFlags f).swarm = t.swarm := rfl
@[simp] theorem Strand.raiseFlags_since (t : Strand) (f : BitVec 5) : (t.raiseFlags f).since = t.since := rfl
@[simp] theorem Strand.raiseFlags_note (t : Strand) (f : BitVec 5) : (t.raiseFlags f).note = t.note := rfl
@[simp] theorem Strand.raiseFlags_amov (t : Strand) (f : BitVec 5) : (t.raiseFlags f).amov = t.amov := rfl
@[simp] theorem Strand.raiseFlags_oneElement (t : Strand) (f : BitVec 5) : (t.raiseFlags f).oneElement = t.oneElement := rfl
@[simp] theorem Strand.raiseFlags_stuck (t : Strand) (f : BitVec 5) : (t.raiseFlags f).stuck = t.stuck := rfl

/-! ### Reading a part after writing a part -/

@[simp] theorem State.cellAt_setCell (s : State) (g : CellId) (c : Cell) : (s.setCell g c).cellAt g = c := by
  simp [State.cellAt, State.setCell, look_put_same]
theorem State.cellAt_setCell_other (s : State) (g d : CellId) (c : Cell) (h : d ≠ g) :
    (s.setCell g c).cellAt d = s.cellAt d := by
  simp [State.cellAt, State.setCell, look_put_other _ _ _ _ h]
@[simp] theorem State.setCell_setCell (s : State) (g : CellId) (c d : Cell) :
    (s.setCell g c).setCell g d = s.setCell g d := by
  simp [State.setCell, put_put]
@[simp] theorem State.combAt_setComb (s : State) (n : Nat) (c : Comb) : (s.setComb n c).combAt n = c := by
  simp [State.combAt, State.setComb, look_put_same]
@[simp] theorem State.hiveAt_setHive (s : State) (n : Nat) (h : Hive) : (s.setHive n h).hiveAt n = h := by
  simp [State.hiveAt, State.setHive, look_put_same]
theorem State.hiveAt_setHive_other (s : State) (n m : Nat) (h : Hive) (e : m ≠ n) :
    (s.setHive n h).hiveAt m = s.hiveAt m := by
  simp [State.hiveAt, State.setHive, look_put_other _ _ _ _ e]
@[simp] theorem State.setHive_setHive (s : State) (n : Nat) (h i : Hive) :
    (s.setHive n h).setHive n i = s.setHive n i := by
  simp [State.setHive, put_put]
@[simp] theorem State.jobAt_setJob (s : State) (n : Nat) (j : Job) : (s.setJob n j).jobAt n = some j := by
  simp [State.jobAt, State.setJob, look_put_same]
@[simp] theorem State.setJob_setJob (s : State) (n : Nat) (j i : Job) : (s.setJob n j).setJob n i = s.setJob n i := by
  simp [State.setJob, put_put]

@[simp] theorem Cell.setStrand_strands (c : Cell) (k : StrandId) (t : Strand) : (c.setStrand k t).strands[k] = t := by
  simp [Cell.setStrand]
@[simp] theorem Cell.setStrand_setStrand (c : Cell) (k : StrandId) (t u : Strand) :
    (c.setStrand k t).setStrand k u = c.setStrand k u := by
  simp [Cell.setStrand]

@[simp] theorem State.strandAt_setStrand (s : State) (g : CellId) (k : StrandId) (t : Strand) :
    (s.setStrand g k t).strandAt g k = t := by
  simp [State.strandAt, State.setStrand, Cell.setStrand]
@[simp] theorem State.setStrand_setStrand (s : State) (g : CellId) (k : StrandId) (t u : Strand) :
    (s.setStrand g k t).setStrand g k u = s.setStrand g k u := by
  simp [State.setStrand]
@[simp] theorem State.me_setMe (s : State) (t : Strand) : (s.setMe t).me = t := by
  simp [State.me, State.setMe]
@[simp] theorem State.setMe_setMe (s : State) (t u : Strand) : (s.setMe t).setMe u = s.setMe u := by
  simp [State.setMe]
@[simp] theorem State.cell_setCur (s : State) (c : Cell) : (s.setCur c).cell = c := by
  simp [State.cell, State.setCur]
theorem State.cell_setMe (s : State) (t : Strand) : (s.setMe t).cell = s.cell.setStrand s.curStrand t := by
  simp [State.cell, State.setMe, State.setStrand]
@[simp] theorem State.setMe_hiveAt (s : State) (t : Strand) (n : Nat) : (s.setMe t).hiveAt n = s.hiveAt n := rfl
@[simp] theorem State.setMe_combAt (s : State) (t : Strand) (n : Nat) : (s.setMe t).combAt n = s.combAt n := rfl
@[simp] theorem State.setMe_jobAt (s : State) (t : Strand) (n : Nat) : (s.setMe t).jobAt n = s.jobAt n := rfl
@[simp] theorem State.setMe_byte (s : State) (t : Strand) (a : Nat) : (s.setMe t).byte a = s.byte a := rfl
@[simp] theorem State.setMe_read (s : State) (t : Strand) (a n : Nat) : (s.setMe t).read a n = s.read a n := rfl

@[simp] theorem State.cellAt_push (s : State) (i : Instr) (g : CellId) : (s.push i).cellAt g = s.cellAt g := rfl
@[simp] theorem State.me_push (s : State) (i : Instr) : (s.push i).me = s.me := rfl
@[simp] theorem State.cell_push (s : State) (i : Instr) : (s.push i).cell = s.cell := rfl
theorem State.setMe_push (s : State) (i : Instr) (t : Strand) : (s.push i).setMe t = (s.setMe t).push i := rfl
theorem State.setCur_push (s : State) (i : Instr) (c : Cell) : (s.push i).setCur c = (s.setCur c).push i := rfl
theorem State.me_setCur (s : State) (c : Cell) : (s.setCur c).me = c.strands[s.curStrand] := by
  simp [State.me, State.strandAt, State.setCur]
theorem State.me_eq (s : State) : s.me = s.cell.strands[s.curStrand] := rfl
@[simp] theorem State.setCur_setCur (s : State) (c d : Cell) : (s.setCur c).setCur d = s.setCur d := by
  simp [State.setCur]
/-- A write of the strand is a write of its cell. -/
theorem State.setMe_eq (s : State) (t : Strand) : s.setMe t = s.setCur (s.cell.setStrand s.curStrand t) := rfl

end Sys2Proof.Machine
end

