-- ==== Sys2Proof/Laws/Retire.lean ====
section
/-! SUPPORT. What retirement, a result and a trap come to in a strand that has nothing outstanding. -/

namespace Sys2Proof.Machine

/-- With nothing outstanding and nothing held there is nothing to settle. -/
theorem State.settle_setMe (s : State) (t : Strand) (h1 : t.longs = []) (h2 : t.held = none) :
    (s.setMe t).settle = s.setMe t := by
  obtain ⟨run, firing, pc, wp, ws, buf, longs, shadow, held, replay, swarm, since, note⟩ := t
  simp only at h1 h2
  subst h1 h2
  simp [State.settle, Strand.commitAll, Strand.lateFault, lateFaultFrom]

theorem State.setMe_congr (s : State) {t u : Strand} (h : t = u) : s.setMe t = s.setMe u := by rw [h]

theorem State.Quiet.setMe {s : State} {t : Strand} (h1 : t.longs = []) (h2 : t.shadow = none)
    (h3 : t.held = none) (h4 : t.replay = none) : (s.setMe t).Quiet := by
  simp [State.Quiet, h1, h2, h3, h4]

theorem State.Quiet.nextPc {s : State} (h : s.Quiet) : s.me.nextPc = s.me.pc + 4 := by
  simp [Strand.nextPc, h.2.2.2]

theorem Strand.countRetired_quiet (t : Strand) (h1 : t.longs = []) (h2 : t.shadow = none) : t.countRetired = t := by
  cases t
  simp_all [Strand.countRetired]

/-- Retirement of a word of a strand that has nothing outstanding. -/
theorem State.retireTo_setMe (s : State) (t : Strand) (pc : Nat) (h1 : t.longs = []) (h2 : t.shadow = none)
    (h3 : t.held = none) :
    (s.setMe t).retireTo pc = s.setMe { t with pc := pc, replay := none, run := .issuing } := by
  simp only [State.retireTo, State.me_setMe, State.setMe_setMe, Strand.countRetired_quiet t h1 h2]
  exact State.settle_setMe s _ h1 h3

theorem State.retire_setMe (s : State) (t : Strand) (h1 : t.longs = []) (h2 : t.shadow = none)
    (h3 : t.held = none) (h4 : t.replay = none) :
    (s.setMe t).retire = s.setMe { t with pc := t.pc + 4, run := .issuing } := by
  simp only [State.retire, State.me_setMe, Strand.nextPc, h4]
  rw [State.retireTo_setMe s t _ h1 h2 h3]

/-- Retirement changes nothing but the strand's place. -/
theorem State.retire_quiet (s : State) (h : s.Quiet) : s.retire = s.advance s.me.ws := by
  simp only [State.retire, State.retireTo, h.nextPc]
  rw [Strand.countRetired_quiet _ h.1 h.2.1]
  refine (State.settle_setMe s { s.me with pc := s.me.pc + 4, replay := none, run := .issuing } h.1 h.2.2.1).trans ?_
  simp only [State.advance]
  exact State.setMe_congr s (by simp [h.2.2.2])

theorem Strand.setW_quiet (t : Strand) (d : WReg) (v : Word) (h : t.longs = []) :
    t.setW d v = { t with ws := t.wrote d v } := by
  cases t
  simp only [Strand.setW, Strand.wrote]
  split <;> simp_all

theorem Strand.setCf_quiet (t : Strand) (b : Bool) (h : t.longs = []) :
    t.setCf b = { t with ws := withCf t.ws b } := by
  cases t
  simp_all [Strand.setCf, Strand.lateCf, Strand.setStatus, withCf, Strand.status]

/-- A strand with other registers retires. -/
theorem State.retire_setWs (s : State) (h : s.Quiet) (ws : Vector Word 64) :
    (s.setMe { s.me with ws := ws }).retire = s.advance ws :=
  State.retire_setMe s _ h.1 h.2.1 h.2.2.1 h.2.2.2

/-- A result leaves everything but its register and the strand's place unchanged. -/
theorem State.result_quiet (s : State) (h : s.Quiet) (d : WReg) (v : Word) :
    s.result d v = s.advance (s.me.wrote d v) := by
  simp only [State.result, State.setW, Strand.setW_quiet _ d v h.1]
  exact State.retire_setWs s h _

theorem State.resultCf_quiet (s : State) (h : s.Quiet) (d : WReg) (v : Word) (b : Bool) :
    s.resultCf d v b = s.advance (withCf (s.me.wrote d v) b) := by
  simp only [State.resultCf, State.setW, State.setCf, Strand.setW_quiet _ d v h.1, State.me_setMe,
    State.setMe_setMe]
  exact (congrArg (fun t => (s.setMe t).retire) (Strand.setCf_quiet { s.me with ws := s.me.wrote d v } b h.1)).trans (State.retire_setWs s h _)

/-- Only a trap of a floating-point flag brings flags with it. -/
theorem Strand.lateFlags_other (t : Strand) (tr : Trap) (h : tr.cause ≠ .fpException) : t.lateFlags tr = t := by
  simp [Strand.lateFlags, h]

/-- A trap of a word with nothing before it is taken at once. -/
theorem State.raise_quiet (s : State) (h : s.Quiet) (tr : Trap) :
    s.raise tr = (s.setMe (s.me.lateFlags tr)).takeTrap tr s.me.pc false 0 := by
  simp [State.raise, h.1, h.2.1, h.2.2.2]

/-- A long-latency instruction issues and stands outstanding. -/
theorem State.issueLong_quiet (s : State) (h : s.Quiet) (i : Instr) (d : WReg) (cf : Bool) (la : Nat) (acq ord : Bool)
    (kind : LongKind) : s.issueLong i d cf la acq ord kind = s.outstanding i d cf la acq ord kind := by
  obtain ⟨h1, h2, h3, h4⟩ := h
  have e : (s.setCur { s.cell with nextId := s.cell.nextId + 1 }).me = s.me := by rw [State.me_setCur]; rfl
  simp only [State.issueLong, h4, State.outstanding, e, Strand.countRetired_quiet _ h1 h2, Strand.nextPc, h1,
    List.nil_append]
  simp [State.settle, Strand.commitAll, LongOp.ready, Strand.lateFault, lateFaultFrom, State.setMe_push, h3]

/-- A store outside the own TCM goes on its way. -/
theorem State.awaitingAck_eq (s : State) (h : s.Quiet) (kind : StoreKind) :
    (((s.setCur { s.cell with
      nextId := s.cell.nextId + 1
      stores := s.cell.stores ++ [⟨s.cell.nextId, s.curStrand, s.me.fid, kind⟩] }).push
      (.storeAcknowledgement s.curCell s.curStrand s.cell.nextId))).retire = s.awaitingAck kind := by
  have e : ((s.setCur { s.cell with
      nextId := s.cell.nextId + 1
      stores := s.cell.stores ++ [⟨s.cell.nextId, s.curStrand, s.me.fid, kind⟩] }).push
      (.storeAcknowledgement s.curCell s.curStrand s.cell.nextId)).me = s.me := by
    rw [State.me_push, State.me_setCur]; rfl
  have q : ((s.setCur { s.cell with
      nextId := s.cell.nextId + 1
      stores := s.cell.stores ++ [⟨s.cell.nextId, s.curStrand, s.me.fid, kind⟩] }).push
      (.storeAcknowledgement s.curCell s.curStrand s.cell.nextId)).Quiet := by
    simp only [State.Quiet, e]; exact h
  rw [State.retire_quiet _ q, e]
  rfl

theorem State.me_stillPending (s : State) (i : Instr) : (s.stillPending i).me = s.me := by
  unfold State.stillPending; split <;> rfl

/-- With nothing outstanding and nothing held, settling leaves a state whose strand is listed as it is. -/
theorem State.settle_stillPending (s : State) (i : Instr) (t : Strand) (h1 : t.longs = []) (h2 : t.held = none) :
    ((s.setMe t).stillPending i).settle = (s.setMe t).stillPending i := by
  unfold State.stillPending
  split
  · exact State.settle_setMe s t h1 h2
  · have h := State.settle_setMe (s.push i) t h1 h2
    rw [State.setMe_push] at h
    exact h

/-- An engine instruction issues into its queue. -/
theorem State.enqueue_quiet (s : State) (h : s.Quiet) (e : Eng) (i : Instr) (regs ptrs : List Word)
    (adv : Strand → Strand) (h1 : (adv s.me).longs = []) (h2 : (adv s.me).held = none)
    (h3 : (adv s.me).replay = none) : s.enqueue e i regs ptrs adv = s.queued e i regs ptrs (adv s.me) := by
  obtain ⟨q1, q2, q3, q4⟩ := h
  have em : ∀ c : Cell, c.strands = s.cell.strands → (s.setCur c).me = s.me := by
    intro c hc
    rw [State.me_setCur, hc]; rfl
  have es : ∀ q, (s.cell.setQueue e q).strands = s.cell.strands := by intro q; cases e <;> rfl
  simp only [State.enqueue, State.queued, q4, Strand.replaySt]
  rw [em _ (by simp [es])]
  simp only [Strand.countRetired_quiet _ q1 q2, Strand.nextPc, q4]
  rw [State.settle_stillPending]
  · congr 2
    simp [h3]
  · exact h1
  · exact h2

end Sys2Proof.Machine
end

