-- ==== Sys2Proof/Laws/Integer.lean ====
section
/-! SUPPORT. The integer operations on patterns of n bits are those of n-bit vectors (R113, R116-R118). -/

namespace Sys2Proof.Machine

theorem toSigned_eq (n : Nat) (hn : 0 < n) (x : Nat) : toSigned n x = (BitVec.ofNat n x).toInt := by
  rw [BitVec.toInt_eq_toNat_cond]
  simp only [BitVec.toNat_ofNat, toSigned]
  obtain ⟨m, rfl⟩ : ∃ m, n = m + 1 := ⟨n - 1, by omega⟩
  have hp : 2 ^ (m + 1) = 2 ^ m * 2 := Nat.pow_succ ..
  simp only [Nat.add_sub_cancel]
  by_cases h : x % 2 ^ (m + 1) < 2 ^ m
  · rw [if_pos h, if_pos (by omega)]
  · rw [if_neg h, if_neg (by omega)]

theorem sext_eq (n : Nat) (hn : 0 < n) (x : Nat) : sext n x = (BitVec.ofNat n x).signExtend 64 := by
  rw [sext, toSigned_eq n hn, BitVec.signExtend]

theorem intBits_pos (f : Fmt) : 0 < intBits f := by simp [intBits]

theorem low_eq (n : Nat) (v : Word) : BitVec.ofNat n (lowBits n v) = low n v := by
  apply BitVec.eq_of_toNat_eq
  simp [lowBits, low]
theorem low_toNat (n : Nat) (v : Word) : (low n v).toNat = lowBits n v := by simp [lowBits, low]
theorem ofInt_nat (n : Nat) (x : Int) : BitVec.ofNat n (ofInt n x) = BitVec.ofInt n x := by
  apply BitVec.eq_of_toNat_eq
  simp only [ofInt, BitVec.toNat_ofInt, BitVec.toNat_ofNat]
  have h1 : 0 ≤ x % (2 ^ n : Nat) := Int.emod_nonneg _ (by positivity)
  have h2 : x % (2 ^ n : Nat) < (2 ^ n : Nat) := Int.emod_lt_of_pos _ (by positivity)
  rw [Nat.mod_eq_of_lt (by omega)]
theorem signed_low (n : Nat) (hn : 0 < n) (v : Word) : toSigned n (lowBits n v) = (low n v).toInt := by
  rw [toSigned_eq n hn, low_eq]

theorem lowBits_lt (n : Nat) (v : Word) : lowBits n v < 2 ^ n := Nat.mod_lt _ (by positivity)

theorem ofNat_mod (n x : Nat) : BitVec.ofNat n (x % 2 ^ n) = BitVec.ofNat n x := by
  apply BitVec.eq_of_toNat_eq; simp

theorem ofNat_add (n x y : Nat) : BitVec.ofNat n (x + y) = BitVec.ofNat n x + BitVec.ofNat n y := by
  apply BitVec.eq_of_toNat_eq; simp
theorem ofNat_mul (n x y : Nat) : BitVec.ofNat n (x * y) = BitVec.ofNat n x * BitVec.ofNat n y := by
  apply BitVec.eq_of_toNat_eq; simp [Nat.mul_mod]

theorem add_low (n : Nat) (a b : Word) : BitVec.ofNat n (intAdd n (lowBits n a) (lowBits n b)) = low n a + low n b := by
  rw [intAdd, ofNat_mod, ofNat_add, low_eq, low_eq]
theorem sub_low (n : Nat) (a b : Word) : BitVec.ofNat n (intSub n (lowBits n a) (lowBits n b)) = low n a - low n b := by
  apply BitVec.eq_of_toNat_eq
  have := lowBits_lt n b
  simp only [intSub, BitVec.toNat_ofNat, BitVec.toNat_sub, low_toNat, Nat.mod_mod, Nat.mod_eq_of_lt this]
  congr 1; omega
theorem mul_low (n : Nat) (a b : Word) : BitVec.ofNat n (intMul n (lowBits n a) (lowBits n b)) = low n a * low n b := by
  rw [intMul, ofNat_mod, ofNat_mul, low_eq, low_eq]

theorem dvd64 (f : Fmt) : intBits f ∣ 2 ^ 64 := by cases f <;> decide
theorem intBits_le (f : Fmt) : intBits f ≤ 64 := by cases f <;> decide
theorem intBits_pow (f : Fmt) : intBits f ∣ 2 ^ intBits f := by cases f <;> decide

theorem shAmt_low (f : Fmt) (b : Word) : shAmt (intBits f) (lowBits (intBits f) b) = b.toNat % intBits f := by
  simp only [shAmt, lowBits]
  exact Nat.mod_mod_of_dvd _ (intBits_pow f)

theorem shl_low (f : Fmt) (a b : Word) : BitVec.ofNat (intBits f) (intShl (intBits f) (lowBits (intBits f) a) (lowBits (intBits f) b))
    = low (intBits f) a <<< (b.toNat % intBits f) := by
  apply BitVec.eq_of_toNat_eq
  simp [intShl, shAmt_low, low_toNat, Nat.shiftLeft_eq]
theorem shr_low (f : Fmt) (a b : Word) : BitVec.ofNat (intBits f) (intShr (intBits f) (lowBits (intBits f) a) (lowBits (intBits f) b))
    = low (intBits f) a >>> (b.toNat % intBits f) := by
  apply BitVec.eq_of_toNat_eq
  simp only [intShr, shAmt_low, BitVec.toNat_ofNat, BitVec.toNat_ushiftRight, low_toNat, Nat.shiftRight_eq_div_pow]
  apply Nat.mod_eq_of_lt
  exact Nat.lt_of_le_of_lt (Nat.div_le_self _ _) (lowBits_lt _ _)

theorem zext_eq (n : Nat) (x : Nat) : zext n x = (BitVec.ofNat n x).setWidth 64 := by
  apply BitVec.eq_of_toNat_eq; simp [zext]

theorem sha_low (f : Fmt) (a b : Word) : BitVec.ofNat (intBits f) (intSha (intBits f) (lowBits (intBits f) a) (lowBits (intBits f) b))
    = (low (intBits f) a).sshiftRight (b.toNat % intBits f) := by
  rw [intSha, ofInt_nat, signed_low _ (intBits_pos f), shAmt_low, BitVec.sshiftRight, Int.shiftRight_eq_div_pow]

theorem rot_low (f : Fmt) (a b : Word) : BitVec.ofNat (intBits f) (intRot (intBits f) (lowBits (intBits f) a) (lowBits (intBits f) b))
    = (low (intBits f) a).rotateLeft (b.toNat % intBits f) := by
  rw [intRot, shAmt_low]
  have h1 : b.toNat % intBits f < intBits f := Nat.mod_lt _ (intBits_pos f)
  generalize b.toNat % intBits f = k at h1
  rw [BitVec.rotateLeft_eq_rotateLeftAux_of_lt h1, BitVec.rotateLeftAux]
  have e : ∀ x y n : Nat, BitVec.ofNat n (Nat.lor x y) = BitVec.ofNat n x ||| BitVec.ofNat n y := by
    intro x y n
    apply BitVec.eq_of_toNat_eq
    simp
  rw [e, ofNat_mod]
  have hl : BitVec.ofNat (intBits f) (lowBits (intBits f) a * 2 ^ k) = low (intBits f) a <<< k := by
    apply BitVec.eq_of_toNat_eq
    simp [low_toNat, Nat.shiftLeft_eq]
  rw [hl]
  by_cases hk : k = 0
  · subst hk
    have : low (intBits f) a >>> (intBits f) = 0#(intBits f) := by
      apply BitVec.eq_of_toNat_eq
      simp only [BitVec.toNat_ushiftRight, Nat.shiftRight_eq_div_pow, low_toNat]
      simpa using Nat.div_eq_of_lt (lowBits_lt _ a)
    simp [this, low_eq]
  · rw [Nat.mod_eq_of_lt (by omega)]
    congr 1
    apply BitVec.eq_of_toNat_eq
    simp only [BitVec.toNat_ofNat, BitVec.toNat_ushiftRight, low_toNat, Nat.shiftRight_eq_div_pow]
    exact Nat.mod_eq_of_lt (Nat.lt_of_le_of_lt (Nat.div_le_self _ _) (lowBits_lt _ _))

theorem min_low (n : Nat) (hn : 0 < n) (a b : Word) : BitVec.ofNat n (intMin n (lowBits n a) (lowBits n b))
    = BitVec.ofInt n (min (low n a).toInt (low n b).toInt) := by
  rw [intMin, signed_low n hn, signed_low n hn]
  split
  · next h => rw [min_eq_left h, low_eq, BitVec.ofInt_toInt]
  · next h => rw [min_eq_right (by omega), low_eq, BitVec.ofInt_toInt]
theorem max_low (n : Nat) (hn : 0 < n) (a b : Word) : BitVec.ofNat n (intMax n (lowBits n a) (lowBits n b))
    = BitVec.ofInt n (max (low n a).toInt (low n b).toInt) := by
  rw [intMax, signed_low n hn, signed_low n hn]
  split
  · next h => rw [max_eq_right h, low_eq, BitVec.ofInt_toInt]
  · next h => rw [max_eq_left (by omega), low_eq, BitVec.ofInt_toInt]

theorem clz_low (n x : Nat) : clz n x = ((List.range n).takeWhile fun k => !x.testBit (n - 1 - k)).length := by
  induction n with
  | zero => simp [clz]
  | succ n ih =>
    rw [clz, List.range_succ_eq_map, List.takeWhile_cons]
    have e : x.testBit n = (x / 2 ^ n % 2 == 1) := by
      simp [Nat.testBit, Nat.shiftRight_eq_div_pow, Nat.one_and_eq_mod_two, bne]
      rcases Nat.mod_two_eq_zero_or_one (x / 2 ^ n) with h | h <;> simp [h]
    simp only [Nat.add_sub_cancel, Nat.sub_zero, e]
    by_cases h : x / 2 ^ n % 2 = 1
    · simp [h]
    · rw [if_neg h, ih]
      have : ∀ k, n - (k + 1) = n - 1 - k := by omega
      have e2 : ((fun k => !x.testBit (n - k)) ∘ Nat.succ) = fun k => !x.testBit (n - 1 - k) := by
        funext k
        show (!x.testBit (n - (k + 1))) = _
        rw [this]
      have e3 : (!(x / 2 ^ n % 2 == 1)) = true := by simp [h]
      rw [if_pos e3, List.takeWhile_map, e2, List.length_cons, List.length_map, Nat.add_comm]

theorem ctz_low (n x : Nat) : ctz n x = ((List.range n).takeWhile fun k => !x.testBit k).length := by
  induction n generalizing x with
  | zero => simp [ctz]
  | succ n ih =>
    rw [ctz, List.range_succ_eq_map, List.takeWhile_cons]
    simp only [Nat.testBit_zero]
    by_cases h : x % 2 = 1
    · simp [h]
    · rw [if_neg h, ih]
      simp [h, List.takeWhile_map, Function.comp_def, Nat.testBit_succ, Nat.add_comm]

theorem popc_low (n x : Nat) : popc n x = ((List.range n).filter fun k => x.testBit k).length := by
  induction n generalizing x with
  | zero => simp [popc]
  | succ n ih =>
    rw [popc, List.range_succ_eq_map, List.filter_cons, ih]
    simp only [Nat.testBit_zero]
    by_cases h : x % 2 = 1
    · simp [h, List.filter_map, Function.comp_def, Nat.testBit_succ, Nat.add_comm]
    · simp [h, List.filter_map, Function.comp_def, Nat.testBit_succ]; omega

theorem zext_lowBits (n : Nat) (v : Word) : zext n (lowBits n v) = (low n v).setWidth 64 := by
  rw [zext_eq, low_eq]

theorem land_low (n : Nat) (a b : Word) : BitVec.ofNat n (Nat.land (lowBits n a) (lowBits n b)) = low n a &&& low n b := by
  apply BitVec.eq_of_toNat_eq
  simp [low_toNat, Nat.mod_eq_of_lt (lowBits_lt n _)]
theorem lor_low (n : Nat) (a b : Word) : BitVec.ofNat n (Nat.lor (lowBits n a) (lowBits n b)) = low n a ||| low n b := by
  apply BitVec.eq_of_toNat_eq
  simp [low_toNat, Nat.mod_eq_of_lt (lowBits_lt n _)]
theorem xor_low (n : Nat) (a b : Word) : BitVec.ofNat n (Nat.xor (lowBits n a) (lowBits n b)) = low n a ^^^ low n b := by
  apply BitVec.eq_of_toNat_eq
  simp [low_toNat, Nat.mod_eq_of_lt (lowBits_lt n _)]

theorem lt_low (n : Nat) (hn : 0 < n) (a b : Word) : intLt n (lowBits n a) (lowBits n b) = (low n a).slt (low n b) := by
  simp [intLt, signed_low n hn, BitVec.slt]
theorem ult_low (n : Nat) (a b : Word) : decide (lowBits n a < lowBits n b) = (low n a).ult (low n b) := by
  simp [BitVec.ult, low_toNat]

theorem mulh_low (n : Nat) (hn : 0 < n) (a b : Word) : BitVec.ofNat n (intMulh n (lowBits n a) (lowBits n b)) =
    BitVec.ofInt n ((low n a).toInt * (low n b).toInt / 2 ^ n) := by
  rw [intMulh, ofInt_nat, signed_low n hn, signed_low n hn]
  push_cast
  rfl

/-- A number below 2^n that fits 64 bits. -/
theorem ofNat_fits (f : Fmt) (x : Nat) (h : x < 2 ^ intBits f) :
    (BitVec.ofNat (intBits f) x).setWidth 64 = BitVec.ofNat 64 x := by
  apply BitVec.eq_of_toNat_eq
  simp [Nat.mod_eq_of_lt h]

/-- A verdict as a word. -/
theorem ofNat_toNat_bool (b : Bool) : BitVec.ofNat 64 b.toNat = if b then 1 else 0 := by cases b <;> rfl

end Sys2Proof.Machine
end

