-- ==== Sys2Proof/Laws/Memory.lean ====
section
/-! SUPPORT. The laws of memory in canonical form: a read after a write, and every operation keeps the form. -/

namespace Sys2Proof.Machine

theorem Memory.wfFrom_mono {lo hi : Nat} (m : List Host.Cell) (h : hi ≤ lo) (w : Memory.wfFrom lo m = true) :
    Memory.wfFrom hi m = true := by
  cases m with
  | nil => rfl
  | cons p r =>
    simp only [Memory.wfFrom, Bool.and_eq_true, decide_eq_true_eq] at w ⊢
    exact ⟨⟨by omega, w.1.2⟩, w.2⟩

/-- Below the lowest entry every byte reads as an unlisted one. -/
theorem Memory.get_below {lo : Nat} (m : List Host.Cell) (w : Memory.wfFrom lo m = true) (a : Nat) (h : a < lo) :
    Memory.get m a = Memory.unlisted := by
  induction m generalizing lo with
  | nil => rfl
  | cons p r ih =>
    simp only [Memory.wfFrom, Bool.and_eq_true, decide_eq_true_eq] at w
    simp only [Memory.get]
    rw [if_neg (by omega)]
    exact ih w.2 (by omega)

theorem Memory.set_wfFrom (m : List Host.Cell) (lo a : Nat) (b : Byte) (h : lo ≤ a)
    (w : Memory.wfFrom lo m = true) : Memory.wfFrom lo (Memory.set m a b) = true := by
  induction m generalizing lo with
  | nil =>
    simp only [Memory.set]
    split <;> simp_all [Memory.wfFrom]
  | cons p r ih =>
    simp only [Memory.wfFrom, Bool.and_eq_true, decide_eq_true_eq] at w
    obtain ⟨⟨w1, w2⟩, w3⟩ := w
    simp only [Memory.set]
    split
    · next h1 =>
      split
      · simp [Memory.wfFrom, w1, w2, w3]
      · next h2 =>
        have : Memory.wfFrom (a + 1) ((p.1, p.2) :: r) = true := by
          simp only [Memory.wfFrom, Bool.and_eq_true, decide_eq_true_eq]
          exact ⟨⟨by omega, w2⟩, w3⟩
        simp [Memory.wfFrom, h, h2, w2, w3]
        omega
    · split
      · next h1 h2 =>
        split
        · exact Memory.wfFrom_mono r (by omega) w3
        · next h3 => subst h2; simp [Memory.wfFrom, h, h3, w3]
      · next h1 h2 => simp [Memory.wfFrom, w1, w2, ih (p.1 + 1) (by omega) w3]

/-- Writing a byte keeps the canonical form. -/
theorem Memory.set_wf (m : List Host.Cell) (a : Nat) (b : Byte) (w : Memory.wf m = true) :
    Memory.wf (Memory.set m a b) = true := Memory.set_wfFrom m 0 a b (Nat.zero_le a) w

/-- Writing bytes keeps the canonical form. -/
theorem Memory.setBytes_wf (l : List Byte) (m : List Host.Cell) (a : Nat) (w : Memory.wf m = true) :
    Memory.wf (Memory.setBytes m a l) = true := by
  induction l generalizing m a with
  | nil => exact w
  | cons b r ih => exact ih _ _ (Memory.set_wf m a b w)

/-- Dropping entries keeps the canonical form. -/
theorem Memory.filter_wfFrom (p : Host.Cell → Bool) (m : List Host.Cell) (lo : Nat)
    (w : Memory.wfFrom lo m = true) : Memory.wfFrom lo (m.filter p) = true := by
  induction m generalizing lo with
  | nil => rfl
  | cons c r ih =>
    simp only [Memory.wfFrom, Bool.and_eq_true, decide_eq_true_eq] at w
    simp only [List.filter]
    split
    · simp [Memory.wfFrom, w.1.1, w.1.2, ih _ w.2]
    · exact ih _ (Memory.wfFrom_mono r (by omega) w.2)

theorem Memory.filter_wf (p : Host.Cell → Bool) (m : List Host.Cell) (w : Memory.wf m = true) :
    Memory.wf (m.filter p) = true := Memory.filter_wfFrom p m 0 w

/-- A byte reads as it was written. -/
theorem Memory.get_set_same (m : List Host.Cell) (lo a : Nat) (b : Byte) (w : Memory.wfFrom lo m = true) :
    Memory.get (Memory.set m a b) a = b := by
  induction m generalizing lo with
  | nil =>
    simp only [Memory.set]
    split
    · next h => simp [Memory.get, h]
    · simp [Memory.get]
  | cons p r ih =>
    simp only [Memory.wfFrom, Bool.and_eq_true, decide_eq_true_eq] at w
    simp only [Memory.set]
    split
    · next h1 =>
      split
      · next h2 =>
        simp only [Memory.get]
        rw [if_neg (by omega), h2]
        exact Memory.get_below r w.2 a (by omega)
      · simp [Memory.get]
    · split
      · next h1 h2 =>
        split
        · next h3 => rw [h3]; exact Memory.get_below r w.2 a (by omega)
        · simp [Memory.get]
      · next h1 h2 =>
        simp only [Memory.get]
        rw [if_neg (by omega)]
        exact ih _ w.2

/-- A write leaves every other byte alone. -/
theorem Memory.get_set_other (m : List Host.Cell) (lo a c : Nat) (b : Byte) (w : Memory.wfFrom lo m = true)
    (h : c ≠ a) : Memory.get (Memory.set m a b) c = Memory.get m c := by
  induction m generalizing lo with
  | nil =>
    simp only [Memory.set]
    split
    · rfl
    · simp [Memory.get, Ne.symm h]
  | cons p r ih =>
    simp only [Memory.wfFrom, Bool.and_eq_true, decide_eq_true_eq] at w
    simp only [Memory.set]
    split
    · split
      · rfl
      · simp [Memory.get, Ne.symm h]
    · split
      · next h1 h2 =>
        split
        · simp only [Memory.get]
          rw [if_neg (by omega)]
        · simp only [Memory.get]
          rw [if_neg (by omega), if_neg (by omega)]
      · simp only [Memory.get]
        rw [ih _ w.2]

/-- A write of bytes leaves every byte outside them alone. -/
theorem Memory.get_setBytes_other (l : List Byte) (m : List Host.Cell) (a c : Nat) (w : Memory.wf m = true)
    (h : c < a ∨ a + l.length ≤ c) : Memory.get (Memory.setBytes m a l) c = Memory.get m c := by
  induction l generalizing m a with
  | nil => rfl
  | cons b r ih =>
    simp only [List.length_cons] at h
    simp only [Memory.setBytes]
    rw [ih _ _ (Memory.set_wf m a b w) (by omega)]
    exact Memory.get_set_other m 0 a c b w (by omega)

/-- Bytes read as they were written. -/
theorem Memory.bytes_setBytes (l : List Byte) (m : List Host.Cell) (a : Nat) (w : Memory.wf m = true) :
    Memory.bytes (Memory.setBytes m a l) a l.length = l := by
  induction l generalizing m a with
  | nil => rfl
  | cons b r ih =>
    have w' := Memory.set_wf m a b w
    simp only [Memory.setBytes, List.length_cons, Memory.bytes]
    rw [ih _ _ w', Memory.get_setBytes_other r _ _ _ w' (by omega), Memory.get_set_same m 0 a b w]

@[simp] theorem toBytes_length (v n : Nat) : (toBytes v n).length = n := by
  induction n generalizing v with
  | zero => rfl
  | succ n ih => simp [toBytes, ih]

/-- A number is its bytes (R8). -/
theorem ofBytes_toBytes (v n : Nat) : ofBytes (toBytes v n) = v % 256 ^ n := by
  induction n generalizing v with
  | zero => simp [toBytes, ofBytes, Nat.mod_one]
  | succ n ih =>
    simp only [toBytes, ofBytes, ih, BitVec.toNat_ofNat]
    have h := Nat.mod_mul (a := 256) (b := 256 ^ n) (x := v)
    have e : 256 ^ (n + 1) = 256 * 256 ^ n := Nat.pow_succ'
    rw [e, h]

/-- What is written reads back. -/
theorem State.read_write (s : State) (a n v : Nat) (w : Memory.wf s.mem = true) :
    (s.write a n v).read a n = v % 256 ^ n := by
  simp only [State.write, State.writeBytes, State.read, State.clearMarks]
  have := Memory.bytes_setBytes (toBytes v n) s.mem a w
  rw [toBytes_length] at this
  rw [this, ofBytes_toBytes]

/-- A write changes no byte outside it. -/
theorem State.byte_write_other (s : State) (a n v c : Nat) (w : Memory.wf s.mem = true) (h : c < a ∨ a + n ≤ c) :
    (s.write a n v).byte c = s.byte c := by
  simp only [State.write, State.writeBytes, State.byte, State.clearMarks]
  exact Memory.get_setBytes_other _ _ _ _ w (by simpa using h)

/-- A write keeps the canonical form. -/
theorem State.writeBytes_wf (s : State) (a : Nat) (l : List Byte) (w : Memory.wf s.mem = true) :
    Memory.wf (s.writeBytes a l).mem = true := Memory.setBytes_wf l s.mem a w

end Sys2Proof.Machine
end

