-- ==== Sys2Proof/Laws/PerInstr.lean ====
section
/-! SUPPORT. Family `Fits`: the word of an instruction lies below bit 31, so S is free for the bundle (R85). -/

namespace Sys2Proof.Laws.Fits

/-- The word of the instruction uses bits 30:0 only. -/
def Statement (i : Instr) : Prop := encode i < 2 ^ 31

theorem add (f : Fmt) (d : WReg) (a : WReg) (b : WReg) : Statement (.add f d a b) := by
  have h0 := fmt_code_lt f
  show opA 0 + encD d + encA a + encB b + encF f 5 + 0 < 2 ^ 31
  simp only [opA, encD, encA, encB, encF]
  omega

theorem sub (f : Fmt) (d : WReg) (a : WReg) (b : WReg) : Statement (.sub f d a b) := by
  have h0 := fmt_code_lt f
  show opA 0 + encD d + encA a + encB b + encF f 5 + 1 < 2 ^ 31
  simp only [opA, encD, encA, encB, encF]
  omega

theorem and (f : Fmt) (d : WReg) (a : WReg) (b : WReg) : Statement (.and f d a b) := by
  have h0 := fmt_code_lt f
  show opA 0 + encD d + encA a + encB b + encF f 5 + 2 < 2 ^ 31
  simp only [opA, encD, encA, encB, encF]
  omega

theorem or (f : Fmt) (d : WReg) (a : WReg) (b : WReg) : Statement (.or f d a b) := by
  have h0 := fmt_code_lt f
  show opA 0 + encD d + encA a + encB b + encF f 5 + 3 < 2 ^ 31
  simp only [opA, encD, encA, encB, encF]
  omega

theorem xor (f : Fmt) (d : WReg) (a : WReg) (b : WReg) : Statement (.xor f d a b) := by
  have h0 := fmt_code_lt f
  show opA 0 + encD d + encA a + encB b + encF f 5 + 4 < 2 ^ 31
  simp only [opA, encD, encA, encB, encF]
  omega

theorem shl (f : Fmt) (d : WReg) (a : WReg) (b : WReg) : Statement (.shl f d a b) := by
  have h0 := fmt_code_lt f
  show opA 0 + encD d + encA a + encB b + encF f 5 + 5 < 2 ^ 31
  simp only [opA, encD, encA, encB, encF]
  omega

theorem shr (f : Fmt) (d : WReg) (a : WReg) (b : WReg) : Statement (.shr f d a b) := by
  have h0 := fmt_code_lt f
  show opA 0 + encD d + encA a + encB b + encF f 5 + 6 < 2 ^ 31
  simp only [opA, encD, encA, encB, encF]
  omega

theorem sha (f : Fmt) (d : WReg) (a : WReg) (b : WReg) : Statement (.sha f d a b) := by
  have h0 := fmt_code_lt f
  show opA 0 + encD d + encA a + encB b + encF f 5 + 7 < 2 ^ 31
  simp only [opA, encD, encA, encB, encF]
  omega

theorem rot (f : Fmt) (d : WReg) (a : WReg) (b : WReg) : Statement (.rot f d a b) := by
  have h0 := fmt_code_lt f
  show opA 0 + encD d + encA a + encB b + encF f 5 + 8 < 2 ^ 31
  simp only [opA, encD, encA, encB, encF]
  omega

theorem slt (f : Fmt) (d : WReg) (a : WReg) (b : WReg) : Statement (.slt f d a b) := by
  have h0 := fmt_code_lt f
  show opA 0 + encD d + encA a + encB b + encF f 5 + 9 < 2 ^ 31
  simp only [opA, encD, encA, encB, encF]
  omega

theorem sltz (f : Fmt) (d : WReg) (a : WReg) (b : WReg) : Statement (.sltz f d a b) := by
  have h0 := fmt_code_lt f
  show opA 0 + encD d + encA a + encB b + encF f 5 + 10 < 2 ^ 31
  simp only [opA, encD, encA, encB, encF]
  omega

theorem min (f : Fmt) (d : WReg) (a : WReg) (b : WReg) : Statement (.min f d a b) := by
  have h0 := fmt_code_lt f
  show opA 0 + encD d + encA a + encB b + encF f 5 + 11 < 2 ^ 31
  simp only [opA, encD, encA, encB, encF]
  omega

theorem max (f : Fmt) (d : WReg) (a : WReg) (b : WReg) : Statement (.max f d a b) := by
  have h0 := fmt_code_lt f
  show opA 0 + encD d + encA a + encB b + encF f 5 + 12 < 2 ^ 31
  simp only [opA, encD, encA, encB, encF]
  omega

theorem minz (f : Fmt) (d : WReg) (a : WReg) (b : WReg) : Statement (.minz f d a b) := by
  have h0 := fmt_code_lt f
  show opA 0 + encD d + encA a + encB b + encF f 5 + 13 < 2 ^ 31
  simp only [opA, encD, encA, encB, encF]
  omega

theorem maxz (f : Fmt) (d : WReg) (a : WReg) (b : WReg) : Statement (.maxz f d a b) := by
  have h0 := fmt_code_lt f
  show opA 0 + encD d + encA a + encB b + encF f 5 + 14 < 2 ^ 31
  simp only [opA, encD, encA, encB, encF]
  omega

theorem sel (f : Fmt) (d : WReg) (a : WReg) (b : WReg) : Statement (.sel f d a b) := by
  have h0 := fmt_code_lt f
  show opA 0 + encD d + encA a + encB b + encF f 5 + 15 < 2 ^ 31
  simp only [opA, encD, encA, encB, encF]
  omega

theorem mul (f : Fmt) (d : WReg) (a : WReg) (b : WReg) : Statement (.mul f d a b) := by
  have h0 := fmt_code_lt f
  show opA 0 + encD d + encA a + encB b + encF f 5 + 16 < 2 ^ 31
  simp only [opA, encD, encA, encB, encF]
  omega

theorem mulh (f : Fmt) (d : WReg) (a : WReg) (b : WReg) : Statement (.mulh f d a b) := by
  have h0 := fmt_code_lt f
  show opA 0 + encD d + encA a + encB b + encF f 5 + 17 < 2 ^ 31
  simp only [opA, encD, encA, encB, encF]
  omega

theorem mulhz (f : Fmt) (d : WReg) (a : WReg) (b : WReg) : Statement (.mulhz f d a b) := by
  have h0 := fmt_code_lt f
  show opA 0 + encD d + encA a + encB b + encF f 5 + 18 < 2 ^ 31
  simp only [opA, encD, encA, encB, encF]
  omega

theorem clz (f : Fmt) (d : WReg) (a : WReg) : Statement (.clz f d a) := by
  have h0 := fmt_code_lt f
  show opA 0 + encD d + encA a + encF f 5 + 20 < 2 ^ 31
  simp only [opA, encD, encA, encF]
  omega

theorem ctz (f : Fmt) (d : WReg) (a : WReg) : Statement (.ctz f d a) := by
  have h0 := fmt_code_lt f
  show opA 0 + encD d + encA a + encF f 5 + 21 < 2 ^ 31
  simp only [opA, encD, encA, encF]
  omega

theorem popc (f : Fmt) (d : WReg) (a : WReg) : Statement (.popc f d a) := by
  have h0 := fmt_code_lt f
  show opA 0 + encD d + encA a + encF f 5 + 22 < 2 ^ 31
  simp only [opA, encD, encA, encF]
  omega

theorem bswap (f : Fmt) (d : WReg) (a : WReg) : Statement (.bswap f d a) := by
  have h0 := fmt_code_lt f
  show opA 0 + encD d + encA a + encF f 5 + 23 < 2 ^ 31
  simp only [opA, encD, encA, encF]
  omega

theorem div (f : Fmt) (d : WReg) (a : WReg) (b : WReg) (la : Fin 16) : Statement (.div f d a b la) := by
  have h0 := fmt_code_lt f
  show opA 1 + encD d + encA a + encB b + encF f 5 + la.val < 2 ^ 31
  simp only [opA, encD, encA, encB, encF]
  omega

theorem divz (f : Fmt) (d : WReg) (a : WReg) (b : WReg) (la : Fin 16) : Statement (.divz f d a b la) := by
  have h0 := fmt_code_lt f
  show opA 1 + encD d + encA a + encB b + encF f 5 + 16 + la.val < 2 ^ 31
  simp only [opA, encD, encA, encB, encF]
  omega

theorem rem (f : Fmt) (d : WReg) (a : WReg) (b : WReg) (la : Fin 16) : Statement (.rem f d a b la) := by
  have h0 := fmt_code_lt f
  show opA 2 + encD d + encA a + encB b + encF f 5 + la.val < 2 ^ 31
  simp only [opA, encD, encA, encB, encF]
  omega

theorem remz (f : Fmt) (d : WReg) (a : WReg) (b : WReg) (la : Fin 16) : Statement (.remz f d a b la) := by
  have h0 := fmt_code_lt f
  show opA 2 + encD d + encA a + encB b + encF f 5 + 16 + la.val < 2 ^ 31
  simp only [opA, encD, encA, encB, encF]
  omega

theorem li (d : WReg) (imm : BitVec 19) : Statement (.li d imm) := by
  show opA 3 + encD d + imm.toNat < 2 ^ 31
  simp only [opA, encD]
  omega

theorem lih (d : WReg) (h : Fin 4) (imm : BitVec 16) : Statement (.lih d h imm) := by
  show opA 4 + encD d + h.val * 2 ^ 17 + imm.toNat < 2 ^ 31
  simp only [opA, encD]
  omega

theorem addi (f : Fmt) (d : WReg) (a : WReg) (imm : BitVec 11) : Statement (.addi f d a imm) := by
  have h0 := fmt_code_lt f
  show opA 5 + encD d + encA a + encF f 11 + imm.toNat < 2 ^ 31
  simp only [opA, encD, encA, encF]
  omega

theorem andi (f : Fmt) (d : WReg) (a : WReg) (imm : BitVec 11) : Statement (.andi f d a imm) := by
  have h0 := fmt_code_lt f
  show opA 6 + encD d + encA a + encF f 11 + imm.toNat < 2 ^ 31
  simp only [opA, encD, encA, encF]
  omega

theorem ori (f : Fmt) (d : WReg) (a : WReg) (imm : BitVec 11) : Statement (.ori f d a imm) := by
  have h0 := fmt_code_lt f
  show opA 7 + encD d + encA a + encF f 11 + imm.toNat < 2 ^ 31
  simp only [opA, encD, encA, encF]
  omega

theorem xori (f : Fmt) (d : WReg) (a : WReg) (imm : BitVec 11) : Statement (.xori f d a imm) := by
  have h0 := fmt_code_lt f
  show opA 8 + encD d + encA a + encF f 11 + imm.toNat < 2 ^ 31
  simp only [opA, encD, encA, encF]
  omega

theorem shli (f : Fmt) (d : WReg) (a : WReg) (imm : BitVec 11) : Statement (.shli f d a imm) := by
  have h0 := fmt_code_lt f
  show opA 9 + encD d + encA a + encF f 11 + imm.toNat < 2 ^ 31
  simp only [opA, encD, encA, encF]
  omega

theorem shri (f : Fmt) (d : WReg) (a : WReg) (imm : BitVec 11) : Statement (.shri f d a imm) := by
  have h0 := fmt_code_lt f
  show opA 10 + encD d + encA a + encF f 11 + imm.toNat < 2 ^ 31
  simp only [opA, encD, encA, encF]
  omega

theorem shai (f : Fmt) (d : WReg) (a : WReg) (imm : BitVec 11) : Statement (.shai f d a imm) := by
  have h0 := fmt_code_lt f
  show opA 11 + encD d + encA a + encF f 11 + imm.toNat < 2 ^ 31
  simp only [opA, encD, encA, encF]
  omega

theorem roti (f : Fmt) (d : WReg) (a : WReg) (imm : BitVec 11) : Statement (.roti f d a imm) := by
  have h0 := fmt_code_lt f
  show opA 12 + encD d + encA a + encF f 11 + imm.toNat < 2 ^ 31
  simp only [opA, encD, encA, encF]
  omega

theorem slti (f : Fmt) (d : WReg) (a : WReg) (imm : BitVec 11) : Statement (.slti f d a imm) := by
  have h0 := fmt_code_lt f
  show opA 13 + encD d + encA a + encF f 11 + imm.toNat < 2 ^ 31
  simp only [opA, encD, encA, encF]
  omega

theorem bext (d : WReg) (a : WReg) (wid : Fin 128) (off : Fin 64) : Statement (.bext d a wid off) := by
  show opA 14 + encD d + encA a + wid.val * 2 ^ 7 + off.val * 2 < 2 ^ 31
  simp only [opA, encD, encA]
  omega

theorem bextz (d : WReg) (a : WReg) (wid : Fin 128) (off : Fin 64) : Statement (.bextz d a wid off) := by
  show opA 14 + encD d + encA a + wid.val * 2 ^ 7 + off.val * 2 + 1 < 2 ^ 31
  simp only [opA, encD, encA]
  omega

theorem bins (d : WReg) (a : WReg) (wid : Fin 128) (off : Fin 64) : Statement (.bins d a wid off) := by
  show opA 15 + encD d + encA a + wid.val * 2 ^ 7 + off.val * 2 < 2 ^ 31
  simp only [opA, encD, encA]
  omega

theorem fadd (f : Fmt) (rm : Rm) (sat : Bool) (d : WReg) (a : WReg) (b : WReg) : Statement (.fadd f rm sat d a b) := by
  have h0 := fmt_code_lt f
  have h1 := rm_code_lt rm
  have h2 := bool_lt sat
  show opA 16 + encD d + encA a + encB b + encF f 5 + rm.code * 2 ^ 2 + sat.toNat * 2 < 2 ^ 31
  simp only [opA, encD, encA, encB, encF]
  omega

theorem fsub (f : Fmt) (rm : Rm) (sat : Bool) (d : WReg) (a : WReg) (b : WReg) : Statement (.fsub f rm sat d a b) := by
  have h0 := fmt_code_lt f
  have h1 := rm_code_lt rm
  have h2 := bool_lt sat
  show opA 17 + encD d + encA a + encB b + encF f 5 + rm.code * 2 ^ 2 + sat.toNat * 2 < 2 ^ 31
  simp only [opA, encD, encA, encB, encF]
  omega

theorem fmul (f : Fmt) (rm : Rm) (sat : Bool) (d : WReg) (a : WReg) (b : WReg) : Statement (.fmul f rm sat d a b) := by
  have h0 := fmt_code_lt f
  have h1 := rm_code_lt rm
  have h2 := bool_lt sat
  show opA 18 + encD d + encA a + encB b + encF f 5 + rm.code * 2 ^ 2 + sat.toNat * 2 < 2 ^ 31
  simp only [opA, encD, encA, encB, encF]
  omega

theorem fma (f : Fmt) (rm : Rm) (sat : Bool) (d : WReg) (a : WReg) (b : WReg) : Statement (.fma f rm sat d a b) := by
  have h0 := fmt_code_lt f
  have h1 := rm_code_lt rm
  have h2 := bool_lt sat
  show opA 19 + encD d + encA a + encB b + encF f 5 + rm.code * 2 ^ 2 + sat.toNat * 2 < 2 ^ 31
  simp only [opA, encD, encA, encB, encF]
  omega

theorem fms (f : Fmt) (rm : Rm) (sat : Bool) (d : WReg) (a : WReg) (b : WReg) : Statement (.fms f rm sat d a b) := by
  have h0 := fmt_code_lt f
  have h1 := rm_code_lt rm
  have h2 := bool_lt sat
  show opA 20 + encD d + encA a + encB b + encF f 5 + rm.code * 2 ^ 2 + sat.toNat * 2 < 2 ^ 31
  simp only [opA, encD, encA, encB, encF]
  omega

theorem fnma (f : Fmt) (rm : Rm) (sat : Bool) (d : WReg) (a : WReg) (b : WReg) : Statement (.fnma f rm sat d a b) := by
  have h0 := fmt_code_lt f
  have h1 := rm_code_lt rm
  have h2 := bool_lt sat
  show opA 21 + encD d + encA a + encB b + encF f 5 + rm.code * 2 ^ 2 + sat.toNat * 2 < 2 ^ 31
  simp only [opA, encD, encA, encB, encF]
  omega

theorem fdiv (dbl : Bool) (rm : Rm) (sat : Bool) (d : WReg) (a : WReg) (b : WReg) (la : Fin 16) : Statement (.fdiv dbl rm sat d a b la) := by
  have h0 := bool_lt dbl
  have h1 := rm_code_lt rm
  have h2 := bool_lt sat
  show opA 22 + encD d + encA a + encB b + dbl.toNat * 2 ^ 8 + rm.code * 2 ^ 5 + sat.toNat * 2 ^ 4 + la.val < 2 ^ 31
  simp only [opA, encD, encA, encB]
  omega

theorem fsqrt (dbl : Bool) (rm : Rm) (sat : Bool) (d : WReg) (a : WReg) (la : Fin 16) : Statement (.fsqrt dbl rm sat d a la) := by
  have h0 := bool_lt dbl
  have h1 := rm_code_lt rm
  have h2 := bool_lt sat
  show opA 23 + encD d + encA a + dbl.toNat * 2 ^ 8 + rm.code * 2 ^ 5 + sat.toNat * 2 ^ 4 + la.val < 2 ^ 31
  simp only [opA, encD, encA]
  omega

theorem fmin (f : Fmt) (d : WReg) (a : WReg) (b : WReg) : Statement (.fmin f d a b) := by
  have h0 := fmt_code_lt f
  show opA 24 + encD d + encA a + encB b + encF f 5 < 2 ^ 31
  simp only [opA, encD, encA, encB, encF]
  omega

theorem fmax (f : Fmt) (d : WReg) (a : WReg) (b : WReg) : Statement (.fmax f d a b) := by
  have h0 := fmt_code_lt f
  show opA 25 + encD d + encA a + encB b + encF f 5 < 2 ^ 31
  simp only [opA, encD, encA, encB, encF]
  omega

theorem fcmp (p : Pred) (f : Fmt) (d : WReg) (a : WReg) (b : WReg) : Statement (.fcmp p f d a b) := by
  have h0 := pred_code_lt p
  have h1 := fmt_code_lt f
  show opA 26 + encD d + encA a + encB b + encF f 5 + p.code * 2 ^ 2 < 2 ^ 31
  simp only [opA, encD, encA, encB, encF]
  omega

theorem fclass (f : Fmt) (d : WReg) (a : WReg) : Statement (.fclass f d a) := by
  have h0 := fmt_code_lt f
  show opA 27 + encD d + encA a + encF f 5 < 2 ^ 31
  simp only [opA, encD, encA, encF]
  omega

theorem fsgn (o : SgnOp) (f : Fmt) (d : WReg) (a : WReg) (b : WReg) : Statement (.fsgn o f d a b) := by
  have h0 := sgn_code_lt o
  have h1 := fmt_code_lt f
  show opA 28 + encD d + encA a + encB b + encF f 5 + o.code * 2 ^ 2 < 2 ^ 31
  simp only [opA, encD, encA, encB, encF]
  omega

theorem fcvt (fd : Fmt) (fs : Fmt) (rm : Rm) (sat : Bool) (d : WReg) (a : WReg) : Statement (.fcvt fd fs rm sat d a) := by
  have h0 := fmt_code_lt fd
  have h1 := fmt_code_lt fs
  have h2 := rm_code_lt rm
  have h3 := bool_lt sat
  show opA 29 + encD d + encA a + encF fd 10 + encF fs 6 + rm.code * 2 ^ 3 + sat.toNat * 2 ^ 2 < 2 ^ 31
  simp only [opA, encD, encA, encF]
  omega

theorem fcvti (fd : Fmt) (fs : Fmt) (rm : Rm) (sat : Bool) (d : WReg) (a : WReg) : Statement (.fcvti fd fs rm sat d a) := by
  have h0 := fmt_code_lt fd
  have h1 := fmt_code_lt fs
  have h2 := rm_code_lt rm
  have h3 := bool_lt sat
  show opA 30 + encD d + encA a + encF fd 10 + encF fs 6 + rm.code * 2 ^ 3 + sat.toNat * 2 ^ 2 < 2 ^ 31
  simp only [opA, encD, encA, encF]
  omega

theorem icvtf (fd : Fmt) (fs : Fmt) (rm : Rm) (sat : Bool) (d : WReg) (a : WReg) : Statement (.icvtf fd fs rm sat d a) := by
  have h0 := fmt_code_lt fd
  have h1 := fmt_code_lt fs
  have h2 := rm_code_lt rm
  have h3 := bool_lt sat
  show opA 31 + encD d + encA a + encF fd 10 + encF fs 6 + rm.code * 2 ^ 3 + sat.toNat * 2 ^ 2 < 2 ^ 31
  simp only [opA, encD, encA, encF]
  omega

theorem fmvi (f : Fmt) (d : WReg) (imm : BitVec 16) : Statement (.fmvi f d imm) := by
  have h0 := fmt_code_lt f
  show opA 32 + encD d + (f.code - 8) * 2 ^ 16 + imm.toNat < 2 ^ 31
  simp only [opA, encD]
  omega

theorem cdmac (fb : Fmt) (bn : Bool) (d : WReg) (a : WReg) (b : WReg) : Statement (.cdmac fb bn d a b) := by
  have h0 := fmt_code_lt fb
  have h1 := bool_lt bn
  show opA 33 + encD d + encA a + encB b + encF fb 1 + bn.toNat < 2 ^ 31
  simp only [opA, encD, encA, encB, encF]
  omega

theorem cdmacv (fb : Fmt) (bn : Bool) (d : WReg) (a : WReg) (b : WReg) : Statement (.cdmacv fb bn d a b) := by
  have h0 := fmt_code_lt fb
  have h1 := bool_lt bn
  show opA 34 + encD d + encA a + encB b + encF fb 1 + bn.toNat < 2 ^ 31
  simp only [opA, encD, encA, encB, encF]
  omega

theorem mma (fa : Fmt) (fb : Fmt) (bn : Bool) (d : WReg) (a : WReg) (b : WReg) : Statement (.mma fa fb bn d a b) := by
  have h0 := fmt_code_lt fa
  have h1 := fmt_code_lt fb
  have h2 := bool_lt bn
  show opA 35 + encD d + encA a + encB b + encF fa 5 + encF fb 1 + bn.toNat < 2 ^ 31
  simp only [opA, encD, encA, encB, encF]
  omega

theorem zld (d : WReg) (a : WReg) : Statement (.zld d a) := by
  show opA 36 + encD d + encA a < 2 ^ 31
  simp only [opA, encD, encA]
  omega

theorem zst (a : WReg) (b : WReg) : Statement (.zst a b) := by
  show opA 37 + encA a + encB b < 2 ^ 31
  simp only [opA, encA, encB]
  omega

theorem zclr (a : WReg) (b : WReg) : Statement (.zclr a b) := by
  show opA 38 + encA a + encB b < 2 ^ 31
  simp only [opA, encA, encB]
  omega

theorem zcvt (f : Fmt) (rm : Rm) (sat : Bool) (d : WReg) (a : WReg) (b : WReg) : Statement (.zcvt f rm sat d a b) := by
  have h0 := fmt_code_lt f
  have h1 := rm_code_lt rm
  have h2 := bool_lt sat
  show opA 39 + encD d + encA a + encB b + encF f 5 + rm.code * 2 ^ 2 + sat.toNat * 2 < 2 ^ 31
  simp only [opA, encD, encA, encB, encF]
  omega

theorem sdcfg (a : WReg) (b : WReg) : Statement (.sdcfg a b) := by
  show opA 40 + encA a + encB b < 2 ^ 31
  simp only [opA, encA, encB]
  omega

theorem sdscan (a : WReg) (b : WReg) : Statement (.sdscan a b) := by
  show opA 41 + encA a + encB b < 2 ^ 31
  simp only [opA, encA, encB]
  omega

theorem sdflush (a : WReg) : Statement (.sdflush a) := by
  show opA 42 + encA a < 2 ^ 31
  simp only [opA, encA]
  omega

theorem vadd (f : Fmt) (rm : Rm) (sat : Bool) (d : PtrArg) (a : PtrArg) (b : PtrArg) : Statement (.vadd f rm sat d a b) := by
  have h0 := fmt_code_lt f
  have h1 := rm_code_lt rm
  have h2 := bool_lt sat
  have h3 := ptr_enc_lt d
  have h4 := ptr_enc_lt a
  have h5 := ptr_enc_lt b
  show encV 48 d.enc a.enc b.enc f.code + rm.code * 2 ^ 5 + sat.toNat * 2 ^ 4 + 0 < 2 ^ 31
  simp only [opA, encV]
  omega

theorem vsub (f : Fmt) (rm : Rm) (sat : Bool) (d : PtrArg) (a : PtrArg) (b : PtrArg) : Statement (.vsub f rm sat d a b) := by
  have h0 := fmt_code_lt f
  have h1 := rm_code_lt rm
  have h2 := bool_lt sat
  have h3 := ptr_enc_lt d
  have h4 := ptr_enc_lt a
  have h5 := ptr_enc_lt b
  show encV 48 d.enc a.enc b.enc f.code + rm.code * 2 ^ 5 + sat.toNat * 2 ^ 4 + 1 < 2 ^ 31
  simp only [opA, encV]
  omega

theorem vmul (f : Fmt) (rm : Rm) (sat : Bool) (d : PtrArg) (a : PtrArg) (b : PtrArg) : Statement (.vmul f rm sat d a b) := by
  have h0 := fmt_code_lt f
  have h1 := rm_code_lt rm
  have h2 := bool_lt sat
  have h3 := ptr_enc_lt d
  have h4 := ptr_enc_lt a
  have h5 := ptr_enc_lt b
  show encV 48 d.enc a.enc b.enc f.code + rm.code * 2 ^ 5 + sat.toNat * 2 ^ 4 + 2 < 2 ^ 31
  simp only [opA, encV]
  omega

theorem vma (f : Fmt) (rm : Rm) (sat : Bool) (d : PtrArg) (a : PtrArg) (b : PtrArg) : Statement (.vma f rm sat d a b) := by
  have h0 := fmt_code_lt f
  have h1 := rm_code_lt rm
  have h2 := bool_lt sat
  have h3 := ptr_enc_lt d
  have h4 := ptr_enc_lt a
  have h5 := ptr_enc_lt b
  show encV 48 d.enc a.enc b.enc f.code + rm.code * 2 ^ 5 + sat.toNat * 2 ^ 4 + 3 < 2 ^ 31
  simp only [opA, encV]
  omega

theorem vmin (f : Fmt) (rm : Rm) (d : PtrArg) (a : PtrArg) (b : PtrArg) : Statement (.vmin f rm d a b) := by
  have h0 := fmt_code_lt f
  have h1 := rm_code_lt rm
  have h2 := ptr_enc_lt d
  have h3 := ptr_enc_lt a
  have h4 := ptr_enc_lt b
  show encV 48 d.enc a.enc b.enc f.code + rm.code * 2 ^ 5 + 4 < 2 ^ 31
  simp only [opA, encV]
  omega

theorem vmax (f : Fmt) (rm : Rm) (d : PtrArg) (a : PtrArg) (b : PtrArg) : Statement (.vmax f rm d a b) := by
  have h0 := fmt_code_lt f
  have h1 := rm_code_lt rm
  have h2 := ptr_enc_lt d
  have h3 := ptr_enc_lt a
  have h4 := ptr_enc_lt b
  show encV 48 d.enc a.enc b.enc f.code + rm.code * 2 ^ 5 + 5 < 2 ^ 31
  simp only [opA, encV]
  omega

theorem vand (f : Fmt) (d : PtrArg) (a : PtrArg) (b : PtrArg) : Statement (.vand f d a b) := by
  have h0 := fmt_code_lt f
  have h1 := ptr_enc_lt d
  have h2 := ptr_enc_lt a
  have h3 := ptr_enc_lt b
  show encV 48 d.enc a.enc b.enc f.code + 6 < 2 ^ 31
  simp only [opA, encV]
  omega

theorem vor (f : Fmt) (d : PtrArg) (a : PtrArg) (b : PtrArg) : Statement (.vor f d a b) := by
  have h0 := fmt_code_lt f
  have h1 := ptr_enc_lt d
  have h2 := ptr_enc_lt a
  have h3 := ptr_enc_lt b
  show encV 48 d.enc a.enc b.enc f.code + 7 < 2 ^ 31
  simp only [opA, encV]
  omega

theorem vxor (f : Fmt) (d : PtrArg) (a : PtrArg) (b : PtrArg) : Statement (.vxor f d a b) := by
  have h0 := fmt_code_lt f
  have h1 := ptr_enc_lt d
  have h2 := ptr_enc_lt a
  have h3 := ptr_enc_lt b
  show encV 48 d.enc a.enc b.enc f.code + 8 < 2 ^ 31
  simp only [opA, encV]
  omega

theorem vshl (f : Fmt) (d : PtrArg) (a : PtrArg) (b : PtrArg) : Statement (.vshl f d a b) := by
  have h0 := fmt_code_lt f
  have h1 := ptr_enc_lt d
  have h2 := ptr_enc_lt a
  have h3 := ptr_enc_lt b
  show encV 48 d.enc a.enc b.enc f.code + 9 < 2 ^ 31
  simp only [opA, encV]
  omega

theorem vshr (f : Fmt) (d : PtrArg) (a : PtrArg) (b : PtrArg) : Statement (.vshr f d a b) := by
  have h0 := fmt_code_lt f
  have h1 := ptr_enc_lt d
  have h2 := ptr_enc_lt a
  have h3 := ptr_enc_lt b
  show encV 48 d.enc a.enc b.enc f.code + 10 < 2 ^ 31
  simp only [opA, encV]
  omega

theorem vcmp (p : Pred) (f : Fmt) (d : PtrArg) (a : PtrArg) (b : PtrArg) : Statement (.vcmp p f d a b) := by
  have h0 := pred_code_lt p
  have h1 := fmt_code_lt f
  have h2 := ptr_enc_lt d
  have h3 := ptr_enc_lt a
  have h4 := ptr_enc_lt b
  show encV 49 d.enc a.enc b.enc f.code + p.code < 2 ^ 31
  simp only [opA, encV]
  omega

theorem vsel (f : Fmt) (d : PtrArg) (a : PtrArg) (b : PtrArg) (m : PtrArg) : Statement (.vsel f d a b m) := by
  have h0 := fmt_code_lt f
  have h1 := ptr_enc_lt d
  have h2 := ptr_enc_lt a
  have h3 := ptr_enc_lt b
  have h4 := ptr_enc_lt m
  have hm := bool_lt m.inc
  show encV 50 d.enc a.enc b.enc f.code + m.inc.toNat * 2 ^ 3 + m.reg.val < 2 ^ 31
  simp only [opA, encV]
  omega

theorem vcvt (fd : Fmt) (fs : Fmt) (rm : Rm) (sat : Bool) (d : PtrArg) (a : PtrArg) : Statement (.vcvt fd fs rm sat d a) := by
  have h0 := fmt_code_lt fd
  have h1 := fmt_code_lt fs
  have h2 := rm_code_lt rm
  have h3 := bool_lt sat
  have h4 := ptr_enc_lt d
  have h5 := ptr_enc_lt a
  show encV 51 d.enc a.enc 0 fd.code + rm.code * 2 ^ 5 + sat.toNat * 2 ^ 4 + fs.code < 2 ^ 31
  simp only [opA, encV]
  omega

theorem vred (o : RedOp) (f : Fmt) (rm : Rm) (d : PtrArg) (a : PtrArg) : Statement (.vred o f rm d a) := by
  have h0 := red_code_lt o
  have h1 := fmt_code_lt f
  have h2 := rm_code_lt rm
  have h3 := ptr_enc_lt d
  have h4 := ptr_enc_lt a
  show encV 52 d.enc a.enc 0 f.code + rm.code * 2 ^ 5 + o.code < 2 ^ 31
  simp only [opA, encV]
  omega

theorem vdot (f : Fmt) (rm : Rm) (d : PtrArg) (a : PtrArg) (b : PtrArg) : Statement (.vdot f rm d a b) := by
  have h0 := fmt_code_lt f
  have h1 := rm_code_lt rm
  have h2 := ptr_enc_lt d
  have h3 := ptr_enc_lt a
  have h4 := ptr_enc_lt b
  show encV 53 d.enc a.enc b.enc f.code + rm.code * 2 ^ 5 < 2 ^ 31
  simp only [opA, encV]
  omega

theorem vscan (o : RedOp) (f : Fmt) (rm : Rm) (d : PtrArg) (a : PtrArg) : Statement (.vscan o f rm d a) := by
  have h0 := red_code_lt o
  have h1 := fmt_code_lt f
  have h2 := rm_code_lt rm
  have h3 := ptr_enc_lt d
  have h4 := ptr_enc_lt a
  show encV 54 d.enc a.enc 0 f.code + rm.code * 2 ^ 5 + o.code < 2 ^ 31
  simp only [opA, encV]
  omega

theorem vperm (f : Fmt) (d : PtrArg) (a : PtrArg) (b : PtrArg) : Statement (.vperm f d a b) := by
  have h0 := fmt_code_lt f
  have h1 := ptr_enc_lt d
  have h2 := ptr_enc_lt a
  have h3 := ptr_enc_lt b
  show encV 55 d.enc a.enc b.enc f.code < 2 ^ 31
  simp only [opA, encV]
  omega

theorem vgath (f : Fmt) (d : PtrArg) (a : PReg) (b : PtrArg) : Statement (.vgath f d a b) := by
  have h0 := fmt_code_lt f
  have h1 := ptr_enc_lt d
  have h3 := ptr_enc_lt b
  show encV 56 d.enc (a.val * 2) b.enc f.code < 2 ^ 31
  simp only [opA, encV]
  omega

theorem vscat (f : Fmt) (d : PReg) (a : PtrArg) (b : PtrArg) : Statement (.vscat f d a b) := by
  have h0 := fmt_code_lt f
  have h2 := ptr_enc_lt a
  have h3 := ptr_enc_lt b
  show encV 57 (d.val * 2) a.enc b.enc f.code < 2 ^ 31
  simp only [opA, encV]
  omega

theorem vfill (f : Fmt) (d : PtrArg) (a : PtrArg) : Statement (.vfill f d a) := by
  have h0 := fmt_code_lt f
  have h1 := ptr_enc_lt d
  have h2 := ptr_enc_lt a
  show encV 58 d.enc a.enc 0 f.code < 2 ^ 31
  simp only [opA, encV]
  omega

theorem vcopy (f : Fmt) (d : PtrArg) (a : PtrArg) : Statement (.vcopy f d a) := by
  have h0 := fmt_code_lt f
  have h1 := ptr_enc_lt d
  have h2 := ptr_enc_lt a
  show encV 59 d.enc a.enc 0 f.code < 2 ^ 31
  simp only [opA, encV]
  omega

theorem vclmul (f : Fmt) (d : PtrArg) (a : PtrArg) (b : PtrArg) : Statement (.vclmul f d a b) := by
  have h0 := fmt_code_lt f
  have h1 := ptr_enc_lt d
  have h2 := ptr_enc_lt a
  have h3 := ptr_enc_lt b
  show encV 60 d.enc a.enc b.enc f.code < 2 ^ 31
  simp only [opA, encV]
  omega

theorem vhash (f : Fmt) (d : PtrArg) (a : PtrArg) (b : PtrArg) : Statement (.vhash f d a b) := by
  have h0 := fmt_code_lt f
  have h1 := ptr_enc_lt d
  have h2 := ptr_enc_lt a
  have h3 := ptr_enc_lt b
  show encV 61 d.enc a.enc b.enc f.code < 2 ^ 31
  simp only [opA, encV]
  omega

theorem vcmpb (d : PtrArg) (a : PtrArg) (b : PtrArg) : Statement (.vcmpb d a b) := by
  have h0 := ptr_enc_lt d
  have h1 := ptr_enc_lt a
  have h2 := ptr_enc_lt b
  show encV 62 d.enc a.enc b.enc 0 < 2 ^ 31
  simp only [opA, encV]
  omega

theorem vfindb (d : PtrArg) (a : PtrArg) (b : PtrArg) : Statement (.vfindb d a b) := by
  have h0 := ptr_enc_lt d
  have h1 := ptr_enc_lt a
  have h2 := ptr_enc_lt b
  show encV 63 d.enc a.enc b.enc 0 < 2 ^ 31
  simp only [opA, encV]
  omega

theorem fence (c : Scope) : Statement (.fence c) := by
  have h0 := scope_code_lt c
  show 1 * 2 ^ 19 + c.code < 2 ^ 31
  omega

theorem yield (n : BitVec 12) : Statement (.yield n) := by
  show 3 * 2 ^ 19 + n.toNat < 2 ^ 31
  omega

theorem trap (n : BitVec 12) (a : WReg) : Statement (.trap n a) := by
  show 6 * 2 ^ 19 + encA a + n.toNat < 2 ^ 31
  simp only [encA]
  omega

theorem swarm (n : SwarmSize) : Statement (.swarm n) := by
  have h0 := swarm_code_lt n
  show 9 * 2 ^ 19 + n.code < 2 ^ 31
  omega

theorem mfs (d : WReg) (n : BitVec 12) : Statement (.mfs d n) := by
  show opC 1 + encD d + n.toNat < 2 ^ 31
  simp only [opC, encD]
  omega

theorem mts (n : BitVec 12) (a : WReg) : Statement (.mts n a) := by
  show opC 2 + encA a + n.toNat < 2 ^ 31
  simp only [opC, encA]
  omega

theorem pset (p : PReg) (a : WReg) : Statement (.pset p a) := by
  show opC 3 + encA a + p.val < 2 ^ 31
  simp only [opC, encA]
  omega

theorem pget (d : WReg) (p : PReg) : Statement (.pget d p) := by
  show opC 4 + encD d + p.val < 2 ^ 31
  simp only [opC, encD]
  omega

theorem setvl (d : WReg) (a : WReg) : Statement (.setvl d a) := by
  show opC 5 + encD d + encA a < 2 ^ 31
  simp only [opC, encD, encA]
  omega

theorem cinv (a : WReg) : Statement (.cinv a) := by
  show opC 6 + encA a < 2 ^ 31
  simp only [opC, encA]
  omega

theorem cflush (a : WReg) : Statement (.cflush a) := by
  show opC 7 + encA a < 2 ^ 31
  simp only [opC, encA]
  omega

theorem ld (w : Fmt) (acq : Bool) (d : WReg) (a : WReg) (off : BitVec 6) (la : Fin 16) : Statement (.ld w acq d a off la) := by
  have h0 := fmt_code_lt w
  have h1 := bool_lt acq
  show opC 8 + encD d + encA a + encF w 11 + acq.toNat * 2 ^ 10 + off.toNat * 2 ^ 4 + la.val < 2 ^ 31
  simp only [opC, encD, encA, encF]
  omega

theorem st (w : Fmt) (rel : Bool) (d : WReg) (a : WReg) (off : BitVec 10) : Statement (.st w rel d a off) := by
  have h0 := fmt_code_lt w
  have h1 := bool_lt rel
  show opC 9 + encD d + encA a + encF w 11 + rel.toNat * 2 ^ 10 + off.toNat < 2 ^ 31
  simp only [opC, encD, encA, encF]
  omega

theorem ldx (w : Fmt) (acq : Bool) (d : WReg) (a : WReg) (b : WReg) (la : Fin 16) : Statement (.ldx w acq d a b la) := by
  have h0 := fmt_code_lt w
  have h1 := bool_lt acq
  show opC 10 + encD d + encA a + encB b + encF w 6 + acq.toNat * 2 ^ 5 + la.val < 2 ^ 31
  simp only [opC, encD, encA, encB, encF]
  omega

theorem stx (w : Fmt) (rel : Bool) (d : WReg) (a : WReg) (b : WReg) : Statement (.stx w rel d a b) := by
  have h0 := fmt_code_lt w
  have h1 := bool_lt rel
  show opC 11 + encD d + encA a + encB b + encF w 6 + rel.toNat * 2 ^ 5 < 2 ^ 31
  simp only [opC, encD, encA, encB, encF]
  omega

theorem ldfe (acq : Bool) (d : WReg) (a : WReg) (off : BitVec 6) (la : Fin 16) : Statement (.ldfe acq d a off la) := by
  have h0 := bool_lt acq
  show opC 12 + encD d + encA a + 3 * 2 ^ 11 + acq.toNat * 2 ^ 10 + off.toNat * 2 ^ 4 + la.val < 2 ^ 31
  simp only [opC, encD, encA]
  omega

theorem ldff (acq : Bool) (d : WReg) (a : WReg) (off : BitVec 6) (la : Fin 16) : Statement (.ldff acq d a off la) := by
  have h0 := bool_lt acq
  show opC 13 + encD d + encA a + 3 * 2 ^ 11 + acq.toNat * 2 ^ 10 + off.toNat * 2 ^ 4 + la.val < 2 ^ 31
  simp only [opC, encD, encA]
  omega

theorem stfe (rel : Bool) (d : WReg) (a : WReg) (off : BitVec 10) : Statement (.stfe rel d a off) := by
  have h0 := bool_lt rel
  show opC 14 + encD d + encA a + 3 * 2 ^ 11 + rel.toNat * 2 ^ 10 + off.toNat < 2 ^ 31
  simp only [opC, encD, encA]
  omega

theorem feq (acq : Bool) (d : WReg) (a : WReg) (off : BitVec 6) (la : Fin 16) : Statement (.feq acq d a off la) := by
  have h0 := bool_lt acq
  show opC 15 + encD d + encA a + 3 * 2 ^ 11 + acq.toNat * 2 ^ 10 + off.toNat * 2 ^ 4 + la.val < 2 ^ 31
  simp only [opC, encD, encA]
  omega

theorem amo (op : Aop) (ord : Bool) (d : WReg) (a : WReg) (b : WReg) (la : Fin 16) : Statement (.amo op ord d a b la) := by
  have h0 := aop_code_lt op
  have h1 := bool_lt ord
  show opC 16 + encD d + encA a + encB b + op.code * 2 ^ 5 + ord.toNat * 2 ^ 4 + la.val < 2 ^ 31
  simp only [opC, encD, encA, encB]
  omega

theorem amov (op : Aop) (ord : Bool) (a : WReg) (pa : PtrArg) (pb : PtrArg) : Statement (.amov op ord a pa pb) := by
  have h0 := aop_code_lt op
  have h1 := bool_lt ord
  have h3 := ptr_enc_lt pa
  have h4 := ptr_enc_lt pb
  show opC 17 + op.code * 2 ^ 20 + ord.toNat * 2 ^ 19 + encA a + pa.enc * 2 ^ 10 + pb.enc * 2 ^ 6 < 2 ^ 31
  simp only [opC, encA]
  omega

theorem amocfg (n : Fin 8) (a : WReg) : Statement (.amocfg n a) := by
  show opC 18 + encA a + n.val < 2 ^ 31
  simp only [opC, encA]
  omega

theorem xamo (op : Aop) (ord : Bool) (d : WReg) (a : WReg) (b : WReg) (la : Fin 16) : Statement (.xamo op ord d a b la) := by
  have h0 := aop_code_lt op
  have h1 := bool_lt ord
  show opC 19 + encD d + encA a + encB b + op.code * 2 ^ 5 + ord.toNat * 2 ^ 4 + la.val < 2 ^ 31
  simp only [opC, encD, encA, encB]
  omega

theorem xld (w : Fmt) (acq : Bool) (d : WReg) (a : WReg) (off : BitVec 6) (la : Fin 16) : Statement (.xld w acq d a off la) := by
  have h0 := fmt_code_lt w
  have h1 := bool_lt acq
  show opC 20 + encD d + encA a + encF w 11 + acq.toNat * 2 ^ 10 + off.toNat * 2 ^ 4 + la.val < 2 ^ 31
  simp only [opC, encD, encA, encF]
  omega

theorem xst (w : Fmt) (d : WReg) (a : WReg) (off : BitVec 10) : Statement (.xst w d a off) := by
  have h0 := fmt_code_lt w
  show opC 21 + encD d + encA a + encF w 11 + off.toNat < 2 ^ 31
  simp only [opC, encD, encA, encF]
  omega

theorem xam (a : WReg) : Statement (.xam a) := by
  show opC 22 + encA a < 2 ^ 31
  simp only [opC, encA]
  omega

theorem xflag (a : WReg) (b : WReg) : Statement (.xflag a b) := by
  show opC 23 + encA a + encB b < 2 ^ 31
  simp only [opC, encA, encB]
  omega

theorem beq (a : WReg) (b : WReg) (off : BitVec 14) : Statement (.beq a b off) := by
  show opC 24 + encA a + encB b + encOff off < 2 ^ 31
  simp only [opC, encA, encB, encOff]
  omega

theorem bne (a : WReg) (b : WReg) (off : BitVec 14) : Statement (.bne a b off) := by
  show opC 25 + encA a + encB b + encOff off < 2 ^ 31
  simp only [opC, encA, encB, encOff]
  omega

theorem blt (a : WReg) (b : WReg) (off : BitVec 14) : Statement (.blt a b off) := by
  show opC 26 + encA a + encB b + encOff off < 2 ^ 31
  simp only [opC, encA, encB, encOff]
  omega

theorem bge (a : WReg) (b : WReg) (off : BitVec 14) : Statement (.bge a b off) := by
  show opC 27 + encA a + encB b + encOff off < 2 ^ 31
  simp only [opC, encA, encB, encOff]
  omega

theorem bltz (a : WReg) (off : BitVec 14) : Statement (.bltz a off) := by
  show opC 28 + encA a + encOff off < 2 ^ 31
  simp only [opC, encA, encOff]
  omega

theorem bgez (a : WReg) (off : BitVec 14) : Statement (.bgez a off) := by
  show opC 29 + encA a + encOff off < 2 ^ 31
  simp only [opC, encA, encOff]
  omega

theorem bcf (off : BitVec 14) : Statement (.bcf off) := by
  show opC 30 + encOff off < 2 ^ 31
  simp only [opC, encOff]
  omega

theorem bncf (off : BitVec 14) : Statement (.bncf off) := by
  show opC 31 + encOff off < 2 ^ 31
  simp only [opC, encOff]
  omega

theorem j (off : BitVec 19) : Statement (.j off) := by
  show opC 32 + off.toNat < 2 ^ 31
  simp only [opC]
  omega

theorem jl (d : WReg) (off : BitVec 19) : Statement (.jl d off) := by
  show opC 33 + encD d + off.toNat < 2 ^ 31
  simp only [opC, encD]
  omega

theorem jr (a : WReg) : Statement (.jr a) := by
  show opC 34 + encA a < 2 ^ 31
  simp only [opC, encA]
  omega

theorem jlr (d : WReg) (a : WReg) : Statement (.jlr d a) := by
  show opC 35 + encD d + encA a < 2 ^ 31
  simp only [opC, encD, encA]
  omega

theorem evsend (d : WReg) (a : WReg) (b : WReg) (edge : Fin 256) : Statement (.evsend d a b edge) := by
  show opC 36 + encD d + encA a + encB b + edge.val < 2 ^ 31
  simp only [opC, encD, encA, encB]
  omega

theorem evcnt (d : WReg) : Statement (.evcnt d) := by
  show opC 38 + encD d < 2 ^ 31
  simp only [opC, encD]
  omega

theorem mbw (n : Fin 8) (a : WReg) : Statement (.mbw n a) := by
  show opC 39 + encA a + n.val < 2 ^ 31
  simp only [opC, encA]
  omega

theorem waitm (d : WReg) : Statement (.waitm d) := by
  show opC 41 + encD d < 2 ^ 31
  simp only [opC, encD]
  omega

theorem fork (a : WReg) (slot : Fin 64) : Statement (.fork a slot) := by
  show opC 42 + encA a + slot.val < 2 ^ 31
  simp only [opC, encA]
  omega

theorem join (d : WReg) (a : WReg) : Statement (.join d a) := by
  show opC 43 + encD d + encA a < 2 ^ 31
  simp only [opC, encD, encA]
  omega

theorem arrive (b : Fin 8) : Statement (.arrive b) := by
  show opC 44 + b.val < 2 ^ 31
  simp only [opC]
  omega

theorem arriveRemote (b : Fin 8) (a : WReg) : Statement (.arriveRemote b a) := by
  show opC 44 + encA a + 8 + b.val < 2 ^ 31
  simp only [opC, encA]
  omega

theorem arriveb (b : Fin 8) (wb : WReg) : Statement (.arriveb b wb) := by
  show opC 45 + encB wb + b.val < 2 ^ 31
  simp only [opC, encB]
  omega

theorem arrivebRemote (b : Fin 8) (wb : WReg) (a : WReg) : Statement (.arrivebRemote b wb a) := by
  show opC 45 + encA a + encB wb + 8 + b.val < 2 ^ 31
  simp only [opC, encA, encB]
  omega

theorem waitb (b : Fin 8) : Statement (.waitb b) := by
  show opC 46 + b.val < 2 ^ 31
  simp only [opC]
  omega

theorem waitbt (b : Fin 8) (a : WReg) : Statement (.waitbt b a) := by
  show opC 47 + encA a + b.val < 2 ^ 31
  simp only [opC, encA]
  omega

theorem bcfgSet (b : Fin 8) (a : WReg) : Statement (.bcfgSet b a) := by
  show opC 48 + encA a + b.val < 2 ^ 31
  simp only [opC, encA]
  omega

theorem bcfgGet (b : Fin 8) (a : WReg) : Statement (.bcfgGet b a) := by
  show opC 48 + encA a + 8 + b.val < 2 ^ 31
  simp only [opC, encA]
  omega

theorem cpass (a : WReg) (b : WReg) : Statement (.cpass a b) := by
  show opC 49 + encA a + encB b < 2 ^ 31
  simp only [opC, encA, encB]
  omega

theorem cqry (d : WReg) (a : WReg) : Statement (.cqry d a) := by
  show opC 49 + encD d + encA a + 1 < 2 ^ 31
  simp only [opC, encD, encA]
  omega

theorem freeze (a : WReg) : Statement (.freeze a) := by
  show opC 49 + encA a + 2 < 2 ^ 31
  simp only [opC, encA]
  omega

theorem land (r : Rule) (a : WReg) : Statement (.land r a) := by
  have h0 := rule_code_lt r
  show opC 49 + encA a + r.code * 2 ^ 3 + 3 < 2 ^ 31
  simp only [opC, encA]
  omega

theorem publish (a : WReg) : Statement (.publish a) := by
  show opC 49 + encA a + 4 < 2 ^ 31
  simp only [opC, encA]
  omega

theorem push (d : WReg) (a : WReg) (b : WReg) (bar : Option (Fin 8)) : Statement (.push d a b bar) := by
  have h3 := bar_enc_lt bar
  show opC 50 + encD d + encA a + encB b + encBar bar < 2 ^ 31
  simp only [opC, encD, encA, encB]
  omega

theorem pushx (d : WReg) (a : WReg) (b : WReg) (bar : Option (Fin 8)) : Statement (.pushx d a b bar) := by
  have h3 := bar_enc_lt bar
  show opC 51 + encD d + encA a + encB b + encBar bar < 2 ^ 31
  simp only [opC, encD, encA, encB]
  omega

theorem sbind (w : Fmt) (n : Fin 4) (a : WReg) (b : WReg) : Statement (.sbind w n a b) := by
  have h0 := fmt_code_lt w
  show opC 52 + encA a + encB b + encF w 2 + n.val < 2 ^ 31
  simp only [opC, encA, encB, encF]
  omega

theorem sunbind (n : Fin 4) : Statement (.sunbind n) := by
  show opC 53 + n.val < 2 ^ 31
  simp only [opC]
  omega

theorem srd (d : WReg) (n : Fin 4) : Statement (.srd d n) := by
  show opC 54 + encD d + n.val < 2 ^ 31
  simp only [opC, encD]
  omega

theorem fact (n : Fin 4) (a : WReg) : Statement (.fact n a) := by
  show opC 56 + encA a + n.val < 2 ^ 31
  simp only [opC, encA]
  omega

theorem fconsA (n : Fin 4) : Statement (.fconsA n) := by
  show opC 57 + n.val < 2 ^ 31
  simp only [opC]
  omega

theorem fconsB (n : Fin 4) : Statement (.fconsB n) := by
  show opC 57 + 4 + n.val < 2 ^ 31
  simp only [opC]
  omega

theorem fconsM (n : Fin 4) (a : WReg) : Statement (.fconsM n a) := by
  show opC 57 + encA a + 8 + n.val < 2 ^ 31
  simp only [opC, encA]
  omega

theorem fwrite (n : Fin 4) (a : WReg) : Statement (.fwrite n a) := by
  show opC 58 + encA a + n.val < 2 ^ 31
  simp only [opC, encA]
  omega

theorem fpre (n : Fin 4) : Statement (.fpre n) := by
  show opC 59 + n.val < 2 ^ 31
  simp only [opC]
  omega

theorem fstat (d : WReg) (n : Fin 4) : Statement (.fstat d n) := by
  show opC 60 + encD d + n.val < 2 ^ 31
  simp only [opC, encD]
  omega

theorem longLatencyResult (g : CellId) (k : StrandId) (seq : Nat) : Statement (.longLatencyResult g k seq) := by
  show 0 < 2 ^ 31
  decide

theorem storeAcknowledgement (g : CellId) (k : StrandId) (seq : Nat) : Statement (.storeAcknowledgement g k seq) := by
  show 0 < 2 ^ 31
  decide

theorem engineInstructionStart (g : CellId) (e : Eng) : Statement (.engineInstructionStart g e) := by
  show 0 < 2 ^ 31
  decide

theorem engineInstructionRetire (g : CellId) (e : Eng) : Statement (.engineInstructionRetire g e) := by
  show 0 < 2 ^ 31
  decide

theorem frameActivate (g : CellId) : Statement (.frameActivate g) := by
  show 0 < 2 ^ 31
  decide

theorem frameOpen (g : CellId) (port : Fin 4) : Statement (.frameOpen g port) := by
  show 0 < 2 ^ 31
  decide

theorem refresh (hive : Nat) (comb : Nat) (bank : Nat) : Statement (.refresh hive comb bank) := by
  show 0 < 2 ^ 31
  decide

theorem refreshEnd (hive : Nat) (comb : Nat) (bank : Nat) : Statement (.refreshEnd hive comb bank) := by
  show 0 < 2 ^ 31
  decide

theorem copyBlockWrite (id : Nat) : Statement (.copyBlockWrite id) := by
  show 0 < 2 ^ 31
  decide

theorem copyCompletion (id : Nat) : Statement (.copyCompletion id) := by
  show 0 < 2 ^ 31
  decide

theorem copyRetirement (id : Nat) : Statement (.copyRetirement id) := by
  show 0 < 2 ^ 31
  decide

theorem mailboxSpillEnter (g : CellId) : Statement (.mailboxSpillEnter g) := by
  show 0 < 2 ^ 31
  decide

theorem pushxProxyEntry (id : Nat) : Statement (.pushxProxyEntry id) := by
  show 0 < 2 ^ 31
  decide

theorem streamBlockArrival (g : CellId) (sid : Nat) : Statement (.streamBlockArrival g sid) := by
  show 0 < 2 ^ 31
  decide

theorem barrierArrival (arr : Arrival) : Statement (.barrierArrival arr) := by
  show 0 < 2 ^ 31
  decide

theorem parkedStrandResume (g : CellId) (k : StrandId) : Statement (.parkedStrandResume g k) := by
  show 0 < 2 ^ 31
  decide

theorem waitbtExpiry (g : CellId) (k : StrandId) : Statement (.waitbtExpiry g k) := by
  show 0 < 2 ^ 31
  decide

theorem watchdog (g : CellId) (k : StrandId) : Statement (.watchdog g k) := by
  show 0 < 2 ^ 31
  decide

theorem watchdogHandlerExpiry (g : CellId) (k : StrandId) : Statement (.watchdogHandlerExpiry g k) := by
  show 0 < 2 ^ 31
  decide

theorem feRetry (g : CellId) (k : StrandId) : Statement (.feRetry g k) := by
  show 0 < 2 ^ 31
  decide

theorem swarmClaimGrant (g : CellId) (k : StrandId) : Statement (.swarmClaimGrant g k) := by
  show 0 < 2 ^ 31
  decide

theorem inputArrival (inp : Input) : Statement (.inputArrival inp) := by
  show 0 < 2 ^ 31
  decide

theorem inputAdvance (g : CellId) (slot : Nat) : Statement (.inputAdvance g slot) := by
  show 0 < 2 ^ 31
  decide

theorem sortedEventAbsorb (inp : Input) : Statement (.sortedEventAbsorb inp) := by
  show 0 < 2 ^ 31
  decide

theorem allowanceReturn (g : CellId) (net : Net) : Statement (.allowanceReturn g net) := by
  show 0 < 2 ^ 31
  decide

theorem taskReturnArrival (ret : TaskReturn) : Statement (.taskReturnArrival ret) := by
  show 0 < 2 ^ 31
  decide

theorem firingChoice (g : CellId) (k : StrandId) : Statement (.firingChoice g k) := by
  show 0 < 2 ^ 31
  decide

theorem firingBind (g : CellId) (k : StrandId) : Statement (.firingBind g k) := by
  show 0 < 2 ^ 31
  decide

theorem strandFree (g : CellId) (k : StrandId) : Statement (.strandFree g k) := by
  show 0 < 2 ^ 31
  decide

theorem steppedOpAccept (op : SteppedOp) : Statement (.steppedOpAccept op) := by
  show 0 < 2 ^ 31
  decide

theorem foldGather (job : Nat) : Statement (.foldGather job) := by
  show 0 < 2 ^ 31
  decide

theorem foldApply (job : Nat) (hive : Nat) : Statement (.foldApply job hive) := by
  show 0 < 2 ^ 31
  decide

theorem reductionPartialArrival (job : Nat) (hive : Nat) (target : Nat) : Statement (.reductionPartialArrival job hive target) := by
  show 0 < 2 ^ 31
  decide

theorem applyDone (job : Nat) : Statement (.applyDone job) := by
  show 0 < 2 ^ 31
  decide

theorem install (job : Nat) (hive : Nat) : Statement (.install job hive) := by
  show 0 < 2 ^ 31
  decide

theorem replicaDigestTimeout (job : Nat) : Statement (.replicaDigestTimeout job) := by
  show 0 < 2 ^ 31
  decide

theorem installDone (job : Nat) : Statement (.installDone job) := by
  show 0 < 2 ^ 31
  decide

theorem release (job : Nat) : Statement (.release job) := by
  show 0 < 2 ^ 31
  decide

theorem sealStall (job : Nat) (hive : Nat) : Statement (.sealStall job hive) := by
  show 0 < 2 ^ 31
  decide

theorem pageStateCacheFill (hive : Nat) (comb : Nat) (page : Nat) : Statement (.pageStateCacheFill hive comb page) := by
  show 0 < 2 ^ 31
  decide

theorem sliceFill (job : Nat) (hive : Nat) (va : Nat) (victim : Option Nat) : Statement (.sliceFill job hive va victim) := by
  show 0 < 2 ^ 31
  decide

theorem bankWake (g : CellId) (bank : Fin 4) : Statement (.bankWake g bank) := by
  show 0 < 2 ^ 31
  decide

theorem bankDrowsy (g : CellId) (bank : Fin 4) : Statement (.bankDrowsy g bank) := by
  show 0 < 2 ^ 31
  decide

theorem bankZeroComplete (g : CellId) (bank : Fin 4) : Statement (.bankZeroComplete g bank) := by
  show 0 < 2 ^ 31
  decide

theorem tcmpwr (g : CellId) (v : Word) : Statement (.tcmpwr g v) := by
  show 0 < 2 ^ 31
  decide

theorem schedcfg (g : CellId) (v : Word) : Statement (.schedcfg g v) := by
  show 0 < 2 ^ 31
  decide

theorem engctr (g : CellId) (n : Fin 8) (v : Word) : Statement (.engctr g n v) := by
  show 0 < 2 ^ 31
  decide

theorem resume (g : CellId) (k : StrandId) (wrec : Option (Word × Word × Word × Word)) : Statement (.resume g k wrec) := by
  show 0 < 2 ^ 31
  decide

theorem deliver (g : CellId) (k : StrandId) (wrec : Option (Word × Word × Word × Word)) : Statement (.deliver g k wrec) := by
  show 0 < 2 ^ 31
  decide

theorem endfiring (g : CellId) (k : StrandId) (wrec : Option (Word × Word × Word × Word)) : Statement (.endfiring g k wrec) := by
  show 0 < 2 ^ 31
  decide

theorem debuggerRead (place : DebugPlace) : Statement (.debuggerRead place) := by
  show 0 < 2 ^ 31
  decide

theorem debuggerWrite (place : DebugPlace) (v : Word) : Statement (.debuggerWrite place v) := by
  show 0 < 2 ^ 31
  decide

theorem hrtail (hive : Nat) (tail : Nat) : Statement (.hrtail hive tail) := by
  show 0 < 2 ^ 31
  decide

theorem transferIn (hive : Nat) (d : List Word) (data : List Byte) : Statement (.transferIn hive d data) := by
  show 0 < 2 ^ 31
  decide

theorem transferOut (hive : Nat) (d : List Word) : Statement (.transferOut hive d) := by
  show 0 < 2 ^ 31
  decide

theorem transferComplete (hive : Nat) : Statement (.transferComplete hive) := by
  show 0 < 2 ^ 31
  decide

theorem hostMessage (hive : Nat) (d : List Word) : Statement (.hostMessage hive d) := by
  show 0 < 2 ^ 31
  decide

theorem hostMessageDelivery (hive : Nat) : Statement (.hostMessageDelivery hive) := by
  show 0 < 2 ^ 31
  decide

theorem jobLaunch (hive : Nat) (replicas : List LaunchPlan) : Statement (.jobLaunch hive replicas) := by
  show 0 < 2 ^ 31
  decide

theorem jobResume (hive : Nat) : Statement (.jobResume hive) := by
  show 0 < 2 ^ 31
  decide

theorem jobEnd (hive : Nat) : Statement (.jobEnd hive) := by
  show 0 < 2 ^ 31
  decide

theorem attest (hive : Nat) : Statement (.attest hive) := by
  show 0 < 2 ^ 31
  decide

theorem retry (hive : Nat) : Statement (.retry hive) := by
  show 0 < 2 ^ 31
  decide

theorem managementRegisterWrite (hive : Nat) (offset : Nat) (v : Word) : Statement (.managementRegisterWrite hive offset v) := by
  show 0 < 2 ^ 31
  decide

theorem stop (job : Nat) : Statement (.stop job) := by
  show 0 < 2 ^ 31
  decide

theorem spareBringIn (u : Faulty) : Statement (.spareBringIn u) := by
  show 0 < 2 ^ 31
  decide

theorem cellProbe (g : CellId) (answered : Bool) : Statement (.cellProbe g answered) := by
  show 0 < 2 ^ 31
  decide

theorem flitRetransmission (hive : Nat) (link : Nat) : Statement (.flitRetransmission hive link) := by
  show 0 < 2 ^ 31
  decide

theorem powerPeriodEnd (hive : Nat) (watts : Nat) : Statement (.powerPeriodEnd hive watts) := by
  show 0 < 2 ^ 31
  decide

theorem thermalSample (hive : Nat) (celsius : Nat) : Statement (.thermalSample hive celsius) := by
  show 0 < 2 ^ 31
  decide

theorem moduleReset (hive : Nat) : Statement (.moduleReset hive) := by
  show 0 < 2 ^ 31
  decide

theorem powerOn (hive : Nat) : Statement (.powerOn hive) := by
  show 0 < 2 ^ 31
  decide

theorem pufEvaluation (hive : Nat) (ok : Bool) : Statement (.pufEvaluation hive ok) := by
  show 0 < 2 ^ 31
  decide

theorem imageVerification (hive : Nat) (counterOk : Bool) (slotA slotB : Option Image) :
    Statement (.imageVerification hive counterOk slotA slotB) := by
  show 0 < 2 ^ 31
  decide

theorem repairMapApply (hive : Nat) (maps : BootMaps) : Statement (.repairMapApply hive maps) := by
  show 0 < 2 ^ 31
  decide

theorem memoryClear (hive : Nat) : Statement (.memoryClear hive) := by
  show 0 < 2 ^ 31
  decide

theorem linkTraining (hive : Nat) (ok : Bool) : Statement (.linkTraining hive ok) := by
  show 0 < 2 ^ 31
  decide

theorem firmwareStart (hive : Nat) : Statement (.firmwareStart hive) := by
  show 0 < 2 ^ 31
  decide

theorem powerRemoval (hive : Nat) : Statement (.powerRemoval hive) := by
  show 0 < 2 ^ 31
  decide

theorem perst : Statement .perst := by
  show 0 < 2 ^ 31
  decide

theorem hiveLost (hive : Nat) : Statement (.hiveLost hive) := by
  show 0 < 2 ^ 31
  decide

theorem recoveryWindowWrite (hive : Nat) (offset : Nat) (v : Byte) : Statement (.recoveryWindowWrite hive offset v) := by
  show 0 < 2 ^ 31
  decide

theorem nop : Statement (.nop) := by
  show 0 < 2 ^ 31
  decide

theorem ifence : Statement (.ifence) := by
  show 2 * 2 ^ 19 < 2 ^ 31
  decide

theorem done : Statement (.done) := by
  show 4 * 2 ^ 19 < 2 ^ 31
  decide

theorem doneNw : Statement (.doneNw) := by
  show 5 * 2 ^ 19 < 2 ^ 31
  decide

theorem rtt : Statement (.rtt) := by
  show 7 * 2 ^ 19 < 2 ^ 31
  decide

theorem fold : Statement (.fold) := by
  show 8 * 2 ^ 19 < 2 ^ 31
  decide

theorem unswarm : Statement (.unswarm) := by
  show 10 * 2 ^ 19 < 2 ^ 31
  decide

theorem evpop : Statement (.evpop) := by
  show opC 37 < 2 ^ 31
  decide

theorem sendm : Statement (.sendm) := by
  show opC 40 < 2 ^ 31
  decide

theorem sendmT : Statement (.sendmT) := by
  show opC 40 + 1 < 2 ^ 31
  decide

theorem clockStallEnd : Statement (.clockStallEnd) := by
  show 0 < 2 ^ 31
  decide

theorem thermalPowerDown : Statement (.thermalPowerDown) := by
  show 0 < 2 ^ 31
  decide

end Sys2Proof.Laws.Fits
end

