-- ==== Sys2Proof/Tests/Slice0.lean ====
section
/-! SUPPORT. The model's own tests: ill-formed terms that the checks refuse, words written from the encodings of the spec, the
spec's worked examples, and for every statement with hypotheses a state that meets them (`met_…`). -/

namespace Sys2Proof.Tests

open Sys2Proof Sys2Proof.Machine

/-! ### Small states -/

/-- A firing of slot 2 with a handler at 0x2000 and a ring of 4 entries at 0x4000. -/
def firing : Firing := { Firing.bare with fid := 5, slot := 2, trapEnt := 0x2000, defdl := 100, rate := 2, qbase := 0x4000, qlog := 2, pool := 0 }

/-- A strand of that firing that issues at 0x100, with these registers. -/
def strand (l : List (Nat × Word) := []) : Strand :=
  { Strand.reset with run := .issuing, pc := 0x100, wp := 0x60000, firing := some firing
                      ws := l.foldl (fun v x => v.setIfInBounds x.1 x.2) (Vector.replicate 64 0) }

/-- Cell 0 with that strand as strand 0. -/
def one (t : Strand) (c : Cell := Cell.reset) : State :=
  { State.reset with cells := [(0, { c with strands := c.strands.set 0 t })] }

/-- The state with these words of memory: physical address and doubleword. -/
def withWords (s : State) (l : List (Nat × Word)) : State := l.foldl (fun s x => s.write x.1 8 x.2.toNat) s

/-- A page that cell 0 of hive 0 holds; `d0` is its entry. -/
def page (base : Nat) (d0 : Word) (st : PageState := .live) : Page := ⟨base, false, true, [(0, d0)], st, .add, 0, 0, none, false⟩

/-- A page of the super, at the first bank of the first comb. -/
def virtPage (st : PageState := .live) : Page := page 0x100000 0 st

/-- The first page of a comb's scratchpad. -/
def scratchPage (st : PageState := .live) : Page := page scratchWindow 0 st

/-- A job of hive 0 on cell 0 with these pages. -/
def job (pages : List Page := []) : Job where
  number := 1
  asid := 1
  hives := [0]
  cells := [0]
  rcb := 0
  plans := []
  penb := 0x10000
  step := 3
  dchk := false
  phase := .open
  doneHives := []
  gather := none
  pages := pages
  pen := []
  redEntries := []
  partials := []
  faultedCells := []
  redSlots := []
  figures := ⟨0, 0, 0, 0, 0, 0, false⟩
  xamoResults := []
  xamList := []
  undo := []
  badPen := []
  differed := false
  group := 0
  replica := 0
  digests := []
  lateRoots := []
  appliedAt := 0
  stallSince := none
  stopped := false
  halted := none
  ended := false

/-- Cell 0 in job 1, its pages in the page-state cache, room in its allotment. -/
def inJob (t : Strand) (j : Job) (c : Cell := Cell.reset) : State :=
  { one t { c with job := some 1, penLeft := 0x1000, penAllot := 0x1000 } with
    jobs := [(1, j)], combs := [(0, { Comb.reset with cached := j.pages.map fun p => (1, p.base / 2 ^ 16) })] }

/-! ### Statements of the scalar core: their hypotheses are met -/

theorem met_IntegerResult : ∃ (i : Instr) (s : State) (r : WReg × Word × Option Bool), s.Quiet ∧ arRule s.me i = some r :=
  ⟨.sltz .int8 0 31 1, one (strand [(31, 255), (1, 0x100)]), _, by decide, rfl⟩

theorem met_ImmediateResult : ∃ (i : Instr) (s : State) (r : WReg × Word × Option Bool), s.Quiet ∧ immRule s.me i = some r :=
  ⟨.bext 31 1 64 63, one (strand [(1, 0x8000000000000000)]), _, by decide, rfl⟩

theorem met_DivisionIssues : ∃ (i : Instr) (s : State) (d : WReg) (la : Fin 16) (v : Word),
    s.Quiet ∧ divRule s.me i = some (d, la, v) :=
  ⟨.div .int8 1 2 3 15, one (strand [(2, 0x80), (3, 0xFF)]), _, _, _, by decide, rfl⟩

/-- A division that stands outstanding with its window closed, or with n instructions to go. -/
def division (left : Nat) (d : WReg := 4) (fl : Flags := 0) : LongOp :=
  ⟨7, 0xFC, .div .int64 d 2 3 0, d, false, left, 0, left, false, false, false, false, .value 99 fl, 0, 0, false, none⟩

theorem met_LongResultWritten : ∃ (s : State) (g : CellId) (k : StrandId) (o : LongOp) (v : Word) (fl : Flags),
    (s.strandAt g k).longs = [o] ∧ o.kind = .value v fl ∧ o.result = none ∧ o.left = 0 ∧ o.dropD = false ∧
    (s.strandAt g k).held = none ∧ fl &&& (s.strandAt g k).fenable = 0 :=
  ⟨one { strand with longs := [division 0 4 4] }, 0, 0, division 0 4 4, 99, 4, rfl, rfl, rfl, rfl, rfl, rfl, by decide⟩

theorem met_WindowInstruction : ∃ (i j l : Instr) (s : State) (o : LongOp) (r q x : WReg × Word × Option Bool) (fl : Flags), s.WindowOf o ∧
    arRule s.me i = some r ∧ o.dest = r.1 ∧ immRule s.me j = some q ∧ fpRule s.me l = some (x, fl) ∧ fl &&& s.me.fenable = 0 :=
  ⟨.slt .int8 4 1 2, .addi .int64 4 1 5, .fadd .fp32 .rne false 4 1 2, one { strand with longs := [division 1] }, division 1, _, _, _, 0,
    ⟨rfl, rfl, by decide, rfl, rfl, rfl⟩, rfl, rfl, rfl, rfl, by decide⟩

/-- A read of the destination, a write of it, and a read of CF. -/
theorem met_WindowOver : ∀ x ∈ ([(.add .int64 5 4 6, false), (.li 4 1, false), (.sel .int8 5 6 7, true)] : List (Instr × Bool)), ∃ (s : State) (o : LongOp),
    s.me.longs = [o] ∧ o.left = 0 ∧
    ((x.2 = false ∧ o.dest ≠ 0 ∧ o.dropD = false ∧ (o.dest.val ∈ x.1.reads ∨ o.dest.val ∈ x.1.writes)) ∨
      (x.2 = true ∧ o.destCf = true ∧ o.dropCf = false ∧ (cfReg ∈ x.1.reads ∨ cfReg ∈ x.1.writes))) := by
  intro x hx
  refine ⟨one { strand with longs := [{ division 0 with destCf := true }] }, { division 0 with destCf := true }, rfl, rfl, ?_⟩
  simp only [List.mem_cons, List.not_mem_nil, or_false] at hx
  obtain rfl | rfl | rfl := hx <;> decide

theorem met_FloatResult : ∃ (i : Instr) (s : State) (r : WReg × Word × Option Bool) (fl : Flags),
    s.Quiet ∧ fpRule s.me i = some (r, fl) ∧ fl &&& s.me.fenable = 0 :=
  ⟨.fma .bf16 .rne false 6 7 8, one (strand [(6, 0xBF80), (7, 0x3F88), (8, 0x3F88)]), _, _, by decide, rfl, by decide⟩

theorem met_FloatTraps : ∃ (i : Instr) (s : State) (r : WReg × Word × Option Bool) (fl : Flags),
    s.Quiet ∧ fpRule s.me i = some (r, fl) ∧ fl &&& s.me.fenable ≠ 0 ∧ s.me.swarm = none ∧ s.me.sv = false :=
  ⟨.fcmp .lt .fp32 1 2 3, one (strand [(2, 0x7FC00000), (52, 0x1F)]), _, _, by decide, rfl, by decide, rfl, rfl⟩

theorem met_FloatLongIssues : ∃ (i : Instr) (s : State) (d : WReg) (la : Fin 16) (r : Nat × Flags),
    s.Quiet ∧ fpLongRule s.me i = some (d, la, r) :=
  ⟨.fsqrt false .rne false 1 2 15, one (strand [(2, 0x40800000)]), _, _, _, by decide, rfl⟩

theorem met_UnflaggedIsExact : roundTo .fp32 .rne false true 3 0 false = (0xC0400000, 0) := by decide

theorem met_LoadIssues : ∃ (i : Instr) (s : State) (r : AccessRow) (pl : Place), s.Quiet ∧ loadRule s.me i = some r ∧
    s.misses s.curCell r.addr = false ∧ s.zeroHeld s.curCell r.addr r.size = false ∧
    s.check s.curCell s.me.sv (s.instrWord i) r.addr r.size 0 = .ok pl :=
  ⟨.ld .int64 false 4 2 0x3F 2, one (strand [(2, 0x1008)]), _, _, by decide, rfl, by decide, by decide, rfl⟩

/-- A load of the own TCM that is to be performed. -/
def loading (addr : Nat) : LongOp :=
  ⟨7, 0xFC, .ld .uint8 false 4 2 0 0, 4, false, 0, 0, 0, false, false, false, false, .load .uint8 addr, 0, 0, false, none⟩

/-- Slices that hold nothing have room. -/
theorem roomInSlices (s : State) (h : s.hives = []) : s.RoomInSlices := by
  intro n st
  have e : s.hiveAt n = Hive.reset := by simp [State.hiveAt, h, look]
  rw [e]
  simp [Hive.setFull, Hive.eventWays, Hive.linesIn, Hive.reset]

theorem served_tcm {s : State} {g d : CellId} {addr off n : Nat} (h : s.place g addr = .tcm d off)
    (w : s.memoryWaits g addr = false ∧ s.meetsFence g addr = false ∧ s.rangeMarked (tcmBase d + off) n = false) : s.Served g addr n := by
  rw [State.Served, State.homeAt, h]; exact w

theorem served_z {s : State} {g : CellId} {addr off n : Nat} (h : s.place g addr = .z off)
    (w : s.memoryWaits g addr = false ∧ s.meetsFence g addr = false ∧ s.rangeMarked (zAddr g 0 + off) n = false) : s.Served g addr n := by
  rw [State.Served, State.homeAt, h]; exact w

theorem served_scratch {s : State} {g : CellId} {addr c off n : Nat} {p : Page} (h : s.place g addr = .scratch c off p)
    (w : s.memoryWaits g addr = false ∧ s.meetsFence g addr = false ∧ s.rangeMarked (scratchAddr c off) n = false ∧ p.state ≠ .shadowed) :
    s.Served g addr n := by
  rw [State.Served, State.homeAt, h]; exact w

theorem served_virt {s : State} {g : CellId} {addr va loc n : Nat} {p : Page} (h : s.place g addr = .virt va loc p)
    (w : s.memoryWaits g addr = false ∧ s.meetsFence g addr = false ∧ s.marks = [] ∧ p.state ≠ .shadowed ∧ loc % 32 + n ≤ 32)
    (e : s.hives = []) : s.Served g addr n := by
  have r : s.hiveAt (hiveOfPhys loc) = Hive.reset := by simp [State.hiveAt, e, look]
  rw [State.Served, h]
  refine ⟨w.1, w.2.1, w.2.2.1, w.2.2.2.1, w.2.2.2.2, roomInSlices s e, ?_, ?_⟩ <;> simp [r, Hive.reset]

/-- Cell 0 with that instruction outstanding, in a job with a page of the super and one of a scratchpad, and cell 1. -/
def serving (o : LongOp) : State :=
  { inJob { strand with longs := [o] } (job [virtPage, scratchPage]) with
    cells := (0, (inJob { strand with longs := [o] } (job [])).cellAt 0) :: [(1, { Cell.reset with job := some 1 })], now := 200 }

set_option maxRecDepth 10000 in
/-- The last byte of the own TCM below the slot table and of the same range of cell 1, of the Z window, of the scratchpad's page and of
the page of the super. -/
theorem met_LoadReads : ∀ addr ∈ [0x7EFFF, 0x7F0000000017EFFF, 0x9FFFF, 0x7E0000000000FFFF, 0x10FFFF], ∃ (s : State) (o : LongOp),
    (s.strandAt 0 0).longs = [o] ∧ o.kind = .load .uint8 addr ∧ o.result = none ∧ o.left = 0 ∧ o.dropD = false ∧ o.dest ≠ 0 ∧
    (s.strandAt 0 0).held = none ∧ (s.cellAt 0).stores = [] ∧ s.Served 0 addr (widthBytes .uint8) := by
  intro addr h
  refine ⟨serving (loading addr), loading addr, rfl, rfl, rfl, rfl, rfl, (by decide : (4 : WReg) ≠ 0), rfl, rfl, ?_⟩
  simp only [List.mem_cons, List.not_mem_nil, or_false] at h
  obtain rfl | rfl | rfl | rfl | rfl := h
  · exact served_tcm (d := 0) (off := 0x7EFFF) (by decide) (by decide)
  · exact served_tcm (d := 1) (off := 0x7EFFF) (by decide) (by decide)
  · exact served_z (off := 0x1FFFF) (by decide) (by decide)
  · exact served_scratch (c := 0) (off := 0xFFFF) (p := scratchPage) (by decide) (by decide)
  · exact served_virt (va := 0x10FFFF) (loc := virtPage.addr 0 0x10FFFF) (p := virtPage) (by decide) (by decide) rfl

/-- One address of every range, at its ends. -/
theorem met_ChecksInOrder : (0x7FFFF : Nat) < 0x80000 ∧ (0x80000 : Nat) ≤ 0x9FFFF ∧ (0x9FFFF : Nat) < 0xA0000 ∧ (0xA0000 : Nat) ≤ 0xFFFFF ∧ (0xFFFFF : Nat) < 2 ^ 20 ∧
    (2 ^ 20 ≤ 0x10FFFF ∧ 0x10FFFF < 2 ^ 57 ∧ ∃ p, (job [virtPage]).page 0 0x10FFFF = some p ∧ p.mapped = true ∧ (p.homes.any fun h => h.1 == 0) = true) ∧
    (∃ p, (job [{ virtPage with homes := [(1, 0)] }]).page 0 0x100000 = some p ∧ p.mapped = true ∧ (p.homes.any fun h => h.1 == 0) = false) ∧
    (job [virtPage]).page 0 (2 ^ 57 - 1) = none ∧
    (∃ p, (job [{ virtPage with mapped := false }]).page 0 0x100000 = some p ∧ p.mapped = false) ∧
    (∃ p, (job [scratchPage]).page 0 (scratchWindow + 0 * 2 ^ 23 + 0xFFFF) = some p ∧ State.reset.combExists 0 0 = true) ∧
    (job [scratchPage]).page 0 (scratchWindow + 255 * 2 ^ 23 + 8388607) = none ∧
    State.reset.cellExists (0 * 4096 + 0) = true ∧ ({ State.reset with combsPerDie := 14 } : State).cellExists (0 * 4096 + 4095) = false ∧
    (2 ^ 57 ≤ tcmWindow + 2 ^ 32 ∧ ¬ inWindow (tcmWindow + 2 ^ 32)) :=
  ⟨by decide, by decide, by decide, by decide, by decide, ⟨by decide, by decide, virtPage, by decide⟩,
    ⟨{ virtPage with homes := [(1, 0)] }, by decide⟩, by decide, ⟨{ virtPage with mapped := false }, by decide⟩,
    ⟨scratchPage, by decide⟩, by decide, by decide, by decide, by unfold inWindow; decide⟩

theorem met_StoreToTcm : ∃ (i : Instr) (s : State) (addr size : Nat) (v : Word) (off : Nat), s.Quiet ∧
    storeRule s.me i = some (addr, size, v) ∧ (isRelease i = true → s.NoStores) ∧ s.misses s.curCell addr = false ∧
    s.zeroHeld s.curCell addr size = false ∧ s.check s.curCell s.me.sv (s.instrWord i) addr size 1 = .ok (.tcm s.curCell off) ∧ Memory.wf s.mem = true :=
  ⟨.st .int64 true 3 2 (-1), one (strand [(2, 0x1008), (3, 0x1122334455667788)]), _, _, _, _, by decide, rfl,
    fun _ => by intro p hp; exact absurd hp (List.not_mem_nil), by decide, by decide, rfl, by decide⟩

theorem met_MisalignedFirst : (0x1004 : Nat) % 8 ≠ 0 := by decide
theorem met_StoreElsewhereWaits : ∃ (i : Instr) (s : State) (addr size : Nat) (v : Word) (pl : Place), s.Quiet ∧
    storeRule s.me i = some (addr, size, v) ∧ (isRelease i = true → s.NoStores) ∧ s.misses s.curCell addr = false ∧
    s.zeroHeld s.curCell addr size = false ∧ s.check s.curCell s.me.sv (s.instrWord i) addr size 1 = .ok pl ∧ ∀ off, pl ≠ .tcm s.curCell off :=
  ⟨.stx .int64 false 3 2 1, inJob (strand [(2, 0x100000), (3, 5), (1, 1)]) (job [virtPage]), _, _, _, _, by decide, rfl,
    (fun h => absurd h (by decide)), by decide, by decide, rfl, by intro off h; cases h⟩

theorem met_AtomicIssues_amo : ∃ (op : Aop) (ord : Bool) (d a b : WReg) (la : Fin 16) (s : State) (pl : Place), s.Quiet ∧
    (ord = true → s.NoStores) ∧ s.misses s.curCell (s.w a).toNat = false ∧ s.zeroHeld s.curCell (s.w a).toNat 8 = false ∧
    s.check s.curCell s.me.sv (s.instrWord (.amo op ord d a b la)) (s.w a).toNat 8 2 = .ok pl ∧
    amoCheck op (s.w a).toNat pl = .ok () :=
  ⟨.fn 7, true, 1, 2, 3, 15, inJob (strand [(2, 0x7E00000000000008)]) (job [scratchPage]), _, by decide,
    (fun _ p hp => absurd hp (List.not_mem_nil)), by decide, by decide, rfl, by decide⟩

theorem met_AtomicIssues_fe : ∃ (i : Instr) (s : State) (r : AccessRow) (pl : Place), s.Quiet ∧ feRule s.me i = some r ∧
    s.misses s.curCell r.addr = false ∧ s.check s.curCell s.me.sv (s.instrWord i) r.addr 8 0 = .ok pl ∧
    feCheck s.curCell r.addr 0 pl = .ok () :=
  ⟨.feq true 1 2 1 0, inJob (strand [(2, 0x7E00000000000008)]) (job [scratchPage]), _, _, by decide, rfl, by decide, rfl, by decide⟩

/-- An atomic on the own TCM that is to be performed. -/
def atomic (op : Aop) (addr : Nat) (x cmp : Word) : LongOp :=
  ⟨7, 0xFC, .amo op false 4 2 3 0, 4, op == .cas, 0, 0, 0, false, false, false, false, .amo op addr x cmp, 0, 0, false, none⟩

set_option maxRecDepth 10000 in
/-- The last doubleword below the slot table, of the scratchpad's page and of the page of the super. -/
theorem met_AtomicPerforms : ∀ addr ∈ [0x7EFF8, 0x7E0000000000FFF8, 0x10FFF8], ∃ (s : State) (o : LongOp),
    (s.strandAt 0 0).longs = [o] ∧ o.kind = .amo .cas addr 9 0 ∧ o.result = none ∧ o.left = 0 ∧ o.dropD = false ∧
    o.dropCf = false ∧ o.dest ≠ 0 ∧ (s.strandAt 0 0).held = none ∧ (s.cellAt 0).stores = [] ∧ Aop.cas.isFn = false ∧ s.Served 0 addr 8 ∧
    (∀ off, s.place 0 addr ≠ .z off) ∧ (∀ d off, s.place 0 addr = .tcm d off → off + 8 ≤ 0x7F000) ∧ Memory.wf s.mem = true := by
  intro addr h
  refine ⟨serving (atomic .cas addr 9 0), atomic .cas addr 9 0, rfl, rfl, rfl, rfl, rfl, rfl, (by decide : (4 : WReg) ≠ 0), rfl, rfl, rfl,
    ?_, ?_, ?_, rfl⟩
  all_goals
    simp only [List.mem_cons, List.not_mem_nil, or_false] at h
    obtain rfl | rfl | rfl := h
  · exact served_tcm (d := 0) (off := 0x7EFF8) (by decide) (by decide)
  · exact served_scratch (c := 0) (off := 0xFFF8) (p := scratchPage) (by decide) (by decide)
  · exact served_virt (va := 0x10FFF8) (loc := virtPage.addr 0 0x10FFF8) (p := virtPage) (by decide) (by decide) rfl
  · intro off e; exact absurd (e.symm.trans (by decide : _ = Place.tcm 0 0x7EFF8)) (by simp)
  · intro off e; exact absurd (e.symm.trans (by decide : _ = Place.scratch 0 0xFFF8 scratchPage)) (by simp)
  · intro off e; exact absurd (e.symm.trans (by decide : _ = Place.virt 0x10FFF8 (virtPage.addr 0 0x10FFF8) virtPage)) (by simp)
  · intro d off e
    have h := e.symm.trans (by decide : _ = Place.tcm 0 0x7EFF8)
    simp only [Place.tcm.injEq] at h
    omega
  · intro d off e; exact absurd (e.symm.trans (by decide : _ = Place.scratch 0 0xFFF8 scratchPage)) (by simp)
  · intro d off e; exact absurd (e.symm.trans (by decide : _ = Place.virt 0x10FFF8 (virtPage.addr 0 0x10FFF8) virtPage)) (by simp)

set_option maxRecDepth 10000 in
/-- A load of the slot table in user mode, an atomic with a function slot on TCM, a full/empty read of TCM, one of the slot table, and a
store-full of a page that another cell holds. -/
theorem met_ChecksTrap : ∃ (i j : Instr) (s u : State) (e f h e' h' : Trap) (pl pl' pl'' : Place) (r r' : AccessRow), s.Quiet ∧ s.NoStores ∧
    accessRule s.me i = some (0x7FFF8, 8, 0) ∧ s.misses s.curCell 0x7FFF8 = false ∧ s.zeroHeld s.curCell 0x7FFF8 8 = false ∧
    s.check s.curCell s.me.sv (s.instrWord i) 0x7FFF8 8 0 = .error e ∧
    s.misses s.curCell (s.w 2).toNat = false ∧ s.zeroHeld s.curCell (s.w 2).toNat 8 = false ∧
    s.check s.curCell s.me.sv (s.instrWord (.amo (.fn 7) true 3 2 4 0)) (s.w 2).toNat 8 2 = .ok pl ∧
    amoCheck (.fn 7) (s.w 2).toNat pl = .error f ∧
    feRule s.me (.ldfe false 3 2 0 0) = some r ∧ s.misses s.curCell r.addr = false ∧
    s.check s.curCell s.me.sv (s.instrWord (.ldfe false 3 2 0 0)) r.addr 8 0 = .ok pl' ∧ feCheck s.curCell r.addr 0 pl' = .error h ∧
    feRule s.me j = some r' ∧ s.misses s.curCell r'.addr = false ∧ s.check s.curCell s.me.sv (s.instrWord j) r'.addr 8 0 = .error e' ∧
    u.Quiet ∧ u.NoStores ∧ offsetAddr (u.w 2) (511 : BitVec 10) 8 = 0x7E00000000000FF8 ∧ u.misses u.curCell 0x7E00000000000FF8 = false ∧
    u.check u.curCell u.me.sv (u.instrWord (.stfe true 3 2 511)) 0x7E00000000000FF8 8 0 = .ok pl'' ∧
    feCheck u.curCell 0x7E00000000000FF8 1 pl'' = .error h' :=
  ⟨.ld .int64 false 4 1 0 0, .ldfe false 3 1 0 0, one (strand [(1, 0x7FFF8), (2, 0x1000)]),
    inJob (strand [(2, 0x7E00000000000000)]) (job [{ scratchPage with holder := 5 }]), _, _, _, _, _, _, _, _, _, _, by decide,
    fun p hp => absurd hp (List.not_mem_nil), by decide, by decide, by decide, rfl, by decide, by decide, rfl, rfl, rfl, by decide, rfl,
    rfl, rfl, by decide, rfl, by decide, fun p hp => absurd hp (List.not_mem_nil), by decide, by decide, rfl, rfl⟩

theorem met_FunctionSlots : (one (strand [(1, 0)])).Quiet ∧ fnBad ((one (strand [(1, 0)])).w 1) = false ∧
    fnBad ((one (strand [(1, 0x8000000000000000)])).w 1) = true := by decide

/-- STFE at the first word of the scratchpad. -/
def filling : State := inJob (strand [(2, 0x7E00000000000000), (3, 0x1122334455667788)]) (job [scratchPage])

set_option maxRecDepth 10000 in
theorem met_StoreFills : ∃ (a : WReg) (off : BitVec 10) (s : State) (n o : Nat) (p : Page), s.Quiet ∧ s.NoStores ∧
    s.misses s.curCell (offsetAddr (s.w a) off 8) = false ∧ offsetAddr (s.w a) off 8 % 8 = 0 ∧
    s.place s.curCell (offsetAddr (s.w a) off 8) = .scratch n o p ∧
    feCheck s.curCell (offsetAddr (s.w a) off 8) 1 (.scratch n o p) = .ok () ∧
    s.fullAt n o = false ∧ (s.combAt n).waiters = [] ∧ p.state = .live ∧ Memory.wf s.mem = true :=
  ⟨2, 511, filling, 0, 0xFF8, scratchPage, by decide, fun p hp => absurd hp (List.not_mem_nil), by decide, by decide,
    by decide, by decide, by decide, rfl, rfl, by decide⟩

/-- A full/empty read of a full word that has not reached its bank. -/
def feRead (op : Fin 3) : LongOp :=
  ⟨7, 0xFC, .ldfe false 4 2 0 0, 4, op == 2, 0, 0, 0, false, false, false, false, .fe op 0x7E00000000000008, 0, 0, false, none⟩

def feState (op : Fin 3) (full : Bool) : State :=
  { inJob { strand with longs := [feRead op] } (job [scratchPage]) with full := if full then [(2 ^ 40 + 8) / 8] else [] }

theorem met_FullEmptyReads (op : Fin 3) : ∃ (s : State) (g : CellId) (k : StrandId) (o : LongOp) (addr n off : Nat) (p : Page),
    (s.strandAt g k).longs = [o] ∧ o.kind = .fe op addr ∧ o.result = none ∧ o.left = 0 ∧ o.dropD = false ∧
    o.dropCf = false ∧ o.atBank = false ∧ o.dest ≠ 0 ∧ (s.strandAt g k).held = none ∧ (s.cellAt g).stores = [] ∧
    s.place g addr = .scratch n off p ∧ p.state = .live ∧ (op ≠ 2 → s.fullAt n off = true) ∧
    (s.combAt n).waiters = [] ∧ s.rangeMarked (scratchAddr n off) 8 = false :=
  ⟨feState op true, 0, 0, feRead op, 0x7E00000000000008, 0, 8, scratchPage, rfl, rfl, rfl, rfl, rfl, rfl, rfl,
    (by decide : (4 : WReg) ≠ 0), rfl, rfl, rfl, rfl, fun _ => rfl, rfl, rfl⟩

theorem met_BranchGoes : ∃ (i : Instr) (s : State) (target : Nat), s.Quiet ∧
    branchRule s.fetcher s.me.pc i = some (true, target) ∧ target < 0x7F000 :=
  ⟨.bltz 1 (-32), one (strand [(1, 0x8000000000000000)]), 0, by decide, by decide, by decide⟩

theorem met_JumpGoes : ∃ (i : Instr) (s : State) (d : WReg) (v : Word), s.Quiet ∧
    jumpRule s.fetcher s.me.pc i = some (d, v) ∧ v.toNat % 8 = 0 ∧ v.toNat < 0x7F000 :=
  ⟨.jlr 1 1, one (strand [(1, 0x7EFF8)]), _, _, by decide, rfl, by decide, by decide⟩

theorem met_BadTargets_misaligned : ∃ (i : Instr) (s : State) (d : WReg) (v : Word), s.Quiet ∧
    jumpRule s.fetcher s.me.pc i = some (d, v) ∧ v.toNat % 8 ≠ 0 :=
  ⟨.jr 1, one (strand [(1, 0x7F004)]), _, _, by decide, rfl, by decide⟩

theorem met_BadTargets_jump : ∃ (i : Instr) (s : State) (d : WReg) (v : Word), s.Quiet ∧
    jumpRule s.fetcher s.me.pc i = some (d, v) ∧ v.toNat % 8 = 0 ∧ 0x7F000 ≤ v.toNat :=
  ⟨.jr 1, one (strand [(1, 0x7F000)]), _, _, by decide, rfl, by decide, by decide⟩

theorem met_BadTargets_branch : ∃ (i : Instr) (s : State) (target : Nat), s.Quiet ∧
    branchRule s.fetcher s.me.pc i = some (true, target) ∧ 0x7F000 ≤ target :=
  ⟨.bncf (-33), one strand, 0x7FFF8, by decide, by decide, by decide⟩

theorem met_PlainRegisters : ∃ (i : Instr) (s : State) (ws : Vector Word 64), s.Quiet ∧ plainRule s.me i = some ws :=
  ⟨.setvl 1 1, one (strand [(1, 524289)]), _, by decide, rfl⟩

set_option maxRecDepth 10000 in
theorem met_SystemRegisterReads : (one strand).Quiet ∧ ((0x033#12).toNat, (61 : Fin 64)) ∈ workspaceRegs ∧
    ((0x001#12).toNat, (0x60000 : Word)) ∈ (one strand).otherRegs ∧ ((0x048#12).toNat, (0 : Word)) ∈ (one strand).otherRegs ∧
    (0x048#12).toNat ∈ listedRegs ∧ (0x049#12).toNat ∉ listedRegs := by decide

theorem met_SystemRegisterWrites : ∃ (s : State) (a : WReg), s.Quiet ∧ s.me.sv = true ∧
    (0x030 ∈ listedRegs ∧ mtsRule s.me 0x030 (s.w a) ≠ none) ∧ 0x041 ∈ listedRegs ∧
    (0x048 ∈ listedRegs ∧ 0x048 ∉ [0x001, 0x041] ∧ mtsRule s.me 0x048 (s.w a) = none) :=
  ⟨one (strand [(50, 2), (1, 7)]), 1, by decide⟩

theorem met_PrivilegeTraps : (one strand).Quiet ∧ (one strand).me.sv = false ∧ (0x001#12).toNat ∈ listedRegs ∧
    (0x001#12).toNat ∉ [0x000, 0x010, 0x011] := by decide

theorem met_WorkspaceRebinds : ∃ (a : WReg) (s : State), s.Quiet ∧ s.me.sv = true ∧
    s.wpOk ((s.w a).toNat / 512 % 1024 * 512) = true ∧ s.marks = [] :=
  ⟨1, one (strand [(50, 2), (1, 0x60200)]), by decide⟩

theorem met_FencesPass : ∃ s : State, s.Quiet ∧ s.NoStores ∧ s.computeBusy = false ∧ s.steppedBusy = false :=
  ⟨one strand, by decide, fun p hp => absurd hp (List.not_mem_nil), by decide, by decide⟩

/-- An entry of strand 0's firing in the queue of an engine. -/
def entryOf (i : Instr) : EngEntry := ⟨7, 0, 5, 2, 0, 0, 0xFC, i, [1, 0], [], 0, 0, false, none, 0, 0, false, false, 0, none⟩

/-- A store of the firing that is not acknowledged. -/
def waitingStore : PStore := ⟨3, 0, 5, .store 0x100000 8 1⟩

theorem met_FenceWaits : ∃ s u v w : State, (∃ o ∈ s.me.longs, o.unperformed = true) ∧
    (∃ p ∈ u.cell.stores, p.fid = u.me.fid ∧ ∃ a n v, p.kind = .store a n v) ∧
    (∃ e ∈ v.cell.vuQ ++ v.cell.sceQ ++ v.cell.sduQ, e.fid = v.me.fid) ∧
    (∃ p ∈ u.cell.stores, p.fid = u.me.fid ∨ p.strand = u.curStrand) ∧ w.steppedBusy = true :=
  ⟨one { strand with longs := [loading 0] }, one strand { Cell.reset with stores := [waitingStore] },
    one strand { Cell.reset with sduQ := [entryOf (.sdflush 1)] },
    { one strand with pending := [.steppedOpAccept ((one strand).newStepped .xam 0 0 0 0)] },
    ⟨_, List.mem_singleton_self _, by decide⟩, ⟨_, List.mem_singleton_self _, rfl, _, _, _, rfl⟩,
    ⟨entryOf (.sdflush 1), by decide, by decide⟩,
    ⟨_, List.mem_singleton_self _, by decide⟩, by decide⟩

theorem met_SliceOperations : ∃ (a b c d e f : WReg) (s : State), s.Quiet ∧ 2 ^ 20 ≤ (s.w a).toNat ∧ (s.w a).toNat < 2 ^ 57 ∧
    (s.w b).toNat < 2 ^ 20 ∧ inWindow (s.w c).toNat ∧ inWindow (s.w d).toNat ∧
    (2 ^ 57 ≤ (s.w e).toNat ∧ ¬ inWindow (s.w e).toNat) ∧ 2 ^ 57 ≤ (s.w f).toNat ∧ ¬ inWindow (s.w f).toNat :=
  ⟨1, 2, 3, 4, 5, 6, one (strand [(1, 0x100000), (2, 0xFFFFF), (3, 0x7E00000000000000), (4, 0x7F000000FFFFFFFF),
    (5, 0x0200000000000000), (6, 0x7F00000100000000)]), by unfold inWindow; decide⟩

theorem met_TrapEntry : ∃ (s : State) (tr : Trap) (ent : Nat), s.EntersHandler ent ∧ tr.cause ≠ .fpException ∧
    tr.cause ≠ .watchdog :=
  ⟨one strand, ⟨.access, 1, 0, 0, 0, 0⟩, 0x2000, ⟨⟨firing, by decide, rfl⟩, by decide, by decide, by decide⟩, by decide, by decide⟩

theorem met_TrapInstruction : ∃ (s : State) (ent : Nat), s.Quiet ∧ s.EntersHandler ent :=
  ⟨one strand, 0x2000, by decide, ⟨firing, by decide, rfl⟩, by decide, by decide, by decide⟩

theorem met_Escalation_handler : ∃ (s : State) (tr : Trap), s.me.swarm = none ∧ tr.cause ≠ .fpException ∧
    tr.cause ≠ .watchdog ∧ s.me.sv = true :=
  ⟨one (strand [(50, 2)]), ⟨.software, 1, 0, 0, 0, 0⟩, by decide⟩

theorem met_Escalation_none : ∃ (s : State) (f : Firing), s.me.swarm = none ∧ s.me.firing = some f ∧ f.trapEnt = 0 :=
  ⟨one { strand with firing := some { firing with trapEnt := 0 } }, { firing with trapEnt := 0 }, by decide⟩

theorem met_ReturnFromTrap : ∃ s : State, s.me.sv = true ∧ s.me.inWdog = false ∧ (s.me.dw 58).getLsbD 12 = true ∧
    s.me.longs = [] :=
  ⟨one (strand [(50, 2), (58, 0x120E), (59, 0x100)]), by decide⟩

/-- A swarm of two: leader in cell 0, follower strand 3 of cell 1. -/
def swarmInfo : SwarmInfo := ⟨0, 0, [(0, 0), (1, 3)], .n2⟩
def leader : Strand := { strand [(50, 0xC0)] with swarm := some swarmInfo }
def follower : Strand := { strand [(50, 0x440)] with swarm := some swarmInfo, firing := none, wp := 0x60200 }
def swarmOf (lead foll : Strand) (cur : CellId) (k : StrandId) : State :=
  { one lead with
    cells := [(0, { Cell.reset with strands := Cell.reset.strands.set 0 lead, poolUsed := [0] }),
              (1, { Cell.reset with strands := Cell.reset.strands.set 3 foll, poolUsed := [1] })]
    curCell := cur, curStrand := k }

theorem met_SwarmBreaks : ∃ (s : State) (w : SwarmInfo) (f : Firing) (tr : Trap), s.me.swarm = some w ∧ s.me.swm = true ∧
    (w.leaderCell, w.leaderStrand) ∈ w.members ∧ (s.strandAt w.leaderCell w.leaderStrand).firing = some f ∧
    f.trapEnt ≠ 0 ∧ (s.strandAt w.leaderCell w.leaderStrand).sv = false ∧ tr.eng < 8 ∧
    w.members = [(w.leaderCell, w.leaderStrand), (1, 3)] ∧ (1, 3) ≠ (w.leaderCell, w.leaderStrand) ∧ Memory.wf s.mem = true :=
  ⟨swarmOf leader follower 1 3, swarmInfo, firing, ⟨.access, 1, 0, 0, 0, 7⟩, by decide⟩

/-- A function slot that adds bytes, saturating, sets F and returns the new value. -/
def slotWord : Word := BitVec.ofNat 64 (2 ^ 9 + 2 ^ 7 + 2 ^ 6 + 8)

/-- Slot 7 of the comb holds that word; strand 0 has an atomic of it outstanding on the second word of the scratchpad. -/
def applying7 : State :=
  let s := inJob { strand with longs := [atomic (.fn 7) 0x7E00000000000008 0x0101010101010101 0] } (job [scratchPage])
  s.setComb 0 { s.combAt 0 with fns := (s.combAt 0).fns.set 7 slotWord }

set_option maxRecDepth 10000 in
theorem met_FunctionsApplied_result : ∃ (s : State) (o : LongOp) (p : Page), (s.strandAt 0 0).longs = [o] ∧
    o.kind = .amo (.fn 7) 0x7E00000000000008 0x0101010101010101 0 ∧ o.result = none ∧ o.left = 0 ∧ o.dropD = false ∧ o.dest ≠ 0 ∧
    (s.strandAt 0 0).held = none ∧ (s.cellAt 0).stores = [] ∧ s.place 0 0x7E00000000000008 = .scratch 0 8 p ∧ p.state = .live ∧
    s.rangeMarked (scratchAddr 0 8) 8 = false ∧ (s.combAt 0).waiters = [] ∧ fnBad ((s.combAt 0).fns[7]) = false ∧
    Memory.wf s.mem = true :=
  ⟨applying7, atomic (.fn 7) 0x7E00000000000008 0x0101010101010101 0, scratchPage, rfl, rfl, rfl, rfl, rfl, by decide, rfl, rfl,
    by decide, rfl, by decide, rfl, by decide, by decide⟩

/-- Below bank W nothing of a cell is closed whose banks are on and whose workspaces lie above. -/
theorem tcmOpen_of {s : State} {g : CellId} (hm : s.marks = [] := by decide +kernel)
    (hb : (s.cellAt g).banks = Vector.replicate 4 ⟨.on, 0⟩ := by decide +kernel)
    (hs : ∀ t ∈ (s.cellAt g).strands.toList, t.bound = false ∨ 0x60000 ≤ t.wp := by decide +kernel) : s.TcmOpen g := by
  refine ⟨hm, fun a n h => ?_⟩
  have h1 : (s.cellAt g).meetsBound a n = false := by
    rw [Cell.meetsBound, List.any_eq_false]
    intro t ht
    obtain hf | hw := hs t ht
    · simp [Strand.overlaps, hf]
    · simp only [Strand.overlaps, Bool.and_eq_true, decide_eq_true_eq]
      omega
  have h2 : (s.cellAt g).meetsGated a n = false := by simp [Cell.meetsGated, hb]
  rw [Cell.closed, h1, h2]
  rfl

/-! ### Firings, swarms, events and tasks -/

/-- Words of slot 2's descriptor in cell 0: valid, kind `kd`, priority 1, entry 0x300, RATE 2, ring of 4 entries at 0x4000. -/
def slot2 (kd : Nat) (head tail : Nat) : List (Nat × Word) :=
  [(0x7F080, BitVec.ofNat 64 (2 ^ 63 + 3 * 2 ^ 61 + 2 ^ 59 + kd * 2 ^ 57 + 0x2000 * 2 ^ 19 + 0x300)),
   (0x7F088, BitVec.ofNat 64 (2 * 2 ^ 48 + 100 * 2 ^ 32 + 0x11)), (0x7F090, BitVec.ofNat 64 (2 * 2 ^ 20 + 0x4000)),
   (0x7F098, BitVec.ofNat 64 (tail * 2 ^ 32 + head))]

/-- The firing of slot 2 with its number, in a job with its ring. -/
def firingState (l : List (Nat × Word) := []) (c : Cell := Cell.reset) : State :=
  withWords (inJob (Tests.strand ((55, 8) :: l)) (job []) c) (slot2 0 1 3 ++
    [(0x4020, 11), (0x4028, 12), (0x4030, 13), (0x4038, 14)] ++ [(0x4040, 21), (0x4048, 22), (0x4050, 23), (0x4058, 24)])

/-- With the firing's head at position 1 and one input taken. -/
def popping : State := (firingState).setMe { (firingState).me with firing := some { firing with head := 1, taken := 1 } }

set_option maxRecDepth 10000 in
theorem met_FiringEnds : ∃ (s : State) (f : Firing), s.OrdinaryFiring f ∧ s.me.swarm = none ∧ s.WsBelowTable ∧
    Memory.wf s.mem = true ∧ s.drained = true :=
  ⟨popping, { firing with head := 1, taken := 1 }, ⟨by decide, by decide, by decide⟩, by decide, by unfold State.WsBelowTable; decide, by decide, by decide⟩

theorem met_FiringEnds_waits : ∃ (s : State) (f : Firing), s.OrdinaryFiring f ∧ s.me.swarm = none ∧ s.WsBelowTable ∧
    Memory.wf s.mem = true ∧ s.drained = false :=
  ⟨one { Tests.strand with longs := [division 0] }, firing, ⟨by decide, by decide, by decide⟩, by decide,
    by unfold State.WsBelowTable; decide, by decide, by decide⟩

theorem met_FoldWaits : ∃ (s u : State) (n : Nat), s.cell.job = some n ∧ s.drained = true ∧ u.cell.job = some n ∧ u.drained = false :=
  ⟨inJob Tests.strand (job), inJob { Tests.strand with longs := [division 1] } (job), 1, by decide⟩

theorem met_YieldGoesOn : ∃ (n : BitVec 12) (s : State) (f : Firing), s.Quiet ∧ s.engineBusy = false ∧ s.me.firing = some f ∧
    s.me.inWdog = false ∧ (s.setMe (s.me.reload n)).switches = false :=
  ⟨0, one Tests.strand, firing, by decide⟩

/-- A switched-out firing of slot 3 waits. -/
def rival : Cell := { Cell.reset with switched := [⟨{ firing with slot := 3, fid := 9, pool := 1 }, 0x60200, 0⟩] }

set_option maxRecDepth 10000 in
theorem met_YieldSwitches : ∃ (n : BitVec 12) (s : State) (f : Firing), s.Quiet ∧ s.engineBusy = false ∧ s.me.firing = some f ∧
    s.me.sv = false ∧ s.me.swm = false ∧ (s.setMe (s.me.reload n)).switches = true ∧ s.me.pc + 4 < 2 ^ 19 ∧
    Memory.wf s.mem = true :=
  ⟨5, { firingState [] rival with now := 4096 }, firing, by decide⟩

theorem met_SwarmAsks : ∃ (n : SwarmSize) (s : State), s.me.sv = false ∧ s.me.swm = false ∧ inComb s.curCell % n.cells = 0 ∧
    s.firstBad n = none :=
  ⟨.n2, { inJob Tests.strand (job) with
      cells := [(0, { Cell.reset with job := some 1, strands := Cell.reset.strands.set 0 Tests.strand }),
                (1, { Cell.reset with job := some 1 })] }, by decide⟩

theorem met_SwarmChecks : ∃ (s u : State) (n : SwarmSize), s.Quiet ∧ (s.me.sv || s.me.swm) = true ∧ u.Quiet ∧
    (u.me.sv || u.me.swm) = false ∧ inComb u.curCell % n.cells ≠ 0 :=
  ⟨one (Tests.strand [(50, 2)]), { State.reset with cells := [(1, { Cell.reset with strands := Cell.reset.strands.set 0 Tests.strand })], curCell := 1 },
    .n2, by decide⟩

theorem met_SwarmEnds : ∃ (s u : State) (w : SwarmInfo), s.Quiet ∧ s.me.swarm = none ∧ u.Quiet ∧ u.me.swarm = some w ∧
    w.leaderCell = u.curCell ∧ w.leaderStrand = u.curStrand ∧ u.membersDrained w = true ∧
    w.members = [(w.leaderCell, w.leaderStrand), (1, 3)] ∧ (1, 3) ≠ (w.leaderCell, w.leaderStrand) ∧ Memory.wf u.mem = true :=
  ⟨one Tests.strand, swarmOf leader follower 0 0, swarmInfo, by decide⟩

/-- Slot 2 of cell 0 with an edge 7 to slot 3 of cell 1. -/
def edge (c : EvClass) : EdgeRoute := ⟨7, c, 0, [(1, 3), (0, 5)], (0, 2)⟩
def edgeCell (c : EvClass) (n : Nat) : Cell :=
  { Cell.reset with allowEv := n, slots := [(2, { SlotDyn.empty 2 with edges := [edge c] })] }

theorem met_EventSent : ∃ (d a b : WReg) (n : Fin 256) (s : State) (e : EdgeRoute) (g : CellId) (sl : Nat), s.Quiet ∧
    s.me.isFollower = false ∧ s.route s.curCell s.me.slotNo n.val = some e ∧
    e.consumer ((s.w a).toNat % 2 ^ 32) = some (g, sl) ∧ countFits (s.w b) (s.w d) = true ∧
    (s.me.dchk = true → e.cls = .seq → e.producer = (s.curCell, s.me.slotNo)) ∧ 0 < s.cell.allowEv :=
  ⟨3, 1, 2, 7, one (Tests.strand [(55, 8), (1, 2 ^ 32 - 1), (2, 127)]) (edgeCell .seq 1), edge .seq, 0, 5, by decide, by decide,
    by decide, by decide, by decide, fun _ _ => rfl, by decide⟩

theorem met_EventNotSent : ∃ (s u : State) (e : EdgeRoute), s.Quiet ∧ s.me.isFollower = false ∧
    s.route s.curCell s.me.slotNo 7 = some e ∧ countFits (s.w 2) (s.w 3) = true ∧ s.me.dchk = false ∧ s.cell.allowEv = 0 ∧
    u.Quiet ∧ u.me.isFollower = false ∧ u.route u.curCell u.me.slotNo 8 = none :=
  ⟨one (Tests.strand [(55, 8), (2, 0xFFFFFFFFFFFFFF80)]) (edgeCell .add 0), one (Tests.strand [(55, 8)]) (edgeCell .add 0), edge .add, by decide⟩

set_option maxRecDepth 10000 in
theorem met_InputsRead : ∃ (s u : State) (f h : Firing), s.Quiet ∧ s.me.swm = false ∧ s.me.firing = some f ∧ f.taken < f.rate ∧
    s.rangeMarked (tcmBase s.curCell + f.input f.taken) 32 = false ∧ s.cell.meetsZeroing (f.input f.taken) 32 = false ∧
    u.Quiet ∧ u.me.swm = false ∧ u.me.firing = some h ∧ h.rate ≤ h.taken :=
  ⟨popping, one { Tests.strand with firing := some { firing with taken := 2 } }, { firing with head := 1, taken := 1 },
    { firing with taken := 2 }, by decide⟩

theorem met_MessageSent : ∃ s u v : State, s.Quiet ∧ s.messageCheck .sendm (s.me.m 0) = .ok () ∧ s.me.dchk = false ∧
    (s.me.message s.curCell true).net = .rp ∧
    u.Quiet ∧ u.messageCheck .sendm (u.me.m 0) = .ok () ∧ u.me.dchk = false ∧ (u.me.message u.curCell true).net ≠ .rp ∧
    0 < u.cell.allow (u.me.message u.curCell true).net ∧
    v.Quiet ∧ v.messageCheck .sendmT (v.me.m 0) = .ok () ∧ v.me.dchk = false ∧ (v.me.message v.curCell true).net ≠ .rp ∧
    v.cell.allow (v.me.message v.curCell true).net = 0 :=
  ⟨one (Tests.strand [(44, 0x2FC0FFF)]), one (Tests.strand [(44, 0x1000000)]) { Cell.reset with allowRq := 1 },
    one (Tests.strand [(44, 0x3000000), (50, 2)]), by decide⟩

theorem met_MailTaken : ∃ (s u : State) (v : Word), s.Quiet ∧ s.me.swm = false ∧
    s.cell.mailbox.find? (fun v => mailSlot v == s.me.slotNo) = some v ∧ u.Quiet ∧ u.me.swm = false ∧
    u.cell.mailbox.find? (fun v => mailSlot v == u.me.slotNo) = none :=
  ⟨one (Tests.strand [(55, 8)]) { Cell.reset with mailbox := [0x10000, 0x20005] },
    one (Tests.strand [(55, 8)]) { Cell.reset with mailbox := [0x10000] }, 0x20005, by decide⟩

/-- A slot that may fork tasks to slot 6 of cells 0 and 1. -/
def forker : Cell :=
  { Cell.reset with allowRq := 1, slots := [(2, { SlotDyn.empty 2 with forkTo := [(6, [0, 1])] })] }
def forking : Firing := { firing with forkmask := 64 }

theorem met_TaskForked : ∃ (a : WReg) (n : Fin 64) (s : State) (f : Firing) (p : List CellId), s.Quiet ∧ s.me.swm = false ∧
    s.me.firing = some f ∧ s.forkCheck a n f = .ok p ∧ 0 < s.cell.allowRq :=
  ⟨1, 6, one { Tests.strand [(55, 8), (1, 0xFFFF), (45, 1), (46, 2), (47, 3), (48, 4)] with firing := some forking } forker,
    forking, [0, 1], by decide⟩

def returned : TaskReturn := ⟨0, 0, 0, 0, 0, 5, 6, 7, 8, 0x300⟩
def joiner (r : Option TaskReturn) (spawned : Nat) : State :=
  one { Tests.strand [(55, 8), (1, 0x1000)] with firing := some { firing with spawned := spawned } }
    { Cell.reset with joins := [(0, ⟨0, [(0, r)]⟩)] }

theorem met_TaskJoined : ∃ (s u v : State) (f h : Firing) (r : TaskReturn), s.Quiet ∧ s.me.swm = false ∧ s.me.firing = some f ∧
    s.localCheck (.join 2 1) (s.w 1).toNat 32 8 1 = .ok () ∧ f.outstanding = 0 ∧
    u.Quiet ∧ u.me.swm = false ∧ u.me.firing = some h ∧ u.localCheck (.join 2 1) (u.w 1).toNat 32 8 1 = .ok () ∧
    h.outstanding ≠ 0 ∧ u.me.dchk = false ∧
    look (((look u.cell.joins h.pool).getD ⟨0, []⟩).entries) (h.joined % 16) = some (some r) ∧ Memory.wf u.mem = true ∧
    u.rangeWaits (u.w 1).toNat 4 = false ∧
    v.Quiet ∧ v.me.swm = false ∧ v.me.firing = some h ∧ v.localCheck (.join 2 1) (v.w 1).toNat 32 8 1 = .ok () ∧
    look (((look v.cell.joins h.pool).getD ⟨0, []⟩).entries) (h.joined % 16) = some none :=
  ⟨joiner none 0, joiner (some returned) 1, joiner none 1, firing, { firing with spawned := 1 }, returned, by decide⟩

/-- An event of cell 1 for slot 2 of cell 0. -/
def input (k : InKind := .event) (c : EvClass := .add) : Input :=
  ⟨0, 2, k, .ev, 1, 2, 3, 4, 1, 3, 9, c, 7, true, 0, 0, 0, 0, none⟩

set_option maxRecDepth 10000 in
theorem met_InputEnters : ∃ (s : State) (i : Input), (s.cellAt i.dst).fenced = false ∧ s.arrivalFails i false = false ∧
    (s.hiveAt (hiveOf i.dst)).waitingFor i.dst i.slot = [] ∧ (s.hiveAt (hiveOf i.dst)).blocked i = false ∧
    s.ringFull i.dst i.slot = false ∧ s.arrivalWaits i = false ∧ s.slotQbase i.dst i.slot + 32 * 2 ^ s.slotQlog i.dst i.slot ≤ 0x7F000 ∧ i.slot < 64 ∧
    Memory.wf s.mem = true :=
  ⟨firingState, input, by decide⟩

set_option maxRecDepth 10000 in
theorem met_InputRefused : ∃ (s : State) (i : Input), i.dst < 2 ^ 18 ∧ i.slot < 64 ∧ (s.cellAt i.dst).fenced = false ∧
    s.arrivalFails i false = true :=
  ⟨firingState, input .message, by decide⟩

set_option maxRecDepth 10000 in
theorem met_WaitingMoves_ring : ∃ (s : State) (g : CellId) (n : Nat) (i : Input) (r : List Waiting),
    (s.hiveAt (hiveOf g)).waitingFor g n = ⟨.spill, .input i⟩ :: r ∧ s.ringFull g n = false ∧
    s.ringZeroing g n = false ∧ (s.cellAt g).fenced = false :=
  ⟨{ firingState with hives := [(0, { Hive.reset with waiting := [⟨.spill, .input input⟩] })] }, 0, 2, input, [], by decide⟩

theorem met_WaitingMoves_sorted : ∃ (s : State) (i : Input), (s.hiveAt (hiveOf i.dst)).sorted.length < 1048576 :=
  ⟨State.reset, input .event .sorted, by decide⟩

theorem met_WaitingMoves_return : ∃ (s : State) (r : TaskReturn),
    ((look (s.cellAt r.parent).joins r.buffer).getD ⟨0, []⟩).gen = r.gen ∧
    look ((look (s.cellAt r.parent).joins r.buffer).getD ⟨0, []⟩).entries r.spawn = some none :=
  ⟨joiner none 1, returned, by decide⟩

theorem met_WaitingMoves_mail : ∃ (s : State) (g : CellId) (st : Stage) (v : Word) (r : List Waiting),
    (s.hiveAt (hiveOf g)).waiting = ⟨st, .mail g v⟩ :: r ∧ (s.cellAt g).mailbox.length < 32 :=
  ⟨{ State.reset with hives := [(0, { Hive.reset with waiting := [⟨.spill, .mail 0 5⟩] })] }, 0, .spill, 5, [], by decide⟩
/-! ### Barriers and pages -/

/-- A unit that counts cells 0 and 1 of the comb, with TARGET 2. -/
def twoCells (cur nxt : Nat) (acur : BitVec 16) (pend : Word := 0) : Barrier :=
  { Barrier.reset with en := true, target := 2, mask := 3, cur := cur, nxt := nxt, acur := acur, pend := pend }

def atBarrier (t : Strand) (u : Barrier) : State := one t { Cell.reset with bars := Cell.reset.bars.set 3 u }

theorem met_ArrivalSetsOut : ∃ (i : Instr) (s : State) (d : CellId) (b : Fin 8) (add : Option Word), s.Quiet ∧
    arriveRule s i = some (.ok d, b, add) ∧ s.fenced .comb = true ∧ s.arriveCheck d b = .ok () :=
  ⟨.arrivebRemote 3 1 0, atBarrier (strand [(1, 64)]) (twoCells 0 0 0), 0, 3, some 64, by decide⟩

def arrived : Strand := { strand [(1, 64)] with run := .parked (.arriveb 3 1), since := 9 }

theorem met_ArrivalCounts_goes_on : ∃ (s : State) (a : Arrival) (u : Barrier),
    (s.strandAt a.src a.strand).arrivesAs a = true ∧ (s.cellAt a.unitCell).fenced = false ∧
    (s.cellAt a.unitCell).bars[a.bar] = u ∧
    u.acur.getLsbD (inComb a.src) = false ∧ (s.strandAt a.src a.strand).longs = [] ∧
    (s.strandAt a.src a.strand).shadow = none ∧ (s.strandAt a.src a.strand).held = none ∧
    (s.strandAt a.src a.strand).replay = none ∧ u.cur + 1 = u.target ∧ u.pend + a.add.getD 0 ≠ 0 :=
  ⟨atBarrier arrived (twoCells 1 0 2), ⟨0, 3, 0, 0, some 64, 9⟩, twoCells 1 0 2, by decide⟩

/-- The same with strand 1 of the cell waiting at the unit. -/
def crowded : State := (atBarrier arrived (twoCells 1 1 2 (-64))).setStrand 0 1 { strand with run := .parked (.waitb 3) }

theorem met_ArrivalCounts_turns : ∃ (s : State) (a : Arrival) (u : Barrier),
    (s.strandAt a.src a.strand).arrivesAs a = true ∧ (s.cellAt a.unitCell).fenced = false ∧
    (s.cellAt a.unitCell).bars[a.bar] = u ∧
    u.acur.getLsbD (inComb a.src) = false ∧ (s.strandAt a.src a.strand).longs = [] ∧
    (s.strandAt a.src a.strand).shadow = none ∧ (s.strandAt a.src a.strand).held = none ∧
    (s.strandAt a.src a.strand).replay = none ∧ u.en = true ∧ u.cur + 1 = u.target ∧ u.pend + a.add.getD 0 = 0 ∧
    u.nxt ≠ u.target ∧
    ∃ t k, exec (.barrierArrival a) s = .next t ∧ (s.strandAt a.unitCell k).run = .parked (.waitb a.bar) ∧
      t.waitOver a.unitCell a.bar (s.strandAt a.unitCell k).note = true :=
  ⟨crowded, ⟨0, 3, 0, 0, some 64, 9⟩, twoCells 1 1 2 (-64), by decide, by decide, by decide, by decide, by decide, by decide, by decide,
    by decide, by decide, by decide, by decide, by decide, _, 1, rfl, by decide, by decide⟩

/-- A second arrival that turns the phase over, one that does not, and a third one. -/
theorem met_ArrivalsAgain : ∃ (s u v : State) (a : Arrival), (∀ x ∈ [s, u, v], ((x.strandAt a.src a.strand).arrivesAs a = true ∧
      (x.cellAt a.unitCell).fenced = false ∧ ((x.cellAt a.unitCell).bars[a.bar]).acur.getLsbD (inComb a.src) = true ∧
      (x.strandAt a.src a.strand).longs = [] ∧ (x.strandAt a.src a.strand).shadow = none ∧ (x.strandAt a.src a.strand).held = none ∧
      (x.strandAt a.src a.strand).replay = none)) ∧
    ((s.cellAt a.unitCell).bars[a.bar]).anxt.getLsbD (inComb a.src) = false ∧ ((s.cellAt a.unitCell).bars[a.bar]).en = true ∧
    ((s.cellAt a.unitCell).bars[a.bar]).cur = ((s.cellAt a.unitCell).bars[a.bar]).target ∧
    ((s.cellAt a.unitCell).bars[a.bar]).pend + a.add.getD 0 = 0 ∧
    ((u.cellAt a.unitCell).bars[a.bar]).anxt.getLsbD (inComb a.src) = false ∧ ((u.cellAt a.unitCell).bars[a.bar]).pend + a.add.getD 0 ≠ 0 ∧
    ((v.cellAt a.unitCell).bars[a.bar]).anxt.getLsbD (inComb a.src) = true ∧ (v.strandAt a.src a.strand).firing = some firing ∧
    firing.trapEnt ≠ 0 ∧ (v.strandAt a.src a.strand).sv = false ∧ (v.strandAt a.src a.strand).swarm = none :=
  ⟨atBarrier arrived (twoCells 2 0 3 (-64)), atBarrier arrived (twoCells 1 0 1),
    atBarrier arrived { twoCells 1 1 1 with anxt := 1 }, ⟨0, 3, 0, 0, some 64, 9⟩, by decide⟩

theorem met_BarrierWaits : ∃ s u v : State, s.Quiet ∧ s.cell.bars[3].en = true ∧ s.waitOver s.curCell 3 s.cell.bars[3].completions = true ∧
    u.Quiet ∧ u.cell.bars[3].en = true ∧ u.waitOver u.curCell 3 u.cell.bars[3].completions = false ∧
    v.Quiet ∧ v.cell.bars[3].en = false :=
  ⟨atBarrier (strand [(1, 100)]) (twoCells 1 0 2), atBarrier (strand [(1, 100)]) (twoCells 1 0 1), one strand, by decide⟩

theorem met_BarrierExpiry : ∃ (s : State) (g : CellId) (k : StrandId) (b : Fin 8) (a : WReg) (t : Strand),
    s.strandAt g k = t ∧ t.run = .parked (.waitbt b a) ∧ t.since + (t.w a).toNat % 2 ^ 32 ≤ s.now ∧
    t.longs = [] ∧ t.shadow = none ∧ t.held = none ∧ t.replay = none :=
  ⟨{ atBarrier { strand [(1, 100)] with run := .parked (.waitbt 3 1) } (twoCells 1 0 1) with now := 100 }, 0, 0, 3, 1, _, rfl, rfl,
    by decide, rfl, rfl, rfl, rfl⟩

/-- A configuration at 0x400: enabled, TARGET 2, MASK 3, PEND 64. -/
def config : State := withWords (one (strand [(1, 0x400)])) [(0x400, 2 ^ 17 + 2 * 2 ^ 11), (0x408, 3), (0x410, 64)]

theorem met_BarrierConfigured : ∃ (a : WReg) (s : State), s.Quiet ∧ Memory.wf s.mem = true ∧
    s.rangeWaits (s.w a).toNat 3 = false ∧
    s.localCheck (.bcfgSet 7 a) (s.w a).toNat 24 8 0 = .ok () ∧ s.marks = [] ∧
    bcfgBad (BitVec.ofNat 64 (s.read (tcmBase s.curCell + ownAddr s.curCell (s.w a).toNat) 8))
      (BitVec.ofNat 16 (s.read (tcmBase s.curCell + ownAddr s.curCell (s.w a).toNat + 8) 2)) = false ∧
    s.localCheck (.bcfgGet 7 a) (s.w a).toNat 24 8 1 = .ok () :=
  ⟨1, config, by decide⟩

/-- A strand at a page of the super, in a job. -/
def atPage (p : Page) (l : List (Nat × Word) := []) : State := inJob (strand ((1, 0x100010) :: l)) (job [p])

theorem met_PageQueried : ∃ (a : WReg) (s : State) (p : Page), s.Quiet ∧ s.misses s.curCell (s.w a).toNat = false ∧
    s.pageOf (s.w a).toNat 0 = .ok p :=
  ⟨1, atPage (virtPage .frozen), virtPage .frozen, by decide⟩

theorem met_PageChanges : ∃ (s : State) (n : Nat) (j : Job) (p : Page) (a b : WReg), s.Quiet ∧
    s.jobOf s.curCell = some (n, j) ∧ s.misses s.curCell (s.w a).toNat = false ∧ s.pageOf (s.w a).toNat 1 = .ok p ∧
    p.issuer s.curCell = true ∧ (s.w b).toNat < 2 ^ 12 ∧ s.cellExists (hiveOf s.curCell * 4096 + (s.w b).toNat) = true ∧
    s.fenced .hive = true ∧ s.cell.storesTo p = false ∧ (s.w b).toNat ≠ lcidOf s.curCell ∧ p.state = .live ∧
    (p.request.map fun q => q.by_) = none ∧ (inReductionRange (s.w a).toNat && Rule.notReducing .unique) = false ∧
    (s.w 0).toNat = lcidOf s.curCell ∧ s.cellExists (hiveOf s.curCell * 4096 + (s.w 0).toNat) = true :=
  ⟨atPage virtPage [(2, 4095)], 1, job [virtPage], virtPage, 1, 2, by decide⟩

theorem met_PageChanges_shadowed : ∃ (s : State) (p : Page), s.Quiet ∧ s.misses s.curCell (s.w 1).toNat = false ∧
    s.pageOf (s.w 1).toNat 1 = .ok p ∧ p.issuer s.curCell = true ∧ s.fenced .hive = true ∧ s.cell.storesTo p = false ∧
    p.state = .shadowed ∧ p.dirty = false ∧ (p.request.map fun q => q.by_) = none :=
  ⟨atPage (virtPage .shadowed), virtPage .shadowed, by decide⟩

theorem met_PageChanges_later : ∃ (s : State) (n : Nat) (j : Job) (p : Page) (a : WReg), s.Quiet ∧
    s.jobOf s.curCell = some (n, j) ∧ s.misses s.curCell (s.w a).toNat = false ∧ s.pageOf (s.w a).toNat 1 = .ok p ∧
    p.issuer s.curCell = true ∧ p.state = .frozen ∧ (s.w 2).toNat < 2 ^ 12 ∧
    s.cellExists (hiveOf s.curCell * 4096 + (s.w 2).toNat) = true ∧ s.fenced .hive = true ∧ s.cell.storesTo p = false ∧
    (s.w 2).toNat ≠ lcidOf s.curCell ∧ (p.request.map fun q => q.by_) = some (lcidOf s.curCell) :=
  ⟨atPage { virtPage .frozen with request := some ⟨.live, .add, 5, 0⟩ } [(2, 1)], 1, job [{ virtPage .frozen with request := some ⟨.live, .add, 5, 0⟩ }],
    { virtPage .frozen with request := some ⟨.live, .add, 5, 0⟩ }, 1, by decide⟩

/-- A shadowed page with two bytes written. -/
def written : State :=
  { atPage { virtPage .shadowed with dirty := true } with
    shadow := [(shadowKey 1 0 0x100000 + 16, 7), (shadowKey 1 0 0x100000 + 17, 9)] }

set_option maxRecDepth 10000 in
theorem met_PagePublished : ∃ (a : WReg) (s : State) (n : Nat) (j : Job) (p : Page), s.Quiet ∧ s.jobOf s.curCell = some (n, j) ∧
    s.misses s.curCell (s.w a).toNat = false ∧ s.pageOf (s.w a).toNat 1 = .ok p ∧ p.state = .shadowed ∧
    p.heldBy s.curCell = true ∧ s.fenced .hive = true ∧ s.engineBusy = false :=
  ⟨1, written, 1, job [{ virtPage .shadowed with dirty := true }], { virtPage .shadowed with dirty := true }, by decide⟩

theorem met_PageRefused : ∃ (s : State) (p : Page), s.Quiet ∧ s.misses s.curCell (s.w 1).toNat = false ∧
    s.pageOf (s.w 1).toNat 1 = .ok p ∧ p.issuer s.curCell = false ∧ p.state ≠ .shadowed ∧ (s.w 2).toNat < 2 ^ 12 ∧
    s.cellExists (hiveOf s.curCell * 4096 + (s.w 2).toNat) = true ∧ (inReductionRange (s.w 1).toNat && Rule.notReducing .unique) = false :=
  ⟨atPage { virtPage with holder := 5 } [(2, 4095)], { virtPage with holder := 5 }, by decide⟩

theorem met_PageRefused_shadowed : ∃ (s u : State) (p q : Page), s.Quiet ∧ s.misses s.curCell (s.w 1).toNat = false ∧
    s.pageOf (s.w 1).toNat 1 = .ok p ∧ p.state = .shadowed ∧ p.heldBy s.curCell = false ∧
    u.Quiet ∧ u.misses u.curCell (u.w 1).toNat = false ∧ u.pageOf (u.w 1).toNat 1 = .ok q ∧ q.issuer u.curCell = true ∧
    q.state = .shadowed ∧ q.dirty = true :=
  ⟨atPage { virtPage .shadowed with holder := 5 }, written, { virtPage .shadowed with holder := 5 },
    { virtPage .shadowed with dirty := true }, by decide⟩

theorem met_PageRefused_request : ∃ (s : State) (p : Page) (q : PageRequest), s.Quiet ∧ s.misses s.curCell (s.w 1).toNat = false ∧
    s.pageOf (s.w 1).toNat 1 = .ok p ∧ p.issuer s.curCell = true ∧ p.request = some q ∧ q.by_ ≠ lcidOf s.curCell ∧
    p.state = .frozen ∧ (s.w 2).toNat < 2 ^ 12 ∧ s.cellExists (hiveOf s.curCell * 4096 + (s.w 2).toNat) = true ∧
    s.fenced .hive = true ∧ s.cell.storesTo p = false ∧ (s.w 2).toNat ≠ lcidOf s.curCell :=
  ⟨atPage { virtPage .frozen with request := some ⟨.live, .add, 5, 7⟩ } [(2, 1)],
    { virtPage .frozen with request := some ⟨.live, .add, 5, 7⟩ }, ⟨.live, .add, 5, 7⟩, by decide⟩

/-! ### Engines -/

/-- Pointers at 0x1000, 0x2000, 0x3000 and 0x4000, with VL. -/
def pointers (vl : Nat) (l : List (Nat × Word) := []) : Strand :=
  strand ([(33, 0x1000), (34, 0x2000), (35, 0x3000), (36, 0x4000), (53, BitVec.ofNat 64 vl)] ++ l)

theorem met_VectorIssues : ∃ (i : Instr) (s : State), s.Quiet ∧ i.isVec = true ∧ checkPtrs (vecPtrs s.me i) = .ok () ∧
    s.queueFull .vu = false :=
  ⟨.vma .fp32 .rne false ⟨1, true⟩ ⟨2, false⟩ ⟨1, true⟩, one (pointers 4096), by decide⟩

theorem met_MultiplyIssues : ∃ (s : State) (d a b : WReg) (q : Multiply), s.Quiet ∧ s.queueFull .sce = false ∧
    multiplyOf (.mma .int8 .int4 true d a b) (s.w d) (s.w a) (s.w b) = some q ∧ q.bad (s.w d) = false :=
  ⟨one (strand [(1, 4 * 2 ^ 16 + 16376), (2, 2), (3, 8)]), 1, 2, 3, _, by decide, by decide, rfl, by decide⟩

theorem met_MultiplyIssues_clear : ∃ (s : State) (a b : WReg), s.Quiet ∧ s.queueFull .sce = false ∧ (s.w a).toNat < 16384 ∧
    (s.w b).toNat / 2 ^ 15 % 2 ^ 48 = 0 ∧ (s.w a).toNat + zclrCount (s.w b) ≤ 16384 :=
  ⟨one (strand [(2, 16383), (3, 1)]), 2, 3, by decide⟩

theorem met_MultiplyIssues_convert : ∃ (s : State) (d a b : WReg), s.Quiet ∧ s.queueFull .sce = false ∧
    zcvtBad (s.w a) = false ∧ (s.w b).toNat < 2 ^ 7 ∧ (1 < elemHalf .fp32 / 2 → (s.w d).toNat % (elemHalf .fp32 / 2) = 0) ∧
    (s.w d).toNat + fifoBytes (zcvtCount (s.w a)) (elemBits .fp32) ≤ 0x7F000 :=
  ⟨one (strand [(1, 0x7EFF8), (2, 2 * 2 ^ 16 + 16382), (3, 127)]), 1, 2, 3, by decide⟩

theorem met_DeltaIssues : ∃ (s : State) (a b : WReg), s.Quiet ∧ s.queueFull .sdu = false ∧ (s.w a).toNat < 8 ∧
    (s.w b).toNat % 64 = 0 ∧ (s.w b).toNat + 1088 ≤ 0x7F000 ∧ (s.w b).toNat < 2 ^ 31 ∧ (s.w b).toNat / 2 ^ 14 % 4 = 0 :=
  ⟨one (strand [(1, 7), (2, 0x70000)]), 1, 2, by decide⟩

theorem met_CopyIssues : ∃ (s u : State), s.Quiet ∧ s.queueFull .forager = false ∧
    s.copyCheck false (s.w 1) (s.w 2) (s.w 3) = .ok () ∧ u.Quiet ∧ u.queueFull .forager = false ∧
    u.copyCheck true (u.w 1) (u.w 2) (u.w 3) = .ok () :=
  ⟨one (strand [(1, 0x7EFF8), (2, 8), (3, 0xA0000)]), one (strand [(1, 0x7F00000000100000), (2, 16), (3, 0x7FFF0)]), by decide⟩

theorem met_AccumulatorAccess : ∃ (s : State) (a : WReg), s.Quiet ∧ s.zWaits = false ∧ (s.w a).toNat < 16384 ∧
    Memory.wf s.mem = true ∧ s.marked (zAddr s.curCell (s.w a).toNat) = false :=
  ⟨{ withWords (one (strand [(1, 16383), (2, 7)])) [(zAddr 0 16383, 0x1122)] with zov := [zAddr 0 16383 / 8] }, 1, by decide⟩

/-- An entry of strand 0 with these pointers or registers. -/
def entry (i : Instr) (regs ptrs : List Word) (vl : Nat) (started : Bool := true) : EngEntry :=
  ⟨7, 0, 5, 2, 0, 0, 0xFC, i, regs, ptrs, vl, 0, started, none, 0, 0, false, false, 0, none⟩

/-- Cell 0 whose strand 0 is in the shadow of that entry. -/
def inShadow (e : Eng) (en : EngEntry) (l : List (Nat × Word) := []) : State :=
  one { pointers 1 l with shadow := some ⟨7, 0xFC, en.instr, 0, Vector.replicate 8 0⟩ } (Cell.reset.setQueue e [en])

/-- A `VADD.uint8` of two elements. -/
def addition (started : Bool) : EngEntry :=
  entry (.vadd .uint8 .rne false ⟨1, false⟩ ⟨2, false⟩ ⟨3, false⟩) [] [0x5FFFE, 0x2000, 0x3000] 2 started

/-- Cell 0 with that queue of an engine. -/
def waiting (e : Eng) (l : List EngEntry) : State := one (pointers 1) (Cell.reset.setQueue e l)

def clearingQ : EngEntry := entry (.zclr 2 3) [0, 0x8000000000000002] [] 0 false
def multiplyQ : EngEntry := entry (.mma .int8 .int8 false 7 8 9) [0x20064, 2, 4] [] 0 false
def pushQ (src : Word) : EngEntry := entry (.push 1 2 3 none) [0x5000, src, 72] [] 0 false
def pushxQ : EngEntry := entry (.pushx 1 2 3 none) [0x5000, 0x7F00000000104000, 72] [] 0 false
def sentQ : EngEntry := entry (.pushx 1 2 3 none) [0x5000, 0x7F00000000104000, 72] [] 0 true

/-- The VU with a second entry behind its oldest; a multiply without operands; a clear; and the forager, whose `PUSHX` is
with its source cell, with a close, a `PUSH` and a `PUSHX` after it. -/
theorem met_EngineStarts : ∃ s u v w x y z : State,
    ((s.cellAt 0).queue .vu = [] ++ addition false :: [addition false] ∧ (addition false).started = false) ∧
    ((u.cellAt 0).queue .sce = [] ++ multiplyQ :: [] ∧ (u.cellAt 0).operandsPresent multiplyQ = false) ∧
    ((v.cellAt 0).queue .sce = [] ++ clearingQ :: [] ∧ (v.cellAt 0).operandsPresent clearingQ = true) ∧
    ((w.cellAt 0).queue .forager = [sentQ] ++ entry (.fpre 1) [] [] 0 false :: [] ∧ (∀ x ∈ [sentQ], x.started = true) ∧
      w.foragerIdle 0 = true) ∧
    ((x.cellAt 0).queue .forager = [sentQ] ++ pushQ 0x4000 :: [] ∧ x.foragerIdle 0 = true ∧
      x.sourceClosed 0 (ownAddr 0 ((pushQ 0x4000).reg 1).toNat) (copyLen ((pushQ 0x4000).reg 2)) = none ∧
      ownAddr 0 ((pushQ 0x4000).reg 1).toNat < 0x80000) ∧
    ((y.cellAt 0).queue .forager = [sentQ] ++ pushxQ :: [] ∧ y.foragerIdle 0 = true ∧
      y.windowCell (hiveOf 0) (pushxQ.reg 1).toNat = some (1, 0x4000)) ∧
    (z.cellAt 0).queue .sdu = [] ++ entry (.sdflush 1) [1, 0] [] 0 false :: [] :=
  ⟨waiting .vu [addition false, addition false], waiting .sce [multiplyQ], waiting .sce [clearingQ],
    waiting .forager [sentQ, entry (.fpre 1) [] [] 0 false], waiting .forager [sentQ, pushQ 0x4000],
    waiting .forager [sentQ, pushxQ], waiting .sdu [entry (.sdflush 1) [1, 0] [] 0 false], by decide⟩

theorem performing_inShadow (e : Eng) (en : EngEntry) (l : List (Nat × Word)) (h : en.started = true)
    (k : en.strand = 0) (f : en.fid = 5) (i : en.id = 7)
    (z : en.zseq = none ∧ en.done = 0 ∧ en.flags = 0 ∧ en.late = none := by exact ⟨rfl, rfl, rfl, rfl⟩) : (inShadow e en l).Performing 0 e en := by
  have q : ((inShadow e en l).cellAt 0).queue e = [en] := by cases e <;> rfl
  have st : (inShadow e en l).strandAt 0 en.strand = { pointers 1 l with shadow := some ⟨7, 0xFC, en.instr, 0, Vector.replicate 8 0⟩ } := by
    rw [k]; cases e <;> rfl
  refine ⟨q, h, by simp [Cell.zHeld, z.1], by cases e <;> rfl, z.2.1, z.2.2.1, z.2.2.2, ⟨firing, ?_, f.symm⟩, ⟨_, by rw [st], i.symm⟩, ?_, ?_⟩ <;> rw [st] <;> rfl

/-- Below bank W nothing of the small machine is closed: its one strand is bound at 0x60000. -/
theorem tcmOpen_inShadow (e : Eng) (en : EngEntry) (l : List (Nat × Word)) : (inShadow e en l).TcmOpen 0 := by
  refine ⟨rfl, fun a n h => ?_⟩
  have c : ((inShadow e en l).cellAt 0).strands.toList =
      [{ pointers 1 l with shadow := some ⟨7, 0xFC, en.instr, 0, Vector.replicate 8 0⟩ }, Strand.reset, Strand.reset, Strand.reset] := by
    cases e <;> rfl
  have b : ((inShadow e en l).cellAt 0).banks = Vector.replicate 4 ⟨.on, 0⟩ := by cases e <;> rfl
  have hb : Strand.reset.bound = false := by decide
  have hw : (pointers 1 l).wp = 0x60000 := rfl
  simp only [Cell.closed, Cell.meetsBound, Cell.meetsGated, c, b, List.any_cons, List.any_nil, Strand.overlaps, hb, hw]
  simp
  omega

theorem contiguous_of {p : Word} {n e : Nat} (h : ptrMode p = 0 ∧ ptrAddr p + n * e ≤ 0x60000) : contiguous p n e := h

theorem met_VectorElementwise : ∃ (s : State) (g : CellId) (en : EngEntry) (f : Fmt) (op : Nat → Nat → Nat × Flags)
    (pd pa pb : Word) (e : Nat), s.Performing g .vu en ∧ lanewise en.instr = some (f, op) ∧ elemHalf f = 2 * e ∧ 0 < e ∧
    en.ptrs = [pd, pa, pb] ∧ en.st = 0 ∧ en.fen = 0 ∧ s.TcmOpen g ∧ contiguous pd en.vl e ∧ contiguous pa en.vl e ∧
    contiguous pb en.vl e ∧ apart pd pa en.vl e ∧ apart pd pb en.vl e ∧ Memory.wf s.mem = true :=
  ⟨inShadow .vu (addition true), 0, addition true, _, _, _, _, _, 1, performing_inShadow .vu _ [] rfl rfl rfl rfl, rfl, rfl, by decide,
    rfl, rfl, rfl, tcmOpen_inShadow .vu _ [], contiguous_of (by decide), contiguous_of (by decide), contiguous_of (by decide),
    Or.inr (by decide), Or.inr (by decide), by decide⟩

/-- A `VFINDB` of one byte. -/
def finding : EngEntry := entry (.vfindb ⟨1, false⟩ ⟨2, false⟩ ⟨3, false⟩) [] [0x5FFF0, 0x2000, 0x3000] 1

theorem finding_rule : (inShadow .vu finding).singleRule 0 finding = some (0x5FFF0, 8, 0, 0) := by decide

theorem met_VectorSingle : ∃ (s : State) (g : CellId) (en : EngEntry) (d n v : Nat) (fl : Flags), s.Performing g .vu en ∧
    en.instr.wf = true ∧ wholeBytes en.instr = true ∧ en.vl = 1 ∧ en.st = 0 ∧ en.fen = 0 ∧ s.TcmOpen g ∧
    en.ptrs.length = en.instr.ptrArgs.length ∧ (∀ p ∈ en.ptrs, contiguous p 1 16) ∧ s.singleRule g en = some (d, n, v, fl) ∧
    d + 16 ≤ 0x60000 ∧ (∀ f a b c, en.instr = .vgath f a b c →
      baseOffset (en.ptr 1) (vecBytes f) (s.read (tcmBase g + ptrAddr (en.ptr 2)) 4) + 16 ≤ 0x60000) ∧ Memory.wf s.mem = true := by
  refine ⟨inShadow .vu finding, 0, finding, 0x5FFF0, 8, 0, 0, performing_inShadow .vu _ [] rfl rfl rfl rfl, by decide, by decide,
    rfl, rfl, rfl, tcmOpen_inShadow .vu _ [], rfl, ?_, finding_rule, by decide, ?_, by decide⟩
  · intro p hp
    simp only [finding, entry, List.mem_cons, List.not_mem_nil, or_false] at hp
    obtain rfl | rfl | rfl := hp <;> exact contiguous_of (by decide)
  · intro f a b c h; simp [finding, entry] at h

/-- A `VADD.fp32` of two elements, the second an infinity and its opposite, which traps with flag NV enabled. -/
def flagged (fen : Flags) : EngEntry :=
  { entry (.vadd .fp32 .rne false ⟨1, false⟩ ⟨2, false⟩ ⟨3, false⟩) [] [0x5FFF8, 0x2000, 0x3000] 2 with fen := fen }
def flagging (fen : Flags) : State :=
  withWords (inShadow .vu (flagged fen)) [(0x2000, 0x7F80000000000000), (0x3000, 0xFF80000000000000)]

set_option maxRecDepth 10000 in
theorem met_VectorPerforms : ∀ x ∈ ([(0, none), (16, some 1)] : List (Flags × Option Nat)), ∃ (s : State) (en : EngEntry),
    s.Performing 0 .vu en ∧ en.instr.isVec = true ∧ en.instr.wf = true ∧ s.TcmOpen 0 ∧ Memory.wf s.mem = true ∧
    (en.instr.resumable = false → en.st = 0) ∧ en.st ≤ en.vl ∧
    (vecRule en.instr en.ptrs en.vl en.st en.fen (s.tcmOf 0)).map VecRun.trap = some x.2 ∧ (s.strandAt 0 en.strand).swarm = none ∧
    (s.strandAt 0 en.strand).sv = false := by
  intro x hx
  simp only [List.mem_cons, List.not_mem_nil, or_false] at hx
  obtain rfl | rfl := hx
  · exact ⟨flagging 0, flagged 0, ⟨rfl, rfl, rfl, rfl, rfl, rfl, rfl, ⟨firing, rfl, rfl⟩, ⟨_, rfl, rfl⟩, rfl, rfl⟩, by decide, by decide,
      tcmOpen_of, by decide, fun _ => rfl, by decide, by decide +kernel, rfl, rfl⟩
  · exact ⟨flagging 16, flagged 16, ⟨rfl, rfl, rfl, rfl, rfl, rfl, rfl, ⟨firing, rfl, rfl⟩, ⟨_, rfl, rfl⟩, rfl, rfl⟩, by decide, by decide,
      tcmOpen_of, by decide, fun _ => rfl, by decide, by decide +kernel, rfl, rfl⟩

def clearing : EngEntry := entry (.zclr 2 3) [16382, 2] [] 0

theorem met_AccumulatorsCleared : ∃ (s : State) (g : CellId) (en : EngEntry) (a b : WReg) (i n : Word), s.Performing g .sce en ∧
    en.instr = .zclr a b ∧ en.regs = [i, n] ∧ i.toNat + n.toNat % 2 ^ 15 ≤ 16384 ∧ Memory.wf s.mem = true :=
  ⟨inShadow .sce clearing, 0, clearing, 2, 3, 16382, 2, performing_inShadow .sce _ [] rfl rfl rfl rfl, rfl, rfl, by decide, by decide⟩

/-! ### Copies and streams -/

def pushing : EngEntry := entry (.push 1 2 3 none) [0x5000, 0x4000, 72] [] 0

/-- A copy of 72 bytes from 0x4000 to 0x5000 of cell 0. -/
def copy (st : CopyStage) (pos : Nat) : Copy :=
  ⟨1, 0, 7, 0, 0, false, 0x4000, .tcm 0 0x5000, 72, 72, none, pos, false, st⟩

def copying (st : CopyStage) (pos : Nat) : State :=
  { withWords (inShadow .forager pushing) [(0x4000, 0x0102030405060708), (0x4040, 77)] with copies := [copy st pos] }

theorem copying_copying (st : CopyStage) (pos : Nat) : (copying st pos).Copying (copy st pos) pushing st :=
  ⟨rfl, rfl, rfl, rfl, rfl, rfl, rfl, rfl, rfl, rfl, rfl, ⟨firing, rfl, rfl⟩, ⟨_, rfl, rfl⟩, rfl, rfl⟩

theorem met_CopyBlock_first : ∃ (s : State) (c : Copy) (en : EngEntry) (g : CellId) (off n : Nat), s.Copying c en .moving ∧
    c.dest = .tcm g off ∧ c.reader = c.issuer ∧ n = min (64 - c.pos % 64) (c.len - c.pos) ∧ 0 < n ∧ n % 8 = 0 ∧ c.src + c.len ≤ 0x7F000 ∧
    s.destClosed c = false ∧ s.copyHeld c n = false ∧ s.marks = [] ∧ Memory.wf s.mem = true ∧ c.pos + n ≠ c.len ∧
    tcmBase c.reader + c.src + c.pos + n ≤ tcmBase g + off + c.pos :=
  ⟨copying .moving 0, copy .moving 0, pushing, 0, 0x5000, 64, copying_copying _ _, rfl, rfl, rfl, by decide, by decide, by decide,
    by decide, by decide, rfl, by decide, by decide, by decide⟩

theorem met_CopyBlock_last : ∃ (s : State) (c : Copy) (en : EngEntry) (g : CellId) (off n : Nat), s.Copying c en .moving ∧
    c.dest = .tcm g off ∧ c.reader = c.issuer ∧ n = min (64 - c.pos % 64) (c.len - c.pos) ∧ 0 < n ∧ n % 8 = 0 ∧ c.src + c.len ≤ 0x7F000 ∧
    s.destClosed c = false ∧ s.copyHeld c n = false ∧ s.marks = [] ∧ Memory.wf s.mem = true ∧ c.pos + n = c.len ∧
    tcmBase c.reader + c.src + c.pos + n ≤ tcmBase g + off + c.pos :=
  ⟨copying .moving 64, copy .moving 64, pushing, 0, 0x5000, 8, copying_copying _ _, rfl, rfl, rfl, by decide, by decide, by decide,
    by decide, by decide, rfl, by decide, by decide, by decide⟩

theorem met_CopyEnds : ∃ (s u : State) (c d : Copy) (en : EngEntry), c.dest = .tcm 0 0x5000 ∧ s.Copying c en .written ∧
    copyNomb c.word = false ∧ c.bar = none ∧ (s.cellAt 0).mailbox.length < 32 ∧
    (∀ x ∈ (s.hiveAt (hiveOf 0)).waiting, x.input?.isSome = true ∨ x.dst ≠ 0) ∧ d.dest = .tcm 0 0x5000 ∧ u.Copying d en .completed :=
  ⟨copying .written 72, copying .completed 72, copy .written 72, copy .completed 72, pushing, rfl, copying_copying _ _, by decide, rfl,
    by decide, fun _ h => absurd h (List.not_mem_nil), rfl, copying_copying _ _⟩

/-- A `PUSHX` from cell 1, forwarded by cell 0. -/
def proxied (mask : Word) : State :=
  { inShadow .forager (entry (.pushx 1 2 3 none) [0x5000, 0x7F00000000104000, 72] [] 0) with
    cells := (0, ((inShadow .forager (entry (.pushx 1 2 3 none) [0x5000, 0x7F00000000104000, 72] [] 0))).cellAt 0) ::
      [(1, { Cell.reset with pmask := mask })]
    copies := [{ copy .forwarded 0 with reader := 1, proxied := true }] }

theorem met_ProxyEntry : ∃ (s u : State) (c : Copy), s.copies = [c] ∧ c.stage = .forwarded ∧ (s.cellAt c.reader).fenced = false ∧
    (s.cellAt c.reader).proxies.length < 4 ∧ s.pushAllowed c.reader c.issuer = true ∧
    s.sourceClosed c.reader c.src c.len = none ∧ u.copies = [c] ∧ (u.cellAt c.reader).fenced = false ∧
    (u.cellAt c.reader).proxies.length < 4 ∧ u.pushAllowed c.reader c.issuer = false :=
  ⟨proxied 1, proxied 2, { copy .forwarded 0 with reader := 1, proxied := true }, by decide⟩

/-- Stream register 3 bound to context 5, with one element read ahead. -/
def streaming (left : Nat) : State :=
  one (strand [(41, streamWord 0 true 0 6), (43, streamWord 0 true 2 5), (1, 0x7EFFF), (2, 1)])
    { Cell.reset with streams := [⟨5, 5, 0x4001, 0, left, [(0x4000, .ok 0x80)], none⟩] }

theorem met_Streams : ∃ (s : State) (x : Stream), s.Quiet ∧ streamBound (s.me.stream 2) = false ∧ (s.w 2).toNat ≠ 0 ∧
    (s.w 2).toNat < 2 ^ 24 ∧ (s.w 1).toNat % widthBytes .int8 = 0 ∧
    streamSource (s.w 1).toNat ((s.w 2).toNat * widthBytes .int8) = true ∧
    s.reachesAway (s.w 1).toNat ((s.w 2).toNat * widthBytes .int8) = false ∧ s.cell.freeStream = some 0 ∧
    streamBound (s.me.stream 1) = true ∧ streamLeft (s.me.stream 1) = 0 ∧
    streamBound (s.me.stream 3) = true ∧ streamLeft (s.me.stream 3) ≠ 0 ∧
    s.cell.streams.find? (fun x => x.sid == streamSid (s.me.stream 3)) = some x ∧ x.buffer = [(0x4000, .ok 0x80)] :=
  ⟨streaming 1, ⟨5, 5, 0x4001, 0, 1, [(0x4000, .ok 0x80)], none⟩, by decide, by decide, by decide, by decide, by decide, by decide,
    by decide, by decide, by decide, by decide, by decide, by decide, by decide, by decide⟩

theorem met_StreamBlock : ∃ (s : State) (g : CellId) (x : Stream), (s.cellAt g).streams = [x] ∧ 0 < x.left ∧ 64 ≤ x.free ∧
    (s.cellAt g).zeroing = false ∧ s.RoomInSlices ∧
    s.readsWait g (2 ^ x.ew) x.next (min x.left ((64 - x.next % 64) / 2 ^ x.ew)) = false ∧ s.TcmOpen g ∧ x.next % 2 ^ x.ew = 0 ∧
    x.next + min x.left ((64 - x.next % 64) / 2 ^ x.ew) * 2 ^ x.ew ≤ 0x60000 :=
  ⟨streaming 1, 0, ⟨5, 5, 0x4001, 0, 1, [(0x4000, .ok 0x80)], none⟩, by decide, by decide, by decide, by decide, roomInSlices _ rfl,
    by decide, tcmOpen_of, by decide⟩

/-! ### Stepped operations and `AMOV` -/

def landing : Page := virtPage .landing

theorem inOpenStep_atPage (l : List (Nat × Word)) : (atPage landing l).InOpenStep := ⟨1, job [landing], rfl, rfl⟩

set_option maxRecDepth 10000 in
theorem met_SteppedStores : ∃ (s : State) (p : Page), s.Quiet ∧ s.InOpenStep ∧
    s.TargetOk (.xst (widthCode .int64)) (offsetAddr (s.w 1) (-2 : BitVec 10) (widthBytes .int64)) (widthBytes .int64) 1 p ∧
    s.TargetOk .xflag (s.w 1).toNat 8 1 p :=
  ⟨atPage landing, landing, by decide, inOpenStep_atPage _, by unfold State.TargetOk; decide, by unfold State.TargetOk; decide⟩

set_option maxRecDepth 10000 in
theorem met_SteppedAtomic : ∃ (op : Aop) (ord : Bool) (d a b : WReg) (la : Fin 16) (s : State) (p : Page), s.Quiet ∧
    s.InOpenStep ∧ op ≠ .cas ∧ s.TargetOk (.xamo op ord) (s.w a).toNat 8 2 p ∧
    s.localCheck (.xamo op ord d a b la) (s.w d).toNat 16 16 1 = .ok () ∧ s.rangeWaits (s.w d).toNat 2 = false ∧ Memory.wf s.mem = true :=
  ⟨.min, true, 3, 1, 2, 15, atPage landing [(3, 0x7EFF0)], landing, by decide, inOpenStep_atPage _, by decide,
    by unfold State.TargetOk; decide, by decide, by decide, by decide⟩

set_option maxRecDepth 10000 in
theorem met_SteppedMessage : ∃ (a : WReg) (s : State), s.Quiet ∧ s.InOpenStep ∧
    s.localCheck (.xam a) (s.w a).toNat 40 8 0 = .ok () ∧ s.marks = [] ∧ s.rangeWaits (s.w a).toNat 5 = false ∧ 64 ≤ s.cell.penLeft ∧
    s.xamBad (BitVec.ofNat 64 (s.read (tcmBase s.curCell + ownAddr s.curCell (s.w a).toNat + 8 * 0) 8)) = false :=
  ⟨3, withWords (atPage landing [(3, 0x7EFD8)]) [(0x7EFD8, 0xFC0FFF)], by decide, ⟨1, job [landing], rfl, rfl⟩, by decide⟩

/-- A page whose home is hive 1. -/
def farPage (st : PageState) : Page := { virtPage st with homes := [(1, 0)] }

set_option maxRecDepth 10000 in
theorem met_SteppedLoad : ∃ (s u v : State) (p q r : Page), s.Quiet ∧ s.misses 0 0x100010 = false ∧
    s.place 0 0x100010 = .virt 0x100010 (p.addr 0 0x100010) p ∧ s.me.dchk = false ∧
    u.Quiet ∧ u.misses 0 0x100010 = false ∧ u.place 0 0x100010 = .away 0x100010 q ∧ q.state ≠ .live ∧
    v.Quiet ∧ v.misses 0 0x100010 = false ∧ v.place 0 0x100010 = .away 0x100010 r ∧ r.state = .live ∧ v.me.dchk = false ∧
    offsetAddr (s.w 1) (0 : BitVec 6) 8 = 0x100010 :=
  ⟨atPage virtPage, atPage (farPage .frozen), atPage (farPage .live), virtPage, farPage .frozen, farPage .live, by decide⟩

/-- A result record at 0x5000, with this second doubleword, and an `XLD` of it outstanding. -/
def recorded (st : Word) : State :=
  withWords (one { strand with longs := [recordLoad] }) [(0x5000, 0x2A), (0x5008, st)]
where
  recordLoad : LongOp :=
    ⟨7, 0xFC, .xld .int64 false 4 2 0 0, 4, false, 0, 0, 0, false, false, false, false, .record 0x5000, 0, 0, false, none⟩

set_option maxRecDepth 10000 in
theorem met_RecordsRead_issue : ∃ s : State, s.Quiet ∧ offsetAddr (s.w 2) (-1 : BitVec 6) 8 % 16 = 0 ∧
    offsetAddr (s.w 2) (-1 : BitVec 6) 8 < 0x7F000 ∧ s.zeroHeld s.curCell (offsetAddr (s.w 2) (-1 : BitVec 6) 8) 16 = false ∧
    s.localCheck (.xld .int64 true 4 2 (-1) 15) (offsetAddr (s.w 2) (-1 : BitVec 6) 8) 16 16 0 = .ok () :=
  ⟨one (strand [(2, 0x7EFF8)]), by decide⟩

set_option maxRecDepth 10000 in
/-- A value, a pending record and one of each CAUSE that R246 lists. -/
theorem met_RecordsRead : ∀ x ∈ ([(0, true), (2 ^ 6, false), (5, false), (0x16, false), (0x1A, false)] : List (Word × Bool)),
    ∃ (s : State) (o : LongOp) (f : Firing), s = recorded x.1 ∧ (s.strandAt 0 0).longs = [o] ∧ o.kind = .record 0x5000 ∧
    o.result = none ∧ o.left = 0 ∧ o.dropD = false ∧ o.dest ≠ 0 ∧ (s.strandAt 0 0).held = none ∧ s.memoryWaits 0 0x5000 = false ∧ s.marks = [] ∧
    (recordRule 0x5000 (s.tcmWord 0 0x5000) (s.read (tcmBase 0 + 0x5000 + 8) 8)).map Except.isOk = some x.2 ∧
    (s.strandAt 0 0).firing = some f ∧ f.trapEnt ≠ 0 ∧ (s.strandAt 0 0).sv = false ∧ (s.strandAt 0 0).swarm = none := by
  intro x hx
  simp only [List.mem_cons, List.not_mem_nil, or_false] at hx
  obtain rfl | rfl | rfl | rfl | rfl := hx <;>
    exact ⟨_, recorded.recordLoad, firing, rfl, rfl, rfl, rfl, rfl, rfl, by decide, rfl, by decide, rfl, by decide, rfl, by decide, by decide, rfl⟩

/-- An `XST` of cell 0 to hive 0. -/
def steppedStore : SteppedOp := { (atPage landing).newStepped (.xst 3) 0x100010 0 7 0 with record := 0 }

theorem met_SteppedAccepted : ∃ (s : State) (op : SteppedOp) (j : Job), s.jobAt op.job = some j ∧ op.reduction = false ∧
    (s.strandAt op.src op.strand).longs = [] :=
  ⟨atPage landing, steppedStore, job [landing], rfl, rfl, rfl⟩

/-- `AMOV` over two doublewords of TCM. -/
def moving : State :=
  withWords (one (pointers 2 [(1, 0x5000)])) [(0x1000, 0xFFFFFFFF00000001), (0x2000, 3), (0x2008, 4), (0x5008, 10), (0x4FF8, 20)]

set_option maxRecDepth 10000 in
theorem met_AmovCompletes : ∃ (op : Aop) (ord : Bool) (a : WReg) (pa pb : PtrArg) (s s' : State), s.Quiet ∧ s.NoStores ∧
    checkPtrs [(s.me.p pa.reg, ⟨s.me.vl, 8⟩), (s.me.p pb.reg, ⟨s.me.vl, 16⟩)] = .ok () ∧ (s.w a).toNat % 8 = 0 ∧
    s.me.vl ≤ 4096 ∧ s.me.amov = none ∧ s.me.oneElement = false ∧
    s.amovFrom op (s.instrWord (.amov op ord a pa pb)) (s.w a) (s.me.p pa.reg) (s.me.p pb.reg) 0 s.me.vl = (.ok s.me.vl, s') ∧
    s'.me = s.me :=
  ⟨.add, false, 1, ⟨1, true⟩, ⟨2, true⟩, moving, _, by decide, fun p hp => absurd hp (List.not_mem_nil), by decide, by decide,
    by decide, by decide, by decide, Prod.ext (by decide) rfl, by decide⟩

set_option maxRecDepth 10000 in
theorem met_AmovElements : ∃ (op : Aop) (a : WReg) (pa pb : PtrArg) (s : State), op.isFn = false ∧ op ≠ .cas ∧
    s.AmovReady (s.me.p pa.reg) (s.me.p pb.reg) ∧ (s.w a).toNat % 8 = 0 ∧ s.me.vl = 2 ∧
    ∀ k, k < s.me.vl → s.amovAt (s.w a) (s.me.p pa.reg) k + 8 ≤ 0x60000 ∧
      (s.amovAt (s.w a) (s.me.p pa.reg) k + 8 ≤ ptrAddr (s.me.p pa.reg) ∨
        ptrAddr (s.me.p pa.reg) + s.me.vl * 4 ≤ s.amovAt (s.w a) (s.me.p pa.reg) k) ∧
      (s.amovAt (s.w a) (s.me.p pa.reg) k + 8 ≤ ptrAddr (s.me.p pb.reg) ∨
        ptrAddr (s.me.p pb.reg) + s.me.vl * 8 ≤ s.amovAt (s.w a) (s.me.p pa.reg) k) := by
  refine ⟨.min, 1, ⟨1, true⟩, ⟨2, false⟩, moving, by decide, by decide, ⟨by decide, fun p hp => absurd hp (List.not_mem_nil), rfl,
    (tcmOpen_of (s := moving) (g := 0)).2, by decide, by decide, by decide, by decide, by decide, by decide, by decide, by decide,
    by decide, by decide⟩, by decide, by decide, fun k hk => ?_⟩
  obtain rfl | rfl : k = 0 ∨ k = 1 := by
    have h : moving.me.vl = 2 := by decide
    omega
  all_goals decide

/-- One element of an `AMOV.f7` in the scratchpad: index 1 from its base, operand 3. -/
def moving7 : State :=
  let s := withWords (inJob (pointers 1 [(1, 0x7E00000000000000)]) (job [scratchPage])) [(0x1000, 1), (0x2000, 3)]
  s.setComb 0 { s.combAt 0 with fns := (s.combAt 0).fns.set 7 slotWord }

set_option maxRecDepth 10000 in
theorem met_FunctionsApplied_moved : ∃ (s : State) (i : Instr) (p : Page), i = .amov (.fn 7) false 1 ⟨1, false⟩ ⟨2, false⟩ ∧
    s.AmovReady (s.me.p 1) (s.me.p 2) ∧ s.me.vl = 1 ∧ (s.w 1).toNat % 8 = 0 ∧
    s.misses s.curCell (s.amovAt (s.w 1) (s.me.p 1) 0) = false ∧
    s.place s.curCell (s.amovAt (s.w 1) (s.me.p 1) 0) = .scratch 0 8 p ∧ p.state = .live ∧
    s.check s.curCell s.me.sv (s.instrWord i) (s.amovAt (s.w 1) (s.me.p 1) 0) 8 2 = .ok (.scratch 0 8 p) ∧
    (s.combAt 0).waiters = [] ∧ fnBad ((s.combAt 0).fns[7]) = false :=
  ⟨moving7, _, scratchPage, rfl, ⟨by decide, fun p hp => absurd hp (List.not_mem_nil), rfl,
    (tcmOpen_of (s := moving7) (g := 0)).2, by decide, by decide, by decide, by decide, by decide, by decide, by decide, by decide,
    by decide, by decide⟩, by decide, by decide, by decide, by decide, rfl, by decide, rfl, by decide⟩
/-! ### Frames -/

/-- Cell 0 with that frame instruction in its forager's queue, started, and port 1 as given; cycle `now`. -/
def framing (i : Instr) (regs : List Word) (p : Port) (now : Nat) : State :=
  { one { strand [(55, 8)] with shadow := some ⟨7, 0xFC, i, 0, Vector.replicate 8 0⟩ }
      { Cell.reset with fgQ := [entry i regs [] 0], ports := Cell.reset.ports.set 1 p } with now := now }

theorem performing_framing (i : Instr) (regs : List Word) (p : Port) (now : Nat) :
    (framing i regs p now).Performing 0 .forager (entry i regs [] 0) :=
  ⟨rfl, rfl, rfl, rfl, rfl, rfl, rfl, ⟨firing, rfl, rfl⟩, ⟨_, rfl, rfl⟩, rfl, rfl⟩

theorem tcmOpen_framing (i : Instr) (regs : List Word) (p : Port) (now : Nat) : (framing i regs p now).TcmOpen 0 := by
  refine ⟨rfl, fun a n h => ?_⟩
  have c : ((framing i regs p now).cellAt 0).strands.toList =
      [{ strand [(55, 8)] with shadow := some ⟨7, 0xFC, i, 0, Vector.replicate 8 0⟩ }, Strand.reset, Strand.reset, Strand.reset] := rfl
  have b : ((framing i regs p now).cellAt 0).banks = Vector.replicate 4 ⟨.on, 0⟩ := rfl
  have hb : Strand.reset.bound = false := by decide
  have hw : (strand [(55, 8)]).wp = 0x60000 := rfl
  simp only [Cell.closed, Cell.meetsBound, Cell.meetsGated, c, b, List.any_cons, List.any_nil, Strand.overlaps, hb, hw]
  simp
  omega

/-- Row 12,287 of bank 3, guard 34. -/
def rowWord : Word := BitVec.ofNat 64 (34 * 2 ^ 32 + 12287 * 2 ^ 16 + 3)
/-- A port with that row. -/
def rowPort (st : PortState) (at_ : Nat) (dirty : Bool := false) : Port :=
  ⟨st, 3, 12287, 34, dirty, if dirty then List.replicate 1024 9 else [], at_⟩

set_option maxRecDepth 10000 in
theorem met_FrameIssues : ∃ s u v : State, s.Quiet ∧ s.queueFull .forager = false ∧ rowWordOk (s.w 1) ∧
    u.Quiet ∧ ¬ rowWordOk (u.w 1) ∧ v.Quiet ∧ v.queueFull .forager = false ∧ (v.w 1).toNat % 64 = 0 ∧
    (v.w 1).toNat + 1024 ≤ 0x7F000 :=
  ⟨one (strand [(1, rowWord)]), one (strand [(1, 0x2230000003)]), one (strand [(1, 0x7EC00)]), by decide, by decide,
    by unfold rowWordOk; exact ⟨by decide, by decide, by decide, by decide⟩, by decide,
    by unfold rowWordOk; exact fun h => absurd h.2.2.2 (by decide), by decide, by decide, by decide, by decide⟩

set_option maxRecDepth 10000 in
theorem met_FrameStatus : ∃ (s u : State) (p q : Port), s.Quiet ∧ s.port s.curCell 1 = p ∧
    s.now < (s.frameBank (combOf s.curCell) p.bank).refreshDue ∧ s.cell.fgQ = [] ∧
    u.Quiet ∧ u.port u.curCell 1 = q ∧ q.isOpen = false ∧ u.cell.fgQ ≠ [] :=
  ⟨{ one strand { Cell.reset with ports := Cell.reset.ports.set 1 (rowPort .open 73 true) } with now := 134 },
    one strand { Cell.reset with fgQ := [entry (.fpre 0) [] [] 0] }, rowPort .open 73 true, Port.reset, by decide⟩

theorem met_FrameActivates : ∃ (s : State) (a : WReg) (en : EngEntry) (w : Word), s.Performing 0 .forager en ∧
    en.instr = .fact 1 a ∧ en.regs = [w] ∧ (s.port 0 1).isOpen = false ∧ s.otherPort 0 1 (rowBank w) = none ∧
    s.mayActivate (combOf 0) (rowBank w) (rowGuard w) = true :=
  ⟨framing (.fact 1 5) [rowWord] Port.reset 100, 5, _, rowWord, performing_framing _ _ _ _, rfl, rfl, by decide⟩

theorem met_FrameActivates_opens : ∃ s u : State, (s.port 0 1).state = .opening ∧ (s.port 0 1).actAt + 27 ≤ s.now ∧
    (u.port 0 1).state = .opening ∧ u.now < (u.port 0 1).actAt + 27 :=
  ⟨framing (.fconsA 1) [] (rowPort .opening 73) 100, framing (.fconsA 1) [] (rowPort .opening 73) 99, by decide⟩

theorem met_FrameMoves : ∃ (s u v : State) (x y z : EngEntry) (d : Word),
    (s.Performing 0 .forager x ∧ s.RowOpen 0 1 ∧ s.TcmOpen 0 ∧ x.regs = [d] ∧ d.toNat + 1024 ≤ 0x60000 ∧
      Memory.wf s.mem = true ∧ x.instr = .fconsM 1 5) ∧
    (u.Performing 0 .forager y ∧ u.RowOpen 0 1 ∧ u.TcmOpen 0 ∧ y.regs = [d] ∧ Memory.wf u.mem = true ∧
      y.instr = .fwrite 1 5) ∧
    (v.Performing 0 .forager z ∧ v.RowOpen 0 1 ∧ v.TcmOpen 0 ∧ z.regs = [d] ∧ Memory.wf v.mem = true ∧
      z.instr = .fpre 1 ∧ (v.port 0 1).actAt + 45 ≤ v.now) :=
  ⟨framing (.fconsM 1 5) [0x5FC00] (rowPort .open 73) 134, framing (.fwrite 1 5) [0x5FC00] (rowPort .open 73) 134,
    framing (.fpre 1) [0x5FC00] (rowPort .open 73) 118, _, _, _, 0x5FC00,
    ⟨performing_framing _ _ _ _, ⟨rfl, rfl, by decide⟩, tcmOpen_framing _ _ _ _, rfl, by decide, by decide, rfl⟩,
    ⟨performing_framing _ _ _ _, ⟨rfl, rfl, by decide⟩, tcmOpen_framing _ _ _ _, rfl, by decide, rfl⟩,
    ⟨performing_framing _ _ _ _, ⟨rfl, rfl, by decide⟩, tcmOpen_framing _ _ _ _, rfl, by decide, rfl, by decide⟩⟩

theorem met_FrameFeeds : ∃ (s : State) (en : EngEntry), s.Performing 0 .forager en ∧ s.RowOpen 0 1 ∧ s.TcmOpen 0 ∧
    en.instr = .fconsA 1 ∧ (s.cellAt 0).fifoA.length + 1024 ≤ 8192 :=
  ⟨framing (.fconsA 1) [] (rowPort .open 73) 134, _, performing_framing _ _ _ _, ⟨rfl, rfl, by decide⟩, tcmOpen_framing _ _ _ _, rfl,
    by decide⟩

theorem met_FrameRefreshed : ∃ (s u : State) (e : Nat), s.holders (0 * 256 + 0) 3 = [(0, 1)] ∧
    (s.frameBank (0 * 256 + 0) 3).refreshDue ≤ s.now ∧ (s.port 0 1).actAt + 45 ≤ s.now ∧
    (s.cellAt 0).transfers 1 = false ∧ Memory.wf s.mem = true ∧
    (s.port 0 1).dirty = true ∧ (u.frameBank (0 * 256 + 0) 3).refreshEnd = some e ∧ e ≤ u.now :=
  ⟨framing (.fpre 1) [] (rowPort .open 90 true) 135,
    { State.reset with combs := [(0, { Comb.reset with banks := [(3, { FrameBank.reset 0 3 with refreshEnd := some 255 })] })], now := 255 },
    255, by decide⟩

/-! ### Acknowledgements, slices and banks -/

set_option maxRecDepth 10000 in
theorem met_StorePerforms : ∃ (s u : State) (p q : PStore) (va loc : Nat), (s.cellAt 0).stores = [p] ∧
    p.kind = .store 0x7E00000000000FFE 2 7 ∧ (s.strandAt 0 p.strand).longs = [] ∧ scratchPage.state = .live ∧
    s.place 0 0x7E00000000000FFE = .scratch 0 0xFFE scratchPage ∧ Memory.wf s.mem = true ∧
    (u.cellAt 0).stores = [q] ∧ q.kind = .store 0x10001C 4 7 ∧ (u.strandAt 0 q.strand).longs = [] ∧
    u.place 0 0x10001C = .virt va loc virtPage ∧ u.memoryWaits 0 0x10001C = false ∧ u.RoomInSlices ∧ (u.hiveAt (hiveOfPhys loc)).sector loc = none ∧ loc % 32 + 4 ≤ 32 :=
  ⟨inJob strand (job [scratchPage]) { Cell.reset with stores := [⟨3, 0, 5, .store 0x7E00000000000FFE 2 7⟩] },
    { inJob strand (job [virtPage]) { Cell.reset with stores := [⟨3, 0, 5, .store 0x10001C 4 7⟩] } with now := 200 },
    ⟨3, 0, 5, .store 0x7E00000000000FFE 2 7⟩, ⟨3, 0, 5, .store 0x10001C 4 7⟩, 0x10001C, virtPage.addr 0 0x10001C, by decide,
    by decide, by decide, by decide, by decide, by decide, by decide, by decide, by decide, by decide, by decide,
    roomInSlices _ rfl, by decide, by decide⟩

theorem met_RefusedReadRetried : ∃ (s : State) (o : LongOp), (s.strandAt 0 0).run = .issuing ∧ (s.strandAt 0 0).longs = [o] ∧
    o.result = none ∧ o.atBank = false ∧ 0 < o.refusals ∧ (s.cellAt 0).stores = [] ∧ o.refusedAt + 256 ≤ s.now ∧
    ∃ op addr, o.kind = .fe op addr :=
  ⟨{ inJob { strand with longs := [{ feRead 0 with refusals := 1 }] } (job [scratchPage]) with now := 256 },
    { feRead 0 with refusals := 1 }, rfl, rfl, rfl, rfl, by decide, rfl, by decide, _, _, rfl⟩

set_option maxRecDepth 10000 in
theorem met_CachesFill : ∃ (s : State) (j : Job) (p : Page),
    (s.combAt (0 * 256 + 0)).cached.contains (s.entryKey ((s.combJob (0 * 256 + 0)).getD 0) 0 (17 * 2 ^ 16)) = false ∧
    s.jobAt 1 = some j ∧ j.homePage 0 0x10FFFF = some p ∧ s.RoomInSlices ∧
    s.fillWaits 0 j.asid 0x10FFFF (p.addr 0 0x10FFFF) = false ∧
    (∀ x ∈ (s.hiveAt 0).sectors, x.loc / 8 ≠ p.addr 0 0x10FFFF / 256) ∧ (s.hiveAt 0).remap = [] :=
  ⟨{ atPage virtPage with now := 200 }, job [virtPage], virtPage, by decide, by decide, by decide, roomInSlices _ rfl, by decide,
    by decide, by decide⟩

def bank (st : BankState) (last : Nat) (power : Word) : State :=
  { one strand { Cell.reset with banks := Cell.reset.banks.set 3 ⟨st, last⟩, tcmpwr := power } with now := 5000 }

theorem met_BanksTurn : ∃ (s u v : State) (x y z : Bank), (s.cellAt 0).banks[3] = x ∧ x.state = .waking ∧ x.lastUse + 12 ≤ s.now ∧
    (u.cellAt 0).banks[3] = y ∧ y.state = .zeroing ∧ y.lastUse + 2048 ≤ u.now ∧
    (v.cellAt 0).banks[3] = z ∧ z.state = .on ∧ (v.cellAt 0).tcmpwr.toNat / 4 ^ (3 : Fin 4).val % 4 = 1 ∧
    z.lastUse + max 1 ((v.cellAt 0).tcmpwr.toNat / 2 ^ 16 % 2 ^ 16) ≤ v.now :=
  ⟨bank .waking 4988 0, bank .zeroing 2952 0, bank .on 4999 0x40, ⟨.waking, 4988⟩, ⟨.zeroing, 2952⟩, ⟨.on, 4999⟩, by decide⟩

/-! ### Firings by themselves -/

/-- Slot 2 is READY and every strand is free. -/
def readySlot : State :=
  withWords (inJob Strand.reset (job [])) (slot2 0 1 3 ++ [(0x4020, 11), (0x4028, 12), (0x4030, 13), (0x4038, 14)])

set_option maxRecDepth 10000 in
theorem met_FiringChosen : ∃ (s : State) (x : Cand) (j : Nat), (s.strandAt 0 3).run = .free ∧ (s.cellAt 0).fenced = false ∧
    (s.cellAt 0).claims = [] ∧ pickCand (schedAgep (s.cellAt 0)) (s.cellAt 0).rrptr (s.cands 0) = some x ∧ x.resume = none ∧
    s.rangeMarked (descAddr 0 x.slot 0) 64 = false ∧ (s.cellAt 0).freePool = some j ∧ s.slotKind 0 x.slot ≠ 2 :=
  ⟨readySlot, ⟨2, none, none, 1, 0⟩, 0, by decide⟩

/-- A strand that is being bound: a start of slot 2 at ring position 1, or a resumption. -/
def binding (resume : Bool) : State :=
  withWords (inJob { Strand.reset with run := .starting resume, firing := some { firing with head := 1 }, wp := 0x60000 } (job []))
    (slot2 0 1 3 ++ [(0x4020, 11), (0x4028, 12), (0x4030, 13), (0x4038, 14), (0x60008, 5), (0x60188, 0x304)])

set_option maxRecDepth 10000 in
theorem met_FiringBound : ∃ (s u : State) (f : Firing), (s.strandAt 0 0).firing = some f ∧ (s.strandAt 0 0).run = .starting false ∧
    f.task = false ∧ s.rangeMarked (tcmBase 0 + f.input 0) 32 = false ∧ (s.cellAt 0).meetsZeroing (f.input 0) 32 = false ∧ s.badDw (tcmBase 0 + (s.strandAt 0 0).wp) = none ∧ f.prio < 4 ∧
    (u.strandAt 0 0).firing = some f ∧ (u.strandAt 0 0).run = .starting true ∧ u.marks = [] :=
  ⟨binding false, binding true, { firing with head := 1 }, by decide⟩

theorem met_StrandFreed : (one { strand with run := .leaving } |>.strandAt 0 0).run = .leaving := by decide

theorem met_WatchdogStrikes : ∃ (s : State) (t : Strand) (f : Firing), s.strandAt 0 0 = t ∧ t.run = .issuing ∧ t.left = 0 ∧
    t.sv = false ∧ t.firing = some f ∧ f.trapEnt ≠ 0 ∧ t.swarm = none ∧ t.longs = [] ∧ t.amov = none ∧ t.midPair = false :=
  ⟨one (strand [(54, 100)]), strand [(54, 100)], firing, by decide⟩

def inHandler : Strand := { strand [(50, 2), (54, 100), (55, 8)] with firing := some { firing with wdog := true } }

theorem met_WatchdogHandlerEnds : ∃ (s : State) (t : Strand) (f : Firing), s.strandAt 0 0 = t ∧ t.run = .issuing ∧ t.left = 0 ∧
    t.inWdog = true ∧ t.firing = some f ∧ f.task = false ∧ t.longs = [] ∧ t.amov = none ∧ t.midPair = false :=
  ⟨one inHandler, inHandler, { firing with wdog := true }, by decide⟩

/-- A leader parked at `SWARM.n2`, and cell 1. -/
def askingLeader (members : List (CellId × StrandId)) : Strand :=
  { strand [(1, 5), (40, 7)] with run := .parked (.swarm .n2), swarm := some ⟨0, 0, members, .n2⟩ }
def asking (members : List (CellId × StrandId)) (c : Cell) : State :=
  { State.reset with cells := [(0, { Cell.reset with strands := Cell.reset.strands.set 0 (askingLeader members) }), (1, c)] }

theorem met_ClaimGranted : ∃ (s : State) (g : CellId) (k : StrandId) (x : Claim) (r : List Claim) (j : Nat),
    (s.cellAt g).lowestFree = some k ∧ (s.cellAt g).claims = x :: r ∧ (s.cellAt g).freePool = some j ∧ x.leaderCell ≠ g :=
  ⟨asking [(0, 0)] { Cell.reset with claims := [⟨0, 0, 1⟩] }, 1, 0, ⟨0, 0, 1⟩, [], 0, by decide⟩

/-- No two strands of the cells that are not at their reset state hold one workspace, so none of any cell do. -/
theorem apart_of {s : State} (h : ∀ x ∈ s.cells, ∀ k m : StrandId, k ≠ m → (x.2.strands[k]).owns = true → (x.2.strands[m]).owns = true →
    (x.2.strands[k]).wp ≠ (x.2.strands[m]).wp) : s.WorkspacesApart := by
  have aux : ∀ c, (c = Cell.reset ∨ ∃ x ∈ s.cells, c = x.2) → ∀ k m : StrandId, k ≠ m → (c.strands[k]).owns = true →
      (c.strands[m]).owns = true → (c.strands[k]).wp ≠ (c.strands[m]).wp := by
    rintro c (rfl | ⟨x, hx, rfl⟩) k m hk ok om
    · have free : ∀ k : StrandId, (Cell.reset.strands[k]).owns = false := by decide
      rw [free k] at ok
      cases ok
    · exact h x hx k m hk ok om
  have mem : ∀ (l : List (Nat × Cell)) g, look l g = none ∨ ∃ x ∈ l, look l g = some x.2 := by
    intro l g
    induction l with
    | nil => exact .inl rfl
    | cons y l ih =>
      by_cases e : y.1 = g
      · exact .inr ⟨y, by simp, by simp [look, e]⟩
      · obtain n | ⟨x, hx, n⟩ := ih
        · exact .inl (by simpa [look, e] using n)
        · exact .inr ⟨x, by simp [hx], by simpa [look, e] using n⟩
  intro g
  refine aux (s.cellAt g) ?_
  obtain e | ⟨x, hx, e⟩ := mem s.cells g
  · exact .inl (by simp [State.cellAt, e])
  · exact .inr ⟨x, hx, by simp [State.cellAt, e]⟩

theorem met_WorkspacesStayApart : ∃ s u v : State, s.WorkspacesApart ∧ (∃ t, exec (.firingChoice 0 3) s = .next t) ∧
    u.WorkspacesApart ∧ (∃ t, exec (.swarmClaimGrant 1 0) u = .next t) ∧
    v.WorkspacesApart ∧ v.Quiet ∧ v.me.owns = true ∧ v.me.swarm = none ∧ ∃ t, exec (.mts 0x001 1) v = .next t :=
  ⟨readySlot, asking [(0, 0)] { Cell.reset with claims := [⟨0, 0, 1⟩] }, one (strand [(50, 2), (1, 0x60200)]), apart_of (by decide), ⟨_, rfl⟩,
    apart_of (by decide), ⟨_, rfl⟩, apart_of (by decide), by decide, by decide, rfl, ⟨_, rfl⟩⟩

theorem met_ParkedResumes : ∃ (s u : State) (t r : Strand), s.strandAt 0 0 = t ∧ t.run = .parked (.waitb 3) ∧ t.longs = [] ∧
    t.shadow = none ∧ t.held = none ∧ t.replay = none ∧ t.note = waitMet ∧
    u.strandAt 0 0 = r ∧ r.run = .parked (.waitb 3) ∧ r.longs = [] ∧ r.shadow = none ∧ r.held = none ∧ r.replay = none ∧
    r.note ≠ waitMet :=
  ⟨one { strand with run := .parked (.waitb 3), note := waitMet }, one { strand with run := .parked (.waitb 3) },
    { strand with run := .parked (.waitb 3), note := waitMet }, { strand with run := .parked (.waitb 3) }, by decide⟩

theorem met_SwarmForms : ∃ (s : State) (t : Strand) (w : SwarmInfo), s.strandAt 0 0 = t ∧ t.run = .parked (.swarm .n2) ∧
    t.swarm = some w ∧ w.size = .n2 ∧ w.leaderCell = 0 ∧ w.leaderStrand = 0 ∧ w.members.length = SwarmSize.n2.cells ∧
    t.swm = false ∧ t.longs = [] ∧ t.shadow = none ∧ t.held = none ∧ t.replay = none ∧ w.member 1 = some (1, 3) :=
  ⟨asking [(0, 0), (1, 3)] { Cell.reset with strands := Cell.reset.strands.set 3 { strand with run := .claimed, wp := 0x60200 } },
    askingLeader [(0, 0), (1, 3)],
    ⟨0, 0, [(0, 0), (1, 3)], .n2⟩, by decide⟩
/-! ### The fold -/

/-- A job with that page in a phase. -/
def phaseJob (p : Phase) (pages : List Page := [landing]) : Job := { job pages with phase := p }

/-- Strand 0 is parked at `FOLD`. -/
def folded : Strand := { strand with run := .folded }

set_option maxRecDepth 10000 in
theorem met_StepSealed : ∃ (s u : State) (j k : Job), s.jobAt 1 = some j ∧ j.phase = .open ∧ j.ended = false ∧ j.stopped = false ∧
    s.anyFolded j = true ∧ (j.cells.all fun g => s.cellQuiet g) = true ∧ s.nothingWaits j = true ∧ j.gather = none ∧
    u.jobAt 1 = some k ∧ u.anyFolded k = true ∧ (k.cells.all fun g => u.cellQuiet g) = true ∧ u.nothingWaits k = true ∧
    k.gather = some (u.totals k) ∧ (u.totals k).1 = (u.totals k).2 :=
  ⟨inJob folded (job []), inJob folded { job [] with gather := some (0, 0) }, job [], { job [] with gather := some (0, 0) }, by decide⟩

/-- The job applies an entry of its one hive. -/
def applyJob (op : SteppedOp) : Job := { phaseJob .apply with pen := [(0, op)] }
def applying (op : SteppedOp) : State := inJob folded (applyJob op)

set_option maxRecDepth 10000 in
theorem met_EntryApplied : ∃ (s : State) (j : Job) (op : SteppedOp) (p : Page), s.jobAt 1 = some j ∧ j.phase = .apply ∧ j.hives = [0] ∧
    j.doneHives = [] ∧ j.stopped = false ∧ j.partials = [] ∧ j.pen = [(0, op)] ∧ j.badPen = [] ∧ op.job = 1 ∧ op.kind = .xst 3 ∧
    j.homePage 0 op.target = some p ∧ s.Uncached ∧ Memory.wf s.mem = true :=
  ⟨applying steppedStore, applyJob steppedStore, steppedStore, landing, rfl, rfl, rfl, rfl, rfl, rfl, rfl, rfl, rfl, rfl, by decide,
    ⟨rfl, fun _ => ⟨rfl, rfl⟩⟩, by decide⟩

/-- An ordered compare and swap at the same place. -/
def steppedCas : SteppedOp := { steppedStore with kind := .xamo .cas true, record := 0x5000 }

set_option maxRecDepth 10000 in
theorem met_AtomicApplied : ∃ (s : State) (j : Job) (op : SteppedOp) (p : Page) (o : Aop) (ord : Bool), s.jobAt 1 = some j ∧
    j.phase = .apply ∧ j.hives = [0] ∧ j.doneHives = [] ∧ j.stopped = false ∧ j.partials = [] ∧ j.pen = [(0, op)] ∧ j.badPen = [] ∧ op.job = 1 ∧
    op.kind = .xamo o ord ∧ o.isFn = false ∧ (s.hiveAt 0).rev ≠ 1 ∧ j.homePage 0 op.target = some p ∧ s.Uncached ∧
    Memory.wf s.mem = true ∧ j.xamoResults = [] :=
  ⟨applying steppedCas, applyJob steppedCas, steppedCas, landing, .cas, true, rfl, rfl, rfl, rfl, rfl, rfl, rfl, rfl, rfl, rfl, rfl,
    by decide, by decide, ⟨rfl, fun _ => ⟨rfl, rfl⟩⟩, by decide, rfl⟩

/-- A reduction page whose home is hive 9. -/
def reducing : Page := { virtPage .landing with base := 0x00FE000000000000, homes := [(9, 0)] }
def partials (l : List Partial) : Job := { phaseJob .apply [reducing] with hives := [0, 1, 9], partials := l }

set_option maxRecDepth 10000 in
theorem met_PartialMoves : ∃ (s u : State) (j k : Job) (p q : Partial) (t : Nat), s.jobAt 1 = some j ∧ j.phase = .apply ∧ p.hive = 0 ∧
    p.target = t ∧ 0 ≠ j.homeOf t ∧ j.partials = [p] ∧ s.nextHop 0 (j.homeOf t) ≠ j.homeOf t ∧
    u.jobAt 1 = some k ∧ k.phase = .apply ∧ ({ p with hive := 1 } : Partial).target = t ∧ 1 ≠ k.homeOf t ∧
    k.partials = [{ p with hive := 1 }, q] ∧ q.hive = u.nextHop 1 (k.homeOf t) ∧ q.target = t ∧ q.low ≤ p.low ∧
    u.nextHop 1 (k.homeOf t) = k.homeOf t ∧ q.hive ≠ 1 :=
  ⟨inJob folded (partials [⟨0, 0x00FE000000000008, 5, 9⟩]),
    inJob folded (partials [⟨1, 0x00FE000000000008, 5, 9⟩, ⟨9, 0x00FE000000000008, 7, 9⟩]),
    partials [⟨0, 0x00FE000000000008, 5, 9⟩], partials [⟨1, 0x00FE000000000008, 5, 9⟩, ⟨9, 0x00FE000000000008, 7, 9⟩],
    ⟨0, 0x00FE000000000008, 5, 9⟩, ⟨9, 0x00FE000000000008, 7, 9⟩, 0x00FE000000000008, by decide⟩

/-- Hive 0 has lost these links of its own. -/
def cut (l : List Nat) : State := { State.reset with hives := [(0, { Hive.reset with offLinks := l })] }

/-- Where hive 0 sends packets for hive 1 of its row and for hive 9, across the mesh, with its link to hive 1 lost, with that to hive 8
lost as well, and with none lost. -/
theorem met_RoutesTaken : (State.reset.linkWorks 0 1 = true ∧ State.reset.linkWorks 1 9 = true) ∧
    ((cut [0]).linkWorks 0 1 = false ∧ (cut [0]).linkWorks 0 8 = true ∧ (cut [0]).linkWorks 8 9 = true) ∧
    ((cut [0]).linkWorks 0 2 = true ∧ (cut [0]).linkWorks 2 1 = true) ∧
    ((cut [14]).hiveAt 0).offLinks = [14] := by decide

theorem met_RequestsTaken : ∃ p q r : Page, p.request = none ∧ q.request = some ⟨.live, .add, 5, 0⟩ ∧
    q.state = .frozen ∧ r.request = some ⟨.landing, .unique, 0, 0⟩ ∧ r.state = .live :=
  ⟨virtPage, { virtPage .frozen with request := some ⟨.live, .add, 5, 0⟩ }, { virtPage with request := some ⟨.landing, .unique, 0, 0⟩ },
    by decide⟩

def doneJob (p : Phase) : Job := { phaseJob p with doneHives := [0] }

theorem met_FoldPhases : ∃ (s u : State) (j k : Job), s.jobAt 1 = some j ∧ j.allDone = true ∧ j.stopped = false ∧ j.phase = .apply ∧
    j.group = 0 ∧ u.jobAt 1 = some k ∧ k.allDone = true ∧ k.stopped = false ∧ k.phase = .install :=
  ⟨inJob folded (doneJob .apply), inJob folded (doneJob .install), doneJob .apply, doneJob .install, rfl, by decide, rfl, rfl, rfl, rfl,
    by decide, rfl, rfl⟩

def installJob : Job := { phaseJob .install with xamoResults := [⟨0, 0x7EFF0, 5, 0⟩] }

set_option maxRecDepth 10000 in
theorem met_HiveInstalls : ∃ (s : State) (j : Job) (r : XamoResult), s.jobAt 1 = some j ∧ j.phase = .install ∧ j.hives = [0] ∧
    j.doneHives = [] ∧ j.stopped = false ∧ j.xamoResults = [r] ∧ hiveOf r.cell = 0 ∧
    (s.cellAt r.cell).meetsZeroing r.record 16 = false ∧ s.storesHeld j 0 = false ∧ j.xamList = [] ∧ (s.hiveAt 0).sorted = [] ∧
    j.homePage 0 statusPage = none ∧ Memory.wf s.mem = true ∧ j.cells.Nodup :=
  ⟨inJob folded installJob, installJob, ⟨0, 0x7EFF0, 5, 0⟩, rfl, rfl, rfl, rfl, rfl, rfl, rfl, by decide, by decide, rfl, rfl, by decide, by decide, by decide⟩

theorem met_StepReleased : ∃ (s : State) (j : Job) (t : Strand), s.jobAt 1 = some j ∧ j.phase = .installed ∧ j.stopped = false ∧
    j.cells = [0] ∧ j.figures.redAborted = false ∧ s.strandAt 0 0 = t ∧ t.run = .folded ∧ t.longs = [] ∧ t.shadow = none ∧
    t.held = none ∧ t.replay = none ∧ ∀ k', k' ≠ 0 → (s.strandAt 0 k').run = .free :=
  ⟨inJob folded (phaseJob .installed), phaseJob .installed, folded, rfl, rfl, rfl, rfl, rfl, rfl, rfl, rfl, rfl, rfl, rfl, by decide⟩

def replicaOf (p : Phase) : Job := { phaseJob p with group := 5 }

theorem met_DigestMissing : ∃ (s : State) (j o : Job), s.jobs = [(1, j), (2, o)] ∧ j.group = o.group ∧ j.group ≠ 0 ∧
    j.phase = .applied ∧ o.phase = .apply ∧ j.halted = none ∧ o.halted = none ∧ j.differed = false ∧ o.differed = false ∧ j.ended = false ∧ o.ended = false ∧ j.undo = [] ∧
    o.undo = [] ∧ o.lateRoots = [] ∧ j.appliedAt + 2 ^ 24 ≤ s.now :=
  ⟨{ State.reset with jobs := [(1, replicaOf .applied), (2, replicaOf .apply)], now := 2 ^ 24 }, replicaOf .applied, replicaOf .apply,
    rfl, rfl, by decide, rfl, rfl, rfl, rfl, rfl, rfl, rfl, rfl, rfl, rfl, rfl, by decide⟩

/-- Every strand of cell 0 is parked at `FOLD` for another slot, and slot 2 is READY. -/
def stalling (since : Option Nat) : State :=
  { withWords (inJob { folded with firing := some { firing with slot := 3 } } { job [] with stallSince := since } { Cell.reset with
      strands := Vector.replicate 4 { folded with firing := some { firing with slot := 3 } } }) (slot2 0 1 3) with now := 2 ^ 20 }

set_option maxRecDepth 10000 in
theorem met_StallHalts : ∃ (s u : State) (j k : Job), s.jobAt 1 = some j ∧ j.phase = .open ∧ j.ended = false ∧ j.stopped = false ∧
    j.halted = none ∧ 0 ∈ j.hives ∧ s.stalls j = true ∧ j.stallSince = some 0 ∧ 0 + 2 ^ 20 ≤ s.now ∧
    u.jobAt 1 = some k ∧ k.phase = .open ∧ 0 ∈ k.hives ∧ u.stalls k = true ∧ k.stallSince = none :=
  ⟨stalling (some 0), stalling none, { job [] with stallSince := some 0 }, job [], by decide⟩

/-! ### The service network and the debugger -/

theorem met_ServiceWrites : tcmpwrBad 0x00100002 = false ∧ (0x00100002 : Word).toNat / 4 ^ (0 : Fin 4).val % 4 = 2 ∧
    (Cell.reset.tcmpwr.toNat / 4 ^ (0 : Fin 4).val % 4 ≠ 2) ∧ State.reset.bankServes 0 (0 : Fin 4) = false ∧
    (0x00100002 : Word).toNat / 4 ^ (1 : Fin 4).val % 4 = Cell.reset.tcmpwr.toNat / 4 ^ (1 : Fin 4).val % 4 ∧
    tcmpwrBad 0x80 = true ∧ schedcfgOk 0x880004 = true ∧ schedcfgOk 0x780004 = false := by decide

/-- The strand awaits the drover after a message of this kind. -/
def awaiting (kind : Nat) (tr : Option Trap) : State :=
  one { strand [(58, 6), (59, 0x204)] with run := .awaiting kind tr }

theorem met_DroverVerbs : ∃ (s u : State) (f : Firing) (x : Trap), (s.strandAt 0 0).run = .awaiting 0 none ∧
    (s.strandAt 0 0).firing = some f ∧ (s.strandAt 0 0).afterWatchdog = false ∧ f.task = false ∧ (s.at 0 0).drained = true ∧
    (u.strandAt 0 0).run = .awaiting 1 (some x) ∧ (u.strandAt 0 0).firing = some f ∧ x.cause ≠ .watchdog ∧ f.trapEnt ≠ 0 ∧
    (u.strandAt 0 0).sv = false ∧
    ∃ v : State, (v.strandAt 0 0).run = .awaiting 0 none ∧ (v.strandAt 0 0).firing = some f ∧ (v.at 0 0).drained = false :=
  ⟨awaiting 0 none, awaiting 1 (some ⟨.access, 1, 0, 0, 0, 0⟩), firing, ⟨.access, 1, 0, 0, 0, 0⟩, by decide, by decide, by decide, by decide, by decide,
    by decide, by decide, by decide, by decide, by decide, one { strand with run := .awaiting 0 none, longs := [division 0] }, by decide⟩

theorem met_DebuggerAccess : ∃ (s : State) (off own : Nat), s.cellExists 0 = true ∧
    ({ s with combsPerDie := 14 } : State).cellExists 4095 = false ∧
    off < 2 ^ 19 ∧ off % 8 = 0 ∧ (s.cellAt 0).boundAt off = none ∧
    (s.cellAt 0).meetsGated off 8 = false ∧ (s.cellAt 0).meetsZeroing off 8 = false ∧ s.marked (tcmBase 0 + off) = false ∧ (s.cellAt 0).meetsBound off 8 = false ∧
    Memory.wf s.mem = true ∧ own < 2 ^ 19 ∧ own % 8 = 0 ∧ (s.cellAt 0).boundAt own = some strand ∧
    own = strand.wp + 8 * (63 : Fin 64).val ∧ (s.cellAt 0).meetsBound own 8 = true :=
  ⟨one strand, 0x7FFF8, 0x601F8, by decide⟩

/-! ### The host, the drovers, power and boot -/

/-- Hive 0, ready. -/
def ready (h : Hive := Hive.reset) : State :=
  { State.reset with hives := [(0, { h with stage := 6, endpoint := true, hrsize := 64, hrtail := 1 })] }

/-- A transfer of 32 bytes of TYPE `t` at the end of hive 0's LPDDR6. -/
def transfer (t : Nat) : List Word := [BitVec.ofNat 64 (t * 2 ^ 62 + 2 ^ 61 + 32), 0xFDFFFFFFE0, 0, 0, 0, 0, 0, 9]

/-- Every slice and controller delivers its data where hive 0 alone is not at its reset state and mutes nothing. -/
theorem mutes_of {s : State} {x : Hive} (h : s.hives = [(0, x)]) (m : x.mutes = []) (n : Nat) : (s.hiveAt n).mutes = [] := by
  by_cases e : n = 0
  · subst e; simp [State.hiveAt, h, look, m]
  · simp [State.hiveAt, h, look, Ne.symm e, Hive.reset]

theorem met_HostTransfers : ∃ (s u : State) (d e f : List Word) (data : List Byte) (x : HostJob), (∀ h, (s.hiveAt h).mutes = []) ∧
    s.bridgeReady 0 = true ∧ (s.hiveAt 0).ringHas = true ∧ descType f = 0 ∧ (({ State.reset with hives := [(0, Hive.reset)] } : State).hiveAt 0).ringHas = false ∧
    s.transferOk 0 d = true ∧ data.length = transferLen d ∧ Memory.wf s.mem = true ∧ s.transferOk 1 e = true ∧ s.marks = [] ∧
    s.transferOk 0 f = false ∧ u.bridgeReady 0 = true ∧ (u.hiveAt 0).hostJobs = [x] ∧ x.kind ≠ 2 :=
  ⟨ready, ready { Hive.reset with hostJobs := [⟨0, 0, transfer 0, [], 0⟩] }, transfer 0, transfer 1, transfer 0 ++ [1] |>.set 1 (2 ^ 40), List.replicate 32 7,
    ⟨0, 0, transfer 0, [], 0⟩, mutes_of rfl rfl, by decide⟩

/-- A message of the host for slot 2 of cell 0. -/
def hostWords : List Word := [BitVec.ofNat 64 (2 * 2 ^ 62), 0x80000, 1, 2, 3, 4, 0, 9]
def hosting (l : List HostJob) : State := { withWords firingState (slot2 1 1 3) with hives := [(0, { Hive.reset with stage := 6, endpoint := true, hrsize := 64, hrtail := 1, hostJobs := l })] }

set_option maxRecDepth 10000 in
theorem met_HostMessages : ∃ (s u : State) (d : List Word) (x : HostJob) (j : Nat × Job), s.bridgeReady 0 = true ∧
    (s.hiveAt 0).ringHas = true ∧ s.hostMessageOk d = true ∧ (u.hiveAt 0).hostJobs = [x] ∧ x.kind = 2 ∧ x.d = d ∧ u.jobOf (hostDst d) = some j ∧ j.2.phase = .open ∧
    (u.cellAt (hostDst d)).fenced = false ∧ u.arrivalFails (hostInput d) false = false ∧
    (u.hiveAt (hiveOf (hostDst d))).waitingFor (hostDst d) (hostSlot d) = [] ∧
    (u.hiveAt (hiveOf (hostDst d))).blocked (hostInput d) = false ∧ u.ringFull (hostDst d) (hostSlot d) = false ∧ u.arrivalWaits (hostInput d) = false ∧
    u.slotQbase (hostDst d) (hostSlot d) + 32 * 2 ^ u.slotQlog (hostDst d) (hostSlot d) ≤ 0x7F000 ∧ Memory.wf u.mem = true :=
  ⟨hosting [], hosting [⟨2, 0, hostWords, [], 0⟩], hostWords, ⟨2, 0, hostWords, [], 0⟩, (1, job []), by decide⟩

/-- Drover memory of hive 0: a job at 0x100 with one cell, its stage at 0x200, an actor at 0x300 of two instances of the image at
0x1000, which is one bundle with RATE 1 and DEFDL 100. -/
def runTree : List (Nat × Word) :=
  [(0x100, BitVec.ofNat 64 (2 ^ 62 + 31 * 2 ^ 56)), (0x108, 1), (0x110, 0x10000), (0x118, 0), (0x200, BitVec.ofNat 64 (2 * 2 ^ 62 + 0x100)),
   (0x300, BitVec.ofNat 64 (3 * 2 ^ 62 + 0x200)), (0x320, BitVec.ofNat 64 (2 * 2 ^ 20)), (0x328, 0x1000),
   (0x1000, BitVec.ofNat 64 (2 ^ 48 + 3 * 2 ^ 32 + 0x49414D4B)), (0x1008, 8), (0x1018, BitVec.ofNat 64 (100 * 2 ^ 16 + 1))]

/-- The planner's choices for that job: code at 0x300, rings at 0x4000 and 0x4020, no granted bank. -/
def launchPlan : LaunchPlan where
  asid := 1
  hives := [0]
  actors := [0x300]
  names := []
  spots := [⟨0, 0, 0x300, 0x400, 0x4000, 0⟩, ⟨0, 1, 0x300, 0x400, 0x4020, 0⟩]
  cells := [⟨0, 1, 2, 3, 4, [], schedcfgReset + 2⟩]
  pages := [page statusPage (2 ^ 63) .frozen]

/-- JOBCTL's verb 1 has been written in a hive with that run tree. -/
def launching (d1 : Word) : State :=
  runTree.foldl (fun s x => s.droverWrite 0 x.1 (toBytes x.2.toNat 8))
    { State.reset with hives := [(0, { Hive.reset with stage := 6, launch := [0x100, d1, 0, 0], jobctlStatus := 2, jobctlVerb := 1 })] }

/-- What precedes every launch. -/
def preLaunch (s : State) (p : LaunchPlan) : State := p.hives.foldl (fun s h => (s.returnCells h).retireUnits h) s

/-- No actor in the plan, no status page, and two replicas asked for with one plan. -/
theorem met_JobLaunched_refused : ∃ (s u : State) (p q : LaunchPlan), (s.hiveAt 0).stage = 6 ∧ (s.hiveAt 0).jobctlStatus = 2 ∧
    (s.hiveAt 0).jobctlVerb = 1 ∧ (preLaunch s p).buildPlan 0 (launchRcb (s.hiveAt 0).launch) p = none ∧
    (((preLaunch s q).buildPlan 0 (launchRcb (s.hiveAt 0).launch) q).map fun pl =>
      (preLaunch s q).planOk (launchAllowOld (s.hiveAt 0).launch) pl) = some false ∧
    (u.hiveAt 0).stage = 6 ∧ (u.hiveAt 0).jobctlStatus = 2 ∧ (u.hiveAt 0).jobctlVerb = 1 ∧ launchRepl (u.hiveAt 0).launch ≠ 1 :=
  ⟨launching 0, launching 8, { launchPlan with actors := [] }, { launchPlan with pages := [] }, by decide +kernel⟩

theorem met_JobLaunched : ∃ (s u : State) (p : LaunchPlan), (s.hiveAt 0).stage = 6 ∧ (s.hiveAt 0).jobctlStatus = 2 ∧
    (s.hiveAt 0).jobctlVerb = 1 ∧ launchBad (s.hiveAt 0).launch = false ∧ launchRepl (s.hiveAt 0).launch = 1 ∧
    (((p.hives.foldl (fun s h => (s.returnCells h).retireUnits h) s).buildPlan 0 (launchRcb (s.hiveAt 0).launch) p).any fun pl =>
      (p.hives.foldl (fun s h => (s.returnCells h).retireUnits h) s).planOk (launchAllowOld (s.hiveAt 0).launch) pl) = true ∧
    (u.hiveAt 0).stage = 6 ∧ (u.hiveAt 0).jobctlStatus = 2 ∧ (u.hiveAt 0).jobctlVerb = 1 ∧ launchBad (u.hiveAt 0).launch = true :=
  ⟨launching 0, launching 4, launchPlan, by decide +kernel⟩

/-- JOBCTL's verb for job 1 has been written in hive 0. -/
def controlling (verb : Nat) (halted : Option Nat) : State :=
  { inJob strand { job [] with halted := halted, stopped := halted.isSome } with
    hives := [(0, { Hive.reset with stage := 6, jobctlJob := 1, jobctlVerb := verb, jobctlStatus := 2 })] }

theorem met_JobControlled : ∃ (s u v : State) (j k : Job), (s.hiveAt 0).stage = 6 ∧ (s.hiveAt 0).jobctlStatus = 2 ∧
    (s.hiveAt 0).jobctlVerb = 2 ∧ (u.hiveAt 0).jobctlStatus = 2 ∧ (u.hiveAt 0).jobctlVerb = 2 ∧ (v.hiveAt 0).stage = 6 ∧
    (v.hiveAt 0).jobctlStatus = 2 ∧ (v.hiveAt 0).jobctlVerb = 3 ∧ v.jobsNumbered (v.hiveAt 0).jobctlJob = [1] ∧ v.jobAt 1 = some k ∧
    s.jobsNumbered (s.hiveAt 0).jobctlJob = [1] ∧
    s.jobAt 1 = some j ∧ j.halted.isSome = true ∧ s.jobWhole j = true ∧ s.routeUsers = [] ∧ (u.hiveAt 0).stage = 6 ∧ u.jobsNumbered (u.hiveAt 0).jobctlJob = [1] ∧
    u.jobAt 1 = some k ∧ k.halted = none ∧ ({ s with cells := [] } : State).jobWhole j = false :=
  ⟨controlling 2 (some 3), controlling 2 none, controlling 3 none, { job [] with halted := some 3, stopped := true }, job [], by decide⟩

theorem met_ManagementRegisters : ((controlling 4 none).hiveAt 0).stage = 6 ∧ ((controlling 4 none).hiveAt 0).jobctlStatus = 2 ∧
    ((controlling 4 none).hiveAt 0).jobctlVerb = 4 ∧ (ready.hiveAt 0).stage = 6 ∧ (ready.hiveAt 0).jobctlStatus ≠ 2 ∧ (0x0100000000000003 : Word).toNat % 16 = 3 ∧
    600 ≤ (600 : Word).toNat % 2 ^ 16 ∧ (600 : Word).toNat % 2 ^ 16 ≤ 1500 ∧
    (({ State.reset with hives := [(0, { Hive.reset with stage := 15 })] } : State).hiveAt 0).stage = 15 ∧
    (State.reset.hiveAt 0).stage ≠ 6 := by decide

theorem met_JobStops : ∃ (s u : State) (j k : Job), s.jobAt 1 = some j ∧ j.ended = false ∧ j.halted = none ∧ j.stopped = false ∧
    u.jobAt 1 = some k ∧ k.ended = false ∧ k.halted = none ∧ u.jobStopped k = true ∧ u.routeUsers = [] :=
  ⟨inJob strand (job []), inJob strand { job [] with stopped := true }, job [], { job [] with stopped := true }, by decide⟩

theorem met_SpareTakesOver : ∃ (s : State) (g : CellId), s.unitIdle (.cell g) = true ∧ (s.cellAt g).job = none ∧ g < 2 ^ 18 ∧
    (s.hiveAt (hiveOf g)).used (.comb (hiveOf g) (combIndex g)) < 2 :=
  ⟨{ one strand { Cell.reset with fenced := true } with hives := [(0, { Hive.reset with sparesUsed := [(.comb 0 0, 1)] })] }, 0, by decide⟩

/-- Cell 0 in a job with a slot, with that many probes missed. -/
def probed (n : Nat) : State :=
  { inJob strand (job []) { Cell.reset with slots := [(2, SlotDyn.empty 2)] } with
    hives := [(0, { Hive.reset with missedProbes := if n = 0 then [] else [(0, n)] })] }

/-- No strand of a small state of one cell is parked at `SWARM`. -/
theorem noSwarm_probed (n : Nat) (c : CellId) (k : StrandId) (z : SwarmSize) : ((probed n).strandAt c k).run ≠ .parked (.swarm z) := by
  by_cases h : c = 0
  · subst h; fin_cases k <;> simp [probed, inJob, one, strand, State.strandAt, State.cellAt, look, Strand.reset, Cell.reset]
  · have : (probed n).cellAt c = Cell.reset := by
      simp only [probed, inJob, one, State.cellAt, look]
      simp [Ne.symm h]
    simp only [State.strandAt, this]
    fin_cases k <;> simp [Cell.reset, Strand.reset]

theorem met_ProbesFence : ∃ (s u : State) (j : Job), (s.cellAt 0).fenced = false ∧ (∀ c k n, (s.strandAt c k).run ≠ .parked (.swarm n)) ∧
    look (s.hiveAt (hiveOf 0)).missedProbes 0 = none ∧ (u.cellAt 0).fenced = false ∧
    (∀ c k n, (u.strandAt c k).run ≠ .parked (.swarm n)) ∧ look (u.hiveAt (hiveOf 0)).missedProbes 0 = some 1 ∧
    (u.cellAt 0).job = some 1 ∧ (u.cellAt 0).slots ≠ [] ∧ u.jobAt 1 = some j ∧ j.halted = none ∧ j.ended = false :=
  ⟨probed 0, probed 1, job [], by decide, noSwarm_probed 0, by decide, by decide, noSwarm_probed 1, by decide, by decide,
    by decide, rfl, rfl, rfl⟩

theorem met_LinksAndHives : ∃ (s u : State) (j : Job), (s.hiveAt 0).policy 2 % 2 = 0 ∧ u.jobs = [(1, j)] ∧ 0 ∈ j.hives ∧
    j.halted = none ∧ j.ended = false :=
  ⟨ready { Hive.reset with fltpol := [0, 0, 0, 0] }, inJob strand (job []), job [], by decide, rfl, by decide, rfl, rfl⟩

/-- A hive in a stage of boot. -/
def atStage (n : Nat) : Hive := { Hive.reset with stage := n, linked := true, svn := 4 }
/-- Maps in which a spare cell of hive 0 stands in for a cell. -/
def mapsOf (ok : Bool) : BootMaps := ⟨ok, [(.cell 5, 64)], [7], [], [], 1⟩
def booting (n : Nat) : State := { State.reset with hives := [(0, atStage n)] }

def mapped (ok : Bool) : State := { State.reset with hives := [(0, { atStage 3 with maps := mapsOf ok })] }

/-- The verification of the images always ends stage 2. -/
theorem bootRule_image (s : State) (h : Hive) (e : h.stage = 2) : (s.bootRule h (.imageVerification 0 (s.counterOk 0)
    (imageOf (s.slotBytesOf 0 0)) (imageOf (s.slotBytesOf 0 1)))).isSome = true := by
  simp only [State.bootRule, e, ne_eq, not_true_eq_false, or_self, if_false]
  split
  · rfl
  · split
    · rfl
    · split <;> rfl

/-- Every stage of boot that ends by itself does so. -/
theorem met_BootStages : ((booting 0).bootRule (atStage 0) (.powerOn 0)).map Hive.stage = some 1 ∧
    ((booting 1).bootRule (atStage 1) (.pufEvaluation 0 true)).map Hive.stage = some 2 ∧
    ((booting 1).bootRule (atStage 1) (.pufEvaluation 0 false)).map Hive.code = some 4 ∧
    ((booting 2).bootRule (atStage 2) (.imageVerification 0 ((booting 2).counterOk 0)
      (imageOf ((booting 2).slotBytesOf 0 0)) (imageOf ((booting 2).slotBytesOf 0 1)))).isSome = true ∧
    ((booting 5).bootRule (atStage 5) (.linkTraining 0 true)).map Hive.endpoint = some true ∧
    ((booting 5).bootRule (atStage 5) (.linkTraining 0 false)).map Hive.code = some 7 ∧
    ((booting 6).bootRule (atStage 6) (.linkTraining 0 true)).map Hive.endpoint = some true ∧
    ((mapped true).hiveAt 0).stage = 3 ∧ ((mapped true).hiveAt 0).maps = mapsOf true ∧ (mapsOf true).wellFormed = true ∧
    (∀ u ∈ (mapsOf true).units, unitHive u.1 = 0) ∧ ((mapped false).hiveAt 0).stage = 3 ∧
    ((mapped false).hiveAt 0).maps = mapsOf false ∧ (mapsOf false).wellFormed = false ∧ ((booting 5).hiveAt 0).stage = 5 ∧ ((booting 5).hiveAt 0).linked = true ∧
    ((booting 15).hiveAt 0).stage = 15 :=
  ⟨by decide, by decide, by decide, bootRule_image _ _ rfl,
    by decide, by decide, by decide, by decide, by decide, by decide, by decide, by decide, by decide, by decide, by decide,
    by decide, by decide⟩

theorem met_MemoriesCleared : ∃ (s u : State) (hive : Nat), hive < 64 ∧ (s.hiveAt hive).stage = 4 ∧ (u.hiveAt hive).stage ≠ 0 :=
  ⟨{ State.reset with hives := [(63, atStage 4)] }, { State.reset with hives := [(63, atStage 6)] }, 63, by decide⟩

theorem met_PowerAndHeat : ∃ (s u : State) (h k : Hive) (j : Job), s.hiveAt 0 = h ∧ h.stage = 6 ∧ h.periodAt + 2 ^ 16 ≤ s.now ∧ h.sampledAt + 2 ^ 16 ≤ s.now ∧ h.hot = false ∧ h.cap < 1501 ∧
    h.clock < 4 ∧ h.alarm = false ∧ s.jobs = [(1, j)] ∧ 0 ∈ j.hives ∧ j.halted = none ∧ j.ended = false ∧
    (∀ x ∈ s.hives, x.2.stallUntil ≤ s.now) ∧ u.hives = [(0, k)] ∧ k.powerDownAt = some 9 ∧ 9 ≤ u.now ∧ u.jobs = [] :=
  ⟨{ booting 6 with jobs := [(1, job [])], now := 2 ^ 16 },
    { State.reset with hives := [(0, { atStage 6 with powerDownAt := some 9 })], now := 9 },
    atStage 6, { atStage 6 with powerDownAt := some 9 }, job [], rfl, rfl, by decide, by decide, rfl, by decide, by decide, rfl, rfl,
    by decide, rfl, rfl, by decide, rfl, rfl, by decide, rfl⟩

/-! ### Encoding and the machine as a whole -/

theorem met_RoundTrip : ∃ i : Instr, i.isWord = true ∧ i.wf = true := ⟨.bext 31 1 64 63, by decide⟩

theorem met_AcceptedWords : ∃ (w : Nat) (i : Instr), decodeWord 3 w = .ok i := ⟨0x43FFFFFF, .li 31 (-1), by decide⟩

theorem met_UnallocatedMajors : (fld 0x6B000000 30 30 = 1 ∧ fld 0x6B000000 29 24 = 0x2B) ∧
    (fld 0x6F000000 30 30 = 1 ∧ fld 0x6F000000 29 24 = 0x2F) ∧ (fld 0x37000000 30 30 = 0 ∧ fld 0x37000000 29 24 = 0x37) ∧
    (fld 0x3D000000 30 30 = 0 ∧ fld 0x3D000000 29 24 = 0x3D) := by decide

/-- A row of the SYS major, the last minor with an IMM12 too large, and a minor that is not allocated. -/
theorem met_SysMajor : (∃ (w : Nat) (i : Instr), major 0 0 w ∧ sysRow (fld w 23 19) (fld w 18 14) (fld w 13 12) (fld w 11 0) = some i) ∧
    (∃ w : Nat, major 0 0 w ∧ sysRow (fld w 23 19) (fld w 18 14) (fld w 13 12) (fld w 11 0) = none) ∧
    ∃ w : Nat, major 0 0 w ∧ sysRow (fld w 23 19) (fld w 18 14) (fld w 13 12) (fld w 11 0) = none :=
  ⟨⟨4 * 2 ^ 19, .done, by unfold major; decide⟩, ⟨9 * 2 ^ 19 + 3, by unfold major; decide⟩, ⟨11 * 2 ^ 19, by unfold major; decide⟩⟩

/-- The last FN and FMT of each part of the integer group, and the bounds of the other majors. -/
theorem met_IntegerMajors : (∃ w : Nat, ∃ x ∈ intGroup, major 1 0 w ∧ fld w 4 0 = x.1 ∧ fld w 8 5 < 4) ∧
    (∃ w : Nat, ∃ x ∈ unaryGroup, major 1 0 w ∧ fld w 4 0 = x.1 ∧ fld w 8 5 < 4 ∧ fld w 13 9 = 0) ∧
    (∃ w : Nat, major 1 0 w ∧ 4 ≤ fld w 8 5) ∧ (∃ w : Nat, major 1 0 w ∧ fld w 4 0 = 19) ∧ (∃ w : Nat, major 1 0 w ∧ 24 ≤ fld w 4 0) ∧
    (∃ w : Nat, major 1 0 w ∧ fld w 4 0 = 20 ∧ fld w 13 9 ≠ 0) ∧ (∃ w : Nat, major 1 2 w ∧ fld w 8 5 = 3) ∧
    (∃ w : Nat, major 1 1 w ∧ fld w 8 5 = 4) ∧ (∃ w : Nat, major 1 0x0D w ∧ fld w 13 11 = 7) ∧
    (∃ w : Nat, major 1 0x05 w ∧ fld w 13 11 = 6) ∧ (∃ w : Nat, major 1 0x0C w ∧ fld w 13 11 = 4) ∧
    ∃ w : Nat, major 1 0x09 w ∧ fld w 13 11 = 3 ∧ fld w 10 0 = 63 := by
  refine ⟨⟨2 ^ 30 + 3 * 2 ^ 5 + 18, (18, .mulhz), ?_⟩, ⟨2 ^ 30 + 23, (23, .bswap), ?_⟩, ⟨2 ^ 30 + 4 * 2 ^ 5, ?_⟩, ⟨2 ^ 30 + 19, ?_⟩,
    ⟨2 ^ 30 + 24, ?_⟩, ⟨2 ^ 30 + 2 ^ 9 + 20, ?_⟩, ⟨2 ^ 30 + 2 * 2 ^ 24 + 3 * 2 ^ 5, ?_⟩, ⟨2 ^ 30 + 2 ^ 24 + 4 * 2 ^ 5, ?_⟩,
    ⟨2 ^ 30 + 13 * 2 ^ 24 + 7 * 2 ^ 11, ?_⟩, ⟨2 ^ 30 + 5 * 2 ^ 24 + 6 * 2 ^ 11, ?_⟩, ⟨2 ^ 30 + 12 * 2 ^ 24 + 4 * 2 ^ 11, ?_⟩,
    ⟨2 ^ 30 + 9 * 2 ^ 24 + 3 * 2 ^ 11 + 63, ?_⟩⟩
  · exact ⟨by simp [intGroup], by unfold major; decide⟩
  · exact ⟨by simp [unaryGroup], by unfold major; decide⟩
  all_goals unfold major; decide

theorem met_AtomicCodes : (∃ w : Nat, major 0 0x10 w) ∧ (∃ w : Nat, major 0 0x13 w ∧ fld w 8 5 = 7) ∧
    (∃ w : Nat, major 0 0x13 w ∧ fld w 8 5 = 8) ∧ (∃ w : Nat, major 0 0x11 w ∧ fld w 23 20 = 7) ∧
    ∃ w : Nat, major 0 0x11 w ∧ fld w 23 20 = 15 ∧ fld w 5 0 = 0 ∧ fld w 13 11 ≠ fld w 9 7 := by
  refine ⟨⟨16 * 2 ^ 24, ?_⟩, ⟨19 * 2 ^ 24 + 7 * 2 ^ 5, ?_⟩, ⟨19 * 2 ^ 24 + 8 * 2 ^ 5, ?_⟩, ⟨17 * 2 ^ 24 + 7 * 2 ^ 20, ?_⟩,
    ⟨17 * 2 ^ 24 + 15 * 2 ^ 20 + 7 * 2 ^ 11, ?_⟩⟩
  all_goals unfold major; decide

theorem met_LongImmediates : (∃ w : Nat, major 1 0x03 w) ∧ (∃ w : Nat, major 1 0x04 w ∧ fld w 16 16 = 0) ∧
    (∃ w : Nat, major 1 0x04 w ∧ fld w 16 16 = 1) ∧ (∃ s : State, s.Quiet) ∧ ∃ d : WReg, d ≠ 0 := by
  refine ⟨⟨2 ^ 30 + 3 * 2 ^ 24 + 0x7FFFF, ?_⟩, ⟨2 ^ 30 + 4 * 2 ^ 24 + 3 * 2 ^ 17, ?_⟩, ⟨2 ^ 30 + 4 * 2 ^ 24 + 2 ^ 16, ?_⟩,
    ⟨one strand, by decide⟩, 31, by decide⟩
  all_goals unfold major; decide

/-- A NOP in word 1 of a solo bundle, in word 0 of one, and in word 0 of a pair; and a window with one instruction to go. -/
theorem met_NopRule : (∃ b : Word, bundleShapeOk b = true ∧ word1 b = 0) ∧ (∃ b : Word, bundleShapeOk b = true ∧ word0 b = 2 ^ 31) ∧
    (∃ (b : Word) (j : Instr), bundleShapeOk b = true ∧ word0 b = 0 ∧ decodeWord 3 (word1 b) = .ok j) ∧ (∃ s : State, s.Quiet) ∧
    ∃ (s : State) (o : LongOp), s.me.longs = [o] ∧ o.result = none ∧ 0 < o.left ∧ s.me.shadow = none ∧ s.me.held = none ∧
      s.me.replay = none :=
  ⟨⟨0x0000000080180064, by decide⟩, ⟨0x0000000080000000, by decide⟩, ⟨0x4308000500000000, .li 1 5, by decide⟩, ⟨one strand, by decide⟩,
    one { strand with longs := [division 1] }, division 1, by decide⟩

theorem met_TrapRule : (∃ (s : State) (ent : Nat), s.Quiet ∧ s.EntersHandler ent) ∧
    (∃ (s : State) (a : WReg), s.Quiet ∧ s.me.sv = true ∧ s.me.inWdog = false ∧ (s.me.dw 58).getLsbD 12 = false ∧
      (s.w a).toNat < 2 ^ 19) ∧ ∃ (b : Word) (pc : Nat), bundleShapeOk b = true ∧ pc % 8 = 4 :=
  ⟨⟨one strand, 0x2000, by decide, ⟨firing, rfl, rfl⟩, by decide, by decide, rfl⟩,
    ⟨one (strand [(50, 2), (3, 0x7FFFF)]), 3, by decide⟩, 0x4308000580000000, 4, by decide⟩

theorem met_MessageWordRule : (∃ w : Nat, major 0 0x27 w ∧ fld w 23 19 = 0 ∧ fld w 13 9 = 0 ∧ fld w 8 3 = 0 ∧ fld w 2 0 = 4) ∧
    (∃ w : Nat, major 0 0x27 w ∧ fld w 23 19 = 0 ∧ fld w 13 9 = 0 ∧ fld w 8 3 = 0 ∧ fld w 2 0 = 5) ∧
    ∃ s : State, s.Quiet ∧ 2 ^ 26 ≤ (s.me.m 0).toNat := by
  refine ⟨⟨39 * 2 ^ 24 + 31 * 2 ^ 14 + 4, ?_⟩, ⟨39 * 2 ^ 24 + 5, ?_⟩, one (strand [(44, 2 ^ 26)]), by decide⟩
  all_goals unfold major; decide

/-- Cell 0 with a bundle at 0x100 and its strand 0, with a budget, to issue there. -/
def fetching (b : Word) (pc : Nat := 0x100) (c : Cell := Cell.reset) : State :=
  { withWords (one { strand [(54, 0x640000)] with pc := pc } c) [(0x100, b)] with oracle := [.issue 0 0] }

/-- The same once the choice of the schedule has been taken. -/
def chosen (b : Word) (pc : Nat := 0x100) (c : Cell := Cell.reset) : State := ({ fetching b pc c with oracle := [] } : State).at 0 0

/-- The next state of an instruction. -/
def next (s : State) (i : Instr) : State := match exec i s with | .next t => t | _ => s

theorem exec_next (s : State) (i : Instr) : exec i s = .next (next s i) := by
  obtain ⟨t, h⟩ : ∃ t, exec i s = .next t := by cases i <;> exact ⟨_, rfl⟩
  simp [next, h]

/-- The cell's strand 0 has a store that is not acknowledged. -/
def storing : Cell := { Cell.reset with stores := [waitingStore] }

set_option maxRecDepth 10000 in
theorem met_StepRunsWord : ∃ (s s1 u u1 : State) (w v : Nat) (i j : Instr) (t r : State),
    s.oracle = .issue 0 0 :: [] ∧ s1 = ({ s with oracle := [] } : State).at 0 0 ∧ s1.CanFetch ∧
    loneWord s1.bundleHere s1.me.pc = some w ∧ decodeWord s1.me.encv w = .ok i ∧ exec i s1.fetched = .next t ∧
    t.strandAt 0 0 ≠ s1.fetched.me ∧
    u.oracle = .issue 0 0 :: [] ∧ u1 = ({ u with oracle := [] } : State).at 0 0 ∧ u1.CanFetch ∧
    loneWord u1.bundleHere u1.me.pc = some v ∧ decodeWord u1.me.encv v = .ok j ∧ exec j u1.fetched = .next r ∧
    r.strandAt 0 0 = u1.fetched.me :=
  ⟨fetching 0x4308000580000000 0x104, chosen 0x4308000580000000 0x104, fetching 0x80080000 0x100 storing,
    chosen 0x80080000 0x100 storing, 0x43080005, 0x80080000, .li 1 5, .fence .strand, _, _, rfl, rfl, by unfold State.CanFetch; decide, by decide, by decide, exec_next _ _, by decide,
    rfl, rfl, by unfold State.CanFetch; decide, by decide, by decide, exec_next _ _, by decide⟩

set_option maxRecDepth 10000 in
theorem met_StepTrapsWord : ∃ (s s1 : State) (w : Nat) (e : Reject), s.oracle = .issue 0 0 :: [] ∧
    s1 = ({ s with oracle := [] } : State).at 0 0 ∧ s1.CanFetch ∧ loneWord s1.bundleHere s1.me.pc = some w ∧
    decodeWord s1.me.encv w = .error e :=
  ⟨fetching 0x0000000080580000, chosen 0x0000000080580000, 0x80580000, _, rfl, rfl, by unfold State.CanFetch; decide, by decide, rfl⟩

set_option maxRecDepth 10000 in
theorem met_StepRunsPair : ∃ (s s1 : State) (i j : Instr) (t u v : State), s.oracle = .issue 0 0 :: [] ∧
    s1 = ({ s with oracle := [] } : State).at 0 0 ∧ s1.CanFetch ∧ s1.me.pc % 8 = 0 ∧ bundleShapeOk s1.bundleHere = true ∧
    soloBundle s1.bundleHere = false ∧ decodeWord s1.me.encv (word0 s1.bundleHere) = .ok i ∧
    decodeWord s1.me.encv (word1 s1.bundleHere) = .ok j ∧ pairOk i j = true ∧ j.endsWindows = false ∧
    s1.fetched.partnerGoes j = true ∧ exec i s1.fetched = .next t ∧ t.strandAt 0 0 ≠ s1.fetched.me ∧ u = t.at 0 0 ∧ u.isAt (s1.me.pc + 4) = true ∧
    u.me.swarm = none ∧ u.strandRuns = true ∧ u.me.clear j = true ∧ exec j u = .next v ∧ v.strandAt 0 0 ≠ u.me :=
  ⟨fetching 0x40294C6000000000, chosen 0x40294C6000000000, .nop, .add .int64 5 5 6, _, _, _, rfl, rfl,
    by unfold State.CanFetch; decide, by decide, by decide, by decide, by decide, by decide, by decide, by decide, by decide, exec_next _ _,
    by decide, rfl, by decide, by decide, by decide, by decide, exec_next _ _, by decide⟩

set_option maxRecDepth 10000 in
/-- Bit 63 set beside word 0 with S = 1, bit 30 set, and bit 62 clear. -/
theorem met_StepTrapsBundle : ∀ b ∈ ([0xC0000000C0000000, 0x4000000040000000, 0] : List Word), (chosen b).CanFetch ∧ (chosen b).bundleHere = b ∧
    (b.getLsbD 63 = true ∨ (b.getLsbD 31 = false ∧ (b.getLsbD 30 = true ∨ b.getLsbD 62 = false))) := by
  intro b hb
  simp only [List.mem_cons, List.not_mem_nil, or_false] at hb
  obtain rfl | rfl | rfl := hb <;> exact ⟨by unfold State.CanFetch; decide, by decide, by decide⟩

set_option maxRecDepth 10000 in
/-- Word 0 or word 1 does not decode; then a fence as word 0, a pair that writes one register, and a load with a V instruction. -/
theorem met_StepTrapsBundle_words : ∀ x ∈ ([(0x40294C6000580000, none, some (.add .int64 5 5 6)), (0x400887E000000000, some .nop, none),
      (0x40294C6000080000, some (.fence .strand), some (.add .int64 5 5 6)),
      (0x40214C6008209822, some (.ld .int64 false 4 2 2 2), some (.add .int64 4 5 6)),
      (0x7024600008209822, some (.ld .int64 false 4 2 2 2), some (.vadd .int8 .rne false ⟨1, false⟩ ⟨2, false⟩ ⟨3, false⟩))] :
      List (Word × Option Instr × Option Instr)), (chosen x.1).CanFetch ∧ (chosen x.1).bundleHere = x.1 ∧ (chosen x.1).me.pc % 8 = 0 ∧
    x.1.getLsbD 63 = false ∧ x.1.getLsbD 31 = false ∧ x.1.getLsbD 30 = false ∧ x.1.getLsbD 62 = true ∧
    (decodeWord (chosen x.1).me.encv (word0 x.1)).toOption = x.2.1 ∧ (decodeWord (chosen x.1).me.encv (word1 x.1)).toOption = x.2.2 := by
  intro x hx
  simp only [List.mem_cons, List.not_mem_nil, or_false] at hx
  obtain rfl | rfl | rfl | rfl | rfl := hx <;> exact ⟨by unfold State.CanFetch; decide, by decide, by decide, by decide, by decide, by decide, by decide, by decide, by decide⟩

theorem met_StepTrapsBundle_rules : (Instr.fence .strand).serialising = true ∧
    (∃ x ∈ (Instr.ld .int64 false 4 2 2 2).writes, x ∈ (Instr.add .int64 4 5 6).writes) ∧
    (Instr.ld .int64 false 4 2 2 2).longLatency = true ∧ (Instr.vadd .int8 .rne false ⟨1, false⟩ ⟨2, false⟩ ⟨3, false⟩).noPartner = true := by decide

theorem met_ZeroRegistersKept : ∃ s t : State, s.ZeroRegisters ∧ step s = .next t :=
  ⟨fetching 0x4308000580000000 0x104, _, by unfold State.ZeroRegisters; decide, rfl⟩

theorem met_MemoryKept : ∃ s t : State, Memory.wf s.mem = true ∧ step s = .next t := ⟨State.reset, _, by decide, rfl⟩

theorem met_WorkingRegisters : ∃ d a : WReg, d ≠ 0 ∧ a ≠ d := ⟨31, 0, by decide⟩

/-! ### Words written from the formats (R85-R107), one for every row -/

set_option maxRecDepth 10000 in
/-- AR (R91, R100). -/
theorem test_decode_register :
    decodeWord 3 0x4008BE00 = .ok (.add .int8 1 2 31) ∧
    decodeWord 3 0x4021CC21 = .ok (.sub .int16 4 7 6) ∧
    decodeWord 3 0x403B1A42 = .ok (.and .int32 7 12 13) ∧
    decodeWord 3 0x40546863 = .ok (.or .int64 10 17 20) ∧
    decodeWord 3 0x406DB604 = .ok (.xor .int8 13 22 27) ∧
    decodeWord 3 0x4086C425 = .ok (.shl .int16 16 27 2) ∧
    decodeWord 3 0x40981246 = .ok (.shr .int32 19 0 9) ∧
    decodeWord 3 0x40B16067 = .ok (.sha .int64 22 5 16) ∧
    decodeWord 3 0x40CAAE08 = .ok (.rot .int8 25 10 23) ∧
    decodeWord 3 0x40E3FC29 = .ok (.slt .int16 28 15 30) ∧
    decodeWord 3 0x40FD0A4A = .ok (.sltz .int32 31 20 5) ∧
    decodeWord 3 0x4016586B = .ok (.min .int64 2 25 12) ∧
    decodeWord 3 0x402FA60C = .ok (.max .int8 5 30 19) ∧
    decodeWord 3 0x4040F42D = .ok (.minz .int16 8 3 26) ∧
    decodeWord 3 0x405A024E = .ok (.maxz .int32 11 8 1) ∧
    decodeWord 3 0x4073506F = .ok (.sel .int64 14 13 8) ∧
    decodeWord 3 0x408C9E10 = .ok (.mul .int8 17 18 15) ∧
    decodeWord 3 0x40A5EC31 = .ok (.mulh .int16 20 23 22) ∧
    decodeWord 3 0x40BF3A52 = .ok (.mulhz .int32 23 28 29) ∧
    decodeWord 3 0x40FF8014 = .ok (.clz .int8 31 30) ∧
    decodeWord 3 0x40FF4035 = .ok (.ctz .int16 31 29) ∧
    decodeWord 3 0x40FF0056 = .ok (.popc .int32 31 28) ∧
    decodeWord 3 0x40FEC077 = .ok (.bswap .int64 31 27) := by
  decide

set_option maxRecDepth 10000 in
/-- AL (R91, R99). -/
theorem test_decode_long :
    decodeWord 3 0x41298E4A = .ok (.div .int32 5 6 7 10) ∧
    decodeWord 3 0x41298E5B = .ok (.divz .int32 5 6 7 11) ∧
    decodeWord 3 0x42298E4B = .ok (.rem .int32 5 6 7 11) ∧
    decodeWord 3 0x42298E5C = .ok (.remz .int32 5 6 7 12) := by
  decide

set_option maxRecDepth 10000 in
/-- AW, AH, AI and AB (R91, R93, R99, R119, R120). -/
theorem test_decode_immediate :
    decodeWord 3 0x432A0000 = .ok (.li 5 0x20000) ∧
    decodeWord 3 0x43080005 = .ok (.li 1 5) ∧
    decodeWord 3 0x443A89AB = .ok (.lih 7 1 0x89AB) ∧
    decodeWord 3 0x443E0123 = .ok (.lih 7 3 0x0123) ∧
    decodeWord 3 0x45445FFF = .ok (.addi .int64 8 17 0x7ff) ∧
    decodeWord 3 0x46447400 = .ok (.andi .uint32 8 17 0x400) ∧
    decodeWord 3 0x474463FF = .ok (.ori .uint8 8 17 0x3ff) ∧
    decodeWord 3 0x48444001 = .ok (.xori .int8 8 17 0x1) ∧
    decodeWord 3 0x49444007 = .ok (.shli .int8 8 17 0x7) ∧
    decodeWord 3 0x4A44480F = .ok (.shri .int16 8 17 0xf) ∧
    decodeWord 3 0x4B44501F = .ok (.shai .int32 8 17 0x1f) ∧
    decodeWord 3 0x4C44583F = .ok (.roti .int64 8 17 0x3f) ∧
    decodeWord 3 0x4D44687F = .ok (.slti .uint16 8 17 0x7f) ∧
    decodeWord 3 0x4E1A5E10 = .ok (.bext 3 9 60 8) ∧
    decodeWord 3 0x4E1A607F = .ok (.bextz 3 9 64 63) ∧
    decodeWord 3 0x4F1A40C0 = .ok (.bins 3 9 1 32) := by
  decide

set_option maxRecDepth 10000 in
/-- AF, AQ, AC and AM (R91, R101). -/
theorem test_decode_floating :
    decodeWord 3 0x5031D180 = .ok (.fadd .bf16 .rne false 6 7 8) ∧
    decodeWord 3 0x5131D1A6 = .ok (.fsub .fp16 .rtz true 6 7 8) ∧
    decodeWord 3 0x5231D1C8 = .ok (.fmul .fp32 .rup false 6 7 8) ∧
    decodeWord 3 0x5331D1EE = .ok (.fma .fp64 .rdn true 6 7 8) ∧
    decodeWord 3 0x5431D180 = .ok (.fms .bf16 .rne false 6 7 8) ∧
    decodeWord 3 0x5531D1A6 = .ok (.fnma .fp16 .rtz true 6 7 8) ∧
    decodeWord 3 0x5608877F = .ok (.fdiv true .rdn true 1 2 3 15) ∧
    decodeWord 3 0x57088024 = .ok (.fsqrt false .rtz false 1 2 4) ∧
    decodeWord 3 0x584A97A0 = .ok (.fmin .fp16 9 10 11) ∧
    decodeWord 3 0x594A97E0 = .ok (.fmax .fp64 9 10 11) ∧
    decodeWord 3 0x5A4A97D0 = .ok (.fcmp .un .fp32 9 10 11) ∧
    decodeWord 3 0x5B4A8180 = .ok (.fclass .bf16 9 10) ∧
    decodeWord 3 0x5C4A97E8 = .ok (.fsgn .xor .fp64 9 10 11) ∧
    decodeWord 3 0x5D21738C = .ok (.fcvt .bf16 .fp32 .rtz true 4 5) ∧
    decodeWord 3 0x5E215E90 = .ok (.fcvti .uint64 .e4m3 .rup false 4 5) ∧
    decodeWord 3 0x5F217C58 = .ok (.icvtf .fp64 .int16 .rdn false 4 5) ∧
    decodeWord 3 0x60FC3F80 = .ok (.fmvi .bf16 31 0x3F80) := by
  decide

set_option maxRecDepth 10000 in
/-- AE (R91, R103). -/
theorem test_decode_engine :
    decodeWord 3 0x61088615 = .ok (.cdmac .e4m3 true 1 2 3) ∧
    decodeWord 3 0x62088610 = .ok (.cdmacv .int4 false 1 2 3) ∧
    decodeWord 3 0x6308879B = .ok (.mma .bf16 .fp16 true 1 2 3) ∧
    decodeWord 3 0x64214000 = .ok (.zld 4 5) ∧
    decodeWord 3 0x65014C00 = .ok (.zst 5 6) ∧
    decodeWord 3 0x66014C00 = .ok (.zclr 5 6) ∧
    decodeWord 3 0x673A13CA = .ok (.zcvt .fp32 .rup true 7 8 9) ∧
    decodeWord 3 0x6802D800 = .ok (.sdcfg 11 12) ∧
    decodeWord 3 0x6902D800 = .ok (.sdscan 11 12) ∧
    decodeWord 3 0x6A02C000 = .ok (.sdflush 11) := by
  decide

set_option maxRecDepth 10000 in
/-- AV, major 0x30 (R91, R102). -/
theorem test_decode_vectorGroup :
    decodeWord 3 0x70024E00 = .ok (.vadd .fp32 .rne false ⟨0, false⟩ ⟨1, false⟩ ⟨2, false⟩) ∧
    decodeWord 3 0x7018BF60 = .ok (.vadd .fp64 .rdn false ⟨0, true⟩ ⟨4, false⟩ ⟨5, true⟩) ∧
    decodeWord 3 0x7038D311 = .ok (.vsub .int64 .rne true ⟨1, true⟩ ⟨4, false⟩ ⟨6, true⟩) ∧
    decodeWord 3 0x7058BC22 = .ok (.vmul .bf16 .rtz false ⟨2, true⟩ ⟨4, false⟩ ⟨5, true⟩) ∧
    decodeWord 3 0x7078DD53 = .ok (.vma .fp16 .rup true ⟨3, true⟩ ⟨4, false⟩ ⟨6, true⟩) ∧
    decodeWord 3 0x70256A04 = .ok (.vmin .e4m3 .rne ⟨1, false⟩ ⟨2, true⟩ ⟨3, false⟩) ∧
    decodeWord 3 0x70256B05 = .ok (.vmax .e5m2 .rne ⟨1, false⟩ ⟨2, true⟩ ⟨3, false⟩) ∧
    decodeWord 3 0x70ECB306 = .ok (.vand .int64 ⟨7, false⟩ ⟨6, false⟩ ⟨5, true⟩) ∧
    decodeWord 3 0x70EDB407 = .ok (.vor .uint8 ⟨7, false⟩ ⟨6, true⟩ ⟨5, true⟩) ∧
    decodeWord 3 0x70ECB508 = .ok (.vxor .uint16 ⟨7, false⟩ ⟨6, false⟩ ⟨5, true⟩) ∧
    decodeWord 3 0x70EDB609 = .ok (.vshl .uint32 ⟨7, false⟩ ⟨6, true⟩ ⟨5, true⟩) ∧
    decodeWord 3 0x70ECB70A = .ok (.vshr .uint64 ⟨7, false⟩ ⟨6, false⟩ ⟨5, true⟩) := by
  decide

set_option maxRecDepth 10000 in
/-- AV, majors 0x31 to 0x3F (R91, R102). -/
theorem test_decode_vector :
    decodeWord 3 0x71357E02 = .ok (.vcmp .lt .fp32 ⟨1, true⟩ ⟨2, true⟩ ⟨3, true⟩) ∧
    decodeWord 3 0x7234700C = .ok (.vsel .int8 ⟨1, true⟩ ⟨2, false⟩ ⟨3, true⟩ ⟨4, true⟩) ∧
    decodeWord 3 0x73340C3E = .ok (.vcvt .bf16 .fp32 .rtz true ⟨1, true⟩ ⟨2, false⟩) ∧
    decodeWord 3 0x74250305 = .ok (.vred .xor .int64 .rne ⟨1, false⟩ ⟨2, true⟩) ∧
    decodeWord 3 0x75257F40 = .ok (.vdot .fp64 .rup ⟨1, false⟩ ⟨2, true⟩ ⟨3, true⟩) ∧
    decodeWord 3 0x76250E60 = .ok (.vscan .add .fp32 .rdn ⟨1, false⟩ ⟨2, true⟩) ∧
    decodeWord 3 0x77257100 = .ok (.vperm .int16 ⟨1, false⟩ ⟨2, true⟩ ⟨3, true⟩) ∧
    decodeWord 3 0x78347200 = .ok (.vgath .int32 ⟨1, true⟩ 2 ⟨3, true⟩) ∧
    decodeWord 3 0x79257200 = .ok (.vscat .int32 1 ⟨2, true⟩ ⟨3, true⟩) ∧
    decodeWord 3 0x7A350800 = .ok (.vfill .int4 ⟨1, true⟩ ⟨2, true⟩) ∧
    decodeWord 3 0x7B340900 = .ok (.vcopy .uint4 ⟨1, true⟩ ⟨2, false⟩) ∧
    decodeWord 3 0x7C346300 = .ok (.vclmul .int64 ⟨1, true⟩ ⟨2, false⟩ ⟨3, false⟩) ∧
    decodeWord 3 0x7D346200 = .ok (.vhash .int32 ⟨1, true⟩ ⟨2, false⟩ ⟨3, false⟩) ∧
    decodeWord 3 0x7E347000 = .ok (.vcmpb ⟨1, true⟩ ⟨2, false⟩ ⟨3, true⟩) ∧
    decodeWord 3 0x7F247000 = .ok (.vfindb ⟨1, false⟩ ⟨2, false⟩ ⟨3, true⟩) := by
  decide

set_option maxRecDepth 10000 in
/-- CY (R92, R104, R105), with S set in `YIELD`. -/
theorem test_decode_system :
    decodeWord 3 0x00000000 = .ok (.nop) ∧
    decodeWord 3 0x00080004 = .ok (.fence .job) ∧
    decodeWord 3 0x00100000 = .ok (.ifence) ∧
    decodeWord 3 0x80180064 = .ok (.yield 100) ∧
    decodeWord 3 0x00200000 = .ok (.done) ∧
    decodeWord 3 0x00280000 = .ok (.doneNw) ∧
    decodeWord 3 0x0030C007 = .ok (.trap 7 3) ∧
    decodeWord 3 0x00380000 = .ok (.rtt) ∧
    decodeWord 3 0x00400000 = .ok (.fold) ∧
    decodeWord 3 0x80480001 = .ok (.swarm .n4) ∧
    decodeWord 3 0x00500000 = .ok (.unswarm) ∧
    decodeWord 3 0x01200031 = .ok (.mfs 4 0x031) ∧
    decodeWord 3 0x02014102 = .ok (.mts 0x102 5) ∧
    decodeWord 3 0x03014007 = .ok (.pset 7 5) ∧
    decodeWord 3 0x04280006 = .ok (.pget 5 6) ∧
    decodeWord 3 0x05298000 = .ok (.setvl 5 6) ∧
    decodeWord 3 0x06018000 = .ok (.cinv 6) ∧
    decodeWord 3 0x07018000 = .ok (.cflush 6) := by
  decide

set_option maxRecDepth 10000 in
/-- CL, CT, CX (R92, R93, R104). -/
theorem test_decode_memory :
    decodeWord 3 0x08209822 = .ok (.ld .int64 false 4 2 2 2) ∧
    decodeWord 3 0x0820B60F = .ok (.ld .uint32 true 4 2 0x20 15) ∧
    decodeWord 3 0x09208E00 = .ok (.st .int16 true 4 2 0x200) ∧
    decodeWord 3 0x0A088769 = .ok (.ldx .uint16 true 1 2 3 9) ∧
    decodeWord 3 0x0B088680 = .ok (.stx .int32 false 1 2 3) ∧
    decodeWord 3 0x0C2A5C01 = .ok (.ldfe true 5 9 0 1) ∧
    decodeWord 3 0x0D2A59F2 = .ok (.ldff false 5 9 31 2) ∧
    decodeWord 3 0x0E325C00 = .ok (.stfe true 6 9 0) ∧
    decodeWord 3 0x0F2A5C13 = .ok (.feq true 5 9 1 3) := by
  decide

set_option maxRecDepth 10000 in
/-- CA, CV and the stepped rows (R92, R104, R106, R107). -/
theorem test_decode_stepped :
    decodeWord 3 0x100887F4 = .ok (.amo (.fn 7) true 1 2 3 4) ∧
    decodeWord 3 0x116A4D00 = .ok (.amov .max true 9 ⟨1, true⟩ ⟨2, false⟩) ∧
    decodeWord 3 0x12024005 = .ok (.amocfg 5 9) ∧
    decodeWord 3 0x130886E5 = .ok (.xamo .cas false 1 2 3 5) ∧
    decodeWord 3 0x142087F6 = .ok (.xld .int8 true 4 2 0x3F 6) ∧
    decodeWord 3 0x152099FF = .ok (.xst .int64 4 2 511) ∧
    decodeWord 3 0x16024000 = .ok (.xam 9) ∧
    decodeWord 3 0x17025400 = .ok (.xflag 9 10) := by
  decide

set_option maxRecDepth 10000 in
/-- CB, CJ and CR (R92, R93, R104). -/
theorem test_decode_control :
    decodeWord 3 0x188087F0 = .ok (.beq 2 3 0x21f0) ∧
    decodeWord 3 0x198887F1 = .ok (.bne 2 3 0x23f1) ∧
    decodeWord 3 0x1A9087F2 = .ok (.blt 2 3 0x25f2) ∧
    decodeWord 3 0x1B9887F3 = .ok (.bge 2 3 0x27f3) ∧
    decodeWord 3 0x1C088003 = .ok (.bltz 2 0x203) ∧
    decodeWord 3 0x1D088003 = .ok (.bgez 2 0x203) ∧
    decodeWord 3 0x1EF801FF = .ok (.bcf 0x3FFF) ∧
    decodeWord 3 0x1FF801FF = .ok (.bncf 0x3FFF) ∧
    decodeWord 3 0x20040000 = .ok (.j 0x40000) ∧
    decodeWord 3 0x21080005 = .ok (.jl 1 5) ∧
    decodeWord 3 0x22008000 = .ok (.jr 2) ∧
    decodeWord 3 0x23088000 = .ok (.jlr 1 2) := by
  decide

set_option maxRecDepth 10000 in
/-- CE, majors 0x24 to 0x30 (R92, R107). -/
theorem test_decode_events :
    decodeWord 3 0x240886FE = .ok (.evsend 1 2 3 0xFE) ∧
    decodeWord 3 0x25000000 = .ok (.evpop) ∧
    decodeWord 3 0x26380000 = .ok (.evcnt 7) ∧
    decodeWord 3 0x2701C004 = .ok (.mbw 4 7) ∧
    decodeWord 3 0x28000000 = .ok (.sendm) ∧
    decodeWord 3 0x28000001 = .ok (.sendmT) ∧
    decodeWord 3 0x29380000 = .ok (.waitm 7) ∧
    decodeWord 3 0x2A01C03F = .ok (.fork 7 63) ∧
    decodeWord 3 0x2B3A0000 = .ok (.join 7 8) ∧
    decodeWord 3 0x2C000007 = .ok (.arrive 7) ∧
    decodeWord 3 0x2C02400E = .ok (.arriveRemote 6 9) ∧
    decodeWord 3 0x2D001405 = .ok (.arriveb 5 10) ∧
    decodeWord 3 0x2D02540C = .ok (.arrivebRemote 4 10 9) ∧
    decodeWord 3 0x2E000003 = .ok (.waitb 3) ∧
    decodeWord 3 0x2F024002 = .ok (.waitbt 2 9) ∧
    decodeWord 3 0x30024001 = .ok (.bcfgSet 1 9) ∧
    decodeWord 3 0x30024009 = .ok (.bcfgGet 1 9) := by
  decide

set_option maxRecDepth 10000 in
/-- CE, majors 0x31 to 0x3C (R92, R107). -/
theorem test_decode_pages :
    decodeWord 3 0x31025400 = .ok (.cpass 9 10) ∧
    decodeWord 3 0x31424001 = .ok (.cqry 8 9) ∧
    decodeWord 3 0x31024002 = .ok (.freeze 9) ∧
    decodeWord 3 0x31024033 = .ok (.land .unique 9) ∧
    decodeWord 3 0x31024004 = .ok (.publish 9) ∧
    decodeWord 3 0x32088600 = .ok (.push 1 2 3 none) ∧
    decodeWord 3 0x3208860F = .ok (.push 1 2 3 (some 7)) ∧
    decodeWord 3 0x33088608 = .ok (.pushx 1 2 3 (some 0)) ∧
    decodeWord 3 0x3400861B = .ok (.sbind .uint32 3 2 3) ∧
    decodeWord 3 0x35000002 = .ok (.sunbind 2) ∧
    decodeWord 3 0x36480001 = .ok (.srd 9 1) ∧
    decodeWord 3 0x38024003 = .ok (.fact 3 9) ∧
    decodeWord 3 0x39000002 = .ok (.fconsA 2) ∧
    decodeWord 3 0x39000005 = .ok (.fconsB 1) ∧
    decodeWord 3 0x3902400B = .ok (.fconsM 3 9) ∧
    decodeWord 3 0x3A024001 = .ok (.fwrite 1 9) ∧
    decodeWord 3 0x3B000002 = .ok (.fpre 2) ∧
    decodeWord 3 0x3C480003 = .ok (.fstat 9 3) := by
  decide
set_option maxRecDepth 10000 in
/-- The words that the spec's examples write out (after R93, R98, R111, R120, R122, R142, R147, R184, R191, R206, R209, R217, R250,
R360). -/
theorem test_decode_examples :
    decodeWord 3 0x08209822 = .ok (.ld .int64 false 4 2 2 2) ∧
    decodeWord 3 0x40294C60 = .ok (.add .int64 5 5 6) ∧ decodeWord 3 0xC338CDEF = .ok (.li 7 0xCDEF) ∧
    decodeWord 3 0x4E1A4478 = .ok (.bext 3 9 8 60) ∧ decodeWord 3 0x5331D180 = .ok (.fma .bf16 .rne false 6 7 8) ∧
    decodeWord 3 0x8030C007 = .ok (.trap 7 3) ∧ decodeWord 3 0xF0135E00 = .ok (.vadd .fp32 .rne false ⟨0, true⟩ ⟨1, true⟩ ⟨2, true⟩) ∧
    decodeWord 3 0x32310A0B = .ok (.push 6 4 5 (some 3)) ∧ decodeWord 3 0xB6280002 = .ok (.srd 5 2) ∧
    decodeWord 3 0x61508614 = .ok (.cdmac .e4m3 false 10 2 3) ∧ decodeWord 3 0x633A1200 = .ok (.mma .int8 .int8 false 7 8 9) ∧
    decodeWord 3 0x6902D800 = .ok (.sdscan 11 12) := by decide

set_option maxRecDepth 10000 in
theorem test_decode_examples_stepped : decodeTableWord 32 0x43080005 = some (.li 1 5) ∧ decodeWord 3 0x1352D832 = .ok (.xamo .add true 10 11 12 2) ∧
    decodeWord 3 0x15291800 = .ok (.xst .int64 5 4 0) ∧ decodeWord 3 0xB8014000 = .ok (.fact 0 5) ∧
    decodeWord 3 0xB9000004 = .ok (.fconsB 0) ∧ decodeWord 3 0xBB000000 = .ok (.fpre 0) := by decide

/-! ### What the decoder refuses -/

/-- The check refuses the term, and the decoder its word. -/
def turnedAway (i : Instr) : Bool := !i.wf && match decodeWord 3 (encode i) with
  | .error _ => true
  | .ok _ => false

theorem test_refused_integer : ([.add .uint8 1 2 3, .mulhz .fp64 1 2 3, .clz .uint64 1 2, .divz .uint8 1 2 3 0, .addi .uint64 1 2 3,
    .slti .uint64 1 2 3, .shli .int8 1 2 8, .roti .int64 1 2 64, .shri .uint8 1 2 3, .bext 1 2 65 0, .bins 1 2 127 0] :
    List Instr).all turnedAway = true := by decide

theorem test_refused_floating : ([.fadd .e5m2 .rne false 1 2 3, .fnma .fp32 .rna false 1 2 3, .fdiv false .rna false 1 2 3 0,
    .fmin .int8 1 2 3, .fclass .uint4 1 2, .fcvt .fp32 .fp32 .rne false 1 2, .fcvt .int8 .fp32 .rne false 1 2,
    .fcvti .int4 .fp32 .rne false 1 2, .fcvti .int8 .int8 .rne false 1 2, .icvtf .fp32 .uint4 .rne false 1 2,
    .zcvt .fp32 .rna false 1 2 3] : List Instr).all turnedAway = true := by decide

theorem test_refused_vector : ([.vadd .int4 .rne false ⟨1, false⟩ ⟨2, false⟩ ⟨3, false⟩, .vadd .int8 .rtz false ⟨1, false⟩ ⟨2, false⟩ ⟨3, false⟩,
    .vadd .fp32 .rne false ⟨1, true⟩ ⟨1, true⟩ ⟨3, false⟩, .vand .fp32 ⟨1, false⟩ ⟨2, false⟩ ⟨3, false⟩,
    .vcmp .un .int8 ⟨1, false⟩ ⟨2, false⟩ ⟨3, false⟩, .vsel .int8 ⟨1, false⟩ ⟨2, false⟩ ⟨3, false⟩ ⟨3, true⟩,
    .vcvt .fp32 .fp32 .rne false ⟨1, false⟩ ⟨2, false⟩, .vred .or .fp32 .rne ⟨1, false⟩ ⟨2, false⟩,
    .vgath .int8 ⟨2, true⟩ 2 ⟨3, false⟩, .vclmul .int8 ⟨1, false⟩ ⟨2, false⟩ ⟨3, false⟩, .vcopy .int8 ⟨1, true⟩ ⟨1, false⟩] :
    List Instr).all turnedAway = true := by decide

theorem test_refused_memory : ([.ld .uint64 false 1 2 0 0, .ldx .uint64 false 1 2 3 0, .xld .uint64 false 1 2 0 0, .sbind .uint64 0 1 2,
    .st .uint8 false 1 2 0, .stx .uint8 false 1 2 3, .xst .uint8 1 2 0, .amov .cas false 1 ⟨1, false⟩ ⟨2, false⟩,
    .amov .add false 1 ⟨1, true⟩ ⟨1, false⟩, .xamo (.fn 0) false 1 2 3 0, .mbw 5 1] : List Instr).all turnedAway = true := by decide

/-- Reserved fields, and what version 1 or 2 does not allocate (R89, R109). -/
theorem test_refused_words : ([0x00000001, 0x00080005, 0x00301000 + 2 ^ 13, 0x44010000, 0x4E000000 + 65 * 2 ^ 7, 0x50000001, 0x20080000,
    0x22000001, 0x2C004000, 0x31000005, 0x3900000C, 0x31000007 + 7 * 8] : List Nat).all (fun w => match decodeWord 3 w with
      | .error _ => true
      | .ok _ => false) = true ∧
    ([(1, 0x08209822), (1, 0x1352D832), (2, 0x1352D832), (2, 0x38014000), (2, 0x6902D800), (1, 0x18800000), (1, 0x20001000)] :
      List (Nat × Nat)).all (fun x => match decodeWord x.1 x.2 with
      | .error _ => true
      | .ok _ => false) = true := by decide

/-- The offset of a branch in version 1: bits 21:19 with OFFL, 12 bits (R109). -/
theorem test_decode_version1 : decodeWord 1 0x18388600 = .ok (.beq 2 3 0x3E00) ∧ decodeWord 1 0x20000FFF = .ok (.j 0x7FFFF) := by decide

/-! ### What instructions do: the spec's examples, and corners worked by hand from its rules -/

/-- `w4` after an instruction on these registers. -/
def w4 (l : List (Nat × Word)) (i : Instr) : Word := (next (one (strand l)) i).me.w 4

/-- `w4` and FFLAGS after an instruction on these registers. -/
def f4 (l : List (Nat × Word)) (i : Instr) : Word × Nat :=
  ((next (one (strand l)) i).me.w 4, (next (one (strand l)) i).me.fflags.toNat)

/-- `w4` when the late result of an instruction has come. -/
def late (l : List (Nat × Word)) (i : Instr) : Word :=
  let s := next (one (strand l)) i
  (next s (.longLatencyResult 0 0 ((s.me.longs.map LongOp.seq).headD 0))).me.w 4

/-- R120: BEXT, BEXTZ and BINS of 0xF000_0000_0000_0000. -/
theorem test_bitFields : w4 [(9, 0xF000000000000000)] (.bext 4 9 8 60) = 0xFFFFFFFFFFFFFFFF ∧
    w4 [(9, 0xF000000000000000)] (.bextz 4 9 8 60) = 0xF ∧ w4 [(9, 0xF000000000000000)] (.bins 4 9 8 62) = 0 := by decide

set_option maxRecDepth 10000 in
/-- R113, R116: wraps are sign-extended at the width; CF is written beside `w0`. -/
theorem test_integer : w4 [(1, 0x7F), (2, 1)] (.add .int8 4 1 2) = 0xFFFFFFFFFFFFFF80 ∧
    w4 [(1, 0x10000), (2, 1)] (.sub .int16 4 1 2) = 0xFFFFFFFFFFFFFFFF ∧
    w4 [(1, 0x80000001), (2, 33)] (.sha .int32 4 1 2) = 0xFFFFFFFFC0000000 ∧
    w4 [(1, 0x80), (2, 9)] (.shr .int8 4 1 2) = 0x40 ∧ w4 [(1, 0x8001), (2, 16)] (.rot .int16 4 1 2) = 0xFFFFFFFFFFFF8001 ∧
    w4 [(1, 0xFF), (2, 1)] (.minz .int8 4 1 2) = 1 ∧ w4 [(1, 0xFF), (2, 1)] (.min .int8 4 1 2) = 0xFFFFFFFFFFFFFFFF ∧
    w4 [(1, 2 ^ 63), (2, 2 ^ 63)] (.mulh .int64 4 1 2) = 0x4000000000000000 ∧ w4 [(1, 0xFF), (2, 0xFF)] (.mulhz .int8 4 1 2) = 0xFE ∧
    w4 [] (.clz .int16 4 1) = 16 ∧ w4 [(1, 0x8000)] (.ctz .int16 4 1) = 15 ∧ w4 [(1, 0x1234)] (.bswap .int16 4 1) = 0x3412 ∧
    (next (one (strand [(1, 0x80)])) (.slt .int8 0 1 2)).me.cf = true ∧ (next (one (strand [(1, 0x80)])) (.sltz .int8 0 1 2)).me.cf = false := by
  decide

/-- R72, R118: IMM11 at the format's extension. -/
theorem test_immediates : w4 [(1, 0x100)] (.addi .int64 4 1 0x7FF) = 0xFF ∧ w4 [(1, 0xFF)] (.addi .uint8 4 1 0x7FF) = 0xFE ∧
    w4 [] (.ori .int16 4 1 0x7FF) = 0x7FF ∧ w4 [(1, 0xFF)] (.ori .int8 4 1 0) = 0xFFFFFFFFFFFFFFFF ∧
    w4 [(1, 3)] (.shai .int8 4 1 1) = 1 ∧ w4 [(1, 0x400)] (.slti .int64 4 1 0x400) = 0 ∧ w4 [(1, 0x7FF)] (.slti .uint32 4 1 0x7FF) = 0 := by
  decide

/-- R111: the constant 0x0123_4567_89AB_CDEF, whose last half is put in. -/
theorem test_long_immediates : w4 [(4, 0x0000456789ABCDEF)] (.lih 4 3 0x0123) = 0x0123456789ABCDEF ∧
    w4 [] (.li 4 0x40000) = 0xFFFFFFFFFFFC0000 := by decide

/-- R117: division by zero and the overflow. -/
theorem test_division : late [(1, 0x80), (2, 0xFF)] (.div .int8 4 1 2 0) = 0xFFFFFFFFFFFFFF80 ∧ late [(1, 7)] (.div .int8 4 1 2 0) = 0xFFFFFFFFFFFFFFFF ∧
    late [(1, 0xF9), (2, 2)] (.rem .int8 4 1 2 0) = 0xFFFFFFFFFFFFFFFF ∧ late [(1, 0x80), (2, 0xFF)] (.rem .int8 4 1 2 0) = 0 ∧
    late [(1, 7)] (.divz .int16 4 1 2 0) = 0xFFFF ∧ late [(1, 0xF9), (2, 2)] (.remz .int8 4 1 2 0) = 1 := by decide

/-- R122: the fused product is exact, the product alone a tie to even. -/
theorem test_bf16 : f4 [(1, 0x3F88), (2, 0x3F88), (4, 0xBF80)] (.fma .bf16 .rne false 4 1 2) = (0x3E04, 0) ∧
    f4 [(1, 0x3F88), (2, 0x3F88)] (.fmul .bf16 .rne false 4 1 2) = (0x3F90, 1) ∧
    f4 [(1, 0x3F90), (2, 0xBF80)] (.fadd .bf16 .rne false 4 1 2) = (0x3E00, 0) := by decide

/-- After R67 and R70: FP32 300 and 500 in E4M3, and BF16 immediates. -/
theorem test_conversions : f4 [(1, 0x43960000)] (.fcvt .e4m3 .fp32 .rne false 4 1) = (0x79, 1) ∧
    f4 [(1, 0x43FA0000)] (.fcvt .e4m3 .fp32 .rne false 4 1) = (0x7F, 5) ∧ f4 [(1, 0x43FA0000)] (.fcvt .e4m3 .fp32 .rne true 4 1) = (0x7E, 5) ∧
    fpImm .fp16 0x4380 = (0x5C00, 0) ∧ fpImm .e4m3 0x4380 = (0x78, 0) := by decide

/-- IEEE corners: 1/0, the square root of 2, and the sum of an infinity and its opposite. -/
theorem test_ieee : divRound .fp32 .rne false (unpack .fp32 0x3F800000) (unpack .fp32 0) = (0x7F800000, 8) ∧
    sqrtRound .fp64 .rne false (unpack .fp64 0x4000000000000000) = (0x3FF6A09E667F3BCD, 1) ∧
    (addVal .fp32 .rne false (unpack .fp32 0x7F800000) (unpack .fp32 0xFF800000)).2 = 16 ∧
    addVal .fp16 .rup false (unpack .fp16 0x3C00) (unpack .fp16 0x0001) = (0x3C01, 1) := by decide

/-- The strand of the example after R129, bound at 0x6_0400. -/
def boundAt60400 : State := one { strand [(2, 0x60404), (3, 0x60400)] with wp := 0x60400 }

/-- After R129: the misaligned check comes first, then the bound workspace. CAUSE, TRAPVAL and TRAPAUX. -/
theorem test_access_checks :
    ((next boundAt60400 (.ld .int64 false 4 2 0 0)).me.ws[58].toNat % 64, (next boundAt60400 (.ld .int64 false 4 2 0 0)).me.ws[61]) = (4, 8) ∧
    ((next boundAt60400 (.ld .int32 false 4 2 0 0)).me.ws[58].toNat % 64, (next boundAt60400 (.ld .int32 false 4 2 0 0)).me.ws[61]) = (6, 0) ∧
    ((next boundAt60400 (.st .int64 false 5 3 0)).me.ws[58].toNat % 64, (next boundAt60400 (.st .int64 false 5 3 0)).me.ws[61]) =
      (6, 2 ^ 32) := by decide

/-- R9, R127: the little-endian bytes of a store, and of a load that sign-extends. -/
theorem test_bytes : (next (one (strand [(2, 0x1000), (5, 0x1122334455667788)])) (.st .int32 false 5 2 1)).read 0x1004 4 = 0x55667788 ∧
    (next (one (strand [(2, 0x1000), (5, 0x1122334455667788)])) (.st .int32 false 5 2 1)).byte 0x1004 = 0x88 ∧
    (let s := next (withWords (one (strand [(2, 0x1000)])) [(0x1000, 0x80FF000000000000)]) (.ld .int16 false 4 2 3 0)
     (next s (.longLatencyResult 0 0 ((s.me.longs.map LongOp.seq).headD 0))).me.w 4) = 0xFFFFFFFFFFFF80FF := by decide

/-- R134: a taken branch of one bundle back, and the link of `JLR`. -/
theorem test_branch : (next (one (strand [(1, 5), (2, 5)])) (.beq 1 2 0x3FFF)).me.pc = 0xF8 ∧
    (next (one (strand [(1, 5), (2, 6)])) (.beq 1 2 0x3FFF)).me.pc = 0x104 ∧
    ((next (one { strand [(2, 0x800)] with pc := 0x104 }) (.jlr 4 2)).me.w 4, (next (one { strand [(2, 0x800)] with pc := 0x104 }) (.jlr 4 2)).me.pc) =
      (0x108, 0x800) := by decide

/-- After R142: the record of `TRAP 7, w3` at 0x2000, and where `RTT` goes on. -/
theorem test_trap :
    (let t := (next (one { strand [(3, 0x55)] with pc := 0x2000, firing := some { firing with trapEnt := 0x3000 } }) (.trap 7 3)).me
     (t.ws[58].toNat % 64, t.ws[59], t.ws[60], t.ws[61], t.pc)) = (0x1B, 0x2000, 7, 0x55, 0x3000) ∧
    (next (one { strand [(50, 2), (58, 0x1B), (59, 0x2004)] with pc := 0x3000 }) .rtt).me.pc = 0x2004 := by decide

/-- After R21: two elements of 16 bytes through a ring of 256 bytes, stride 16. -/
theorem test_pointer : (let p : Word := 0x40FF0 + 16 * 2 ^ 20 + 2 * 2 ^ 58 + 2 * 2 ^ 60
    ([0, 1].map (elemAddr p 16), ptrAddr (ptrAfter p ⟨2, 32⟩))) = ([0x40FF0, 0x40F00], 0x40F10) := by decide

/-- R102, R158: `VADD.uint8` of two bytes adds modulo 256, and the retirement leaves the queue empty. -/
theorem test_vadd : (let s := withWords (inShadow .vu (addition true)) [(0x2000, 0xFF01), (0x3000, 0x0205)]
    ((next s (.engineInstructionRetire 0 .vu)).read 0x5FFFE 2, ((next s (.engineInstructionRetire 0 .vu)).cellAt 0).vuQ.length)) = (0x0106, 0) := by
  decide

/-- A vector entry of these pointers over these words, performed. -/
def performed (i : Instr) (ptrs : List Word) (vl : Nat) (l : List (Nat × Word)) : State :=
  next (withWords (inShadow .vu (entry i [] ptrs vl)) l) (.engineInstructionRetire 0 .vu)

/-- After R168: the carry-less product. -/
theorem test_vclmul : [0x1000, 0x1008].map (fun a => (performed (.vclmul .int64 ⟨1, false⟩ ⟨2, false⟩ ⟨3, false⟩) [0x1000, 0x2000, 0x3000] 1
    [(0x2000, 0x8000000000000001), (0x3000, 3)]).read a 8) = [0x8000000000000003, 1] := by decide

/-- R162: the sum of three doublewords. -/
theorem test_vred : (performed (.vred .add .int64 .rne ⟨1, false⟩ ⟨2, false⟩) [0x1000, 0x2000] 3
    [(0x2000, 5), (0x2008, 0xFFFFFFFFFFFFFFFF), (0x2010, 7)]).read 0x1000 8 = 11 := by decide

/-- The bytes of the example after R217 in the two queues. -/
def product : State :=
  let s := inShadow .sce (entry (.mma .int8 .int8 false 7 8 9) [0x20064, 2, 4] [] 0)
  s.setCell 0 { s.cellAt 0 with fifoA := [1, 2, 3, 0, 4, 5, 6, 1], fifoB := [1, 2, 0, 1, 0xFF, 0, 3, 2] }

set_option maxRecDepth 10000 in
/-- After R217: the 2 × 4 by 4 × 2 product, and the emptied queues. -/
theorem test_mma : (let t := next product (.engineInstructionRetire 0 .sce)
    ([100, 101, 102, 103].map (t.z 0), (t.cellAt 0).fifoA.length, (t.cellAt 0).fifoB.length)) = ([5, 8, 15, 16], 0, 0) := by decide

set_option maxRecDepth 10000 in
/-- After R80: two products of E4M3 in a fixed-point accumulator. -/
theorem test_fixed_point : (let s := inShadow .sce (entry (.mma .e4m3 .e4m3 false 7 8 9) [0x10007, 1, 2] [] 0)
    (next (s.setCell 0 { s.cellAt 0 with fifoA := [0x7E, 0x01], fifoB := [0x7E, 0x81] }) (.engineInstructionRetire 0 .sce)).z 0 7) =
      0x0000030FFFFFFFC0 := by decide

/-- A D8 channel with s = 2, θ = 2, mode 0 (after R84), or in mode 4. -/
def channel (mode : Nat) : Channel := ⟨[BitVec.ofNat 64 (0x20200 + mode * 2 ^ 12)], 0, 2, 0⟩

/-- After R84: q of the six scans, the clamp of the fifth, and e = 10 under modes 0 and 4. -/
theorem test_delta : ([9, 6, -3, 24, -640, -128] : List Int).map (channel 0).quantise = [2, 2, -1, 6, -160, -32] ∧
    (channel 0).clampQ (-160) = -128 ∧ (channel 0).quantise 10 = 2 ∧ (channel 4).quantise 10 = 3 := by decide

/-- Barrier `b2` of the example after R239, with these counts. -/
def fourCells (cur nxt : Nat) (acur : BitVec 16) (pend : Word) : State :=
  let t := { strand with run := .parked (.arriveb 2 0) }
  let c := { Cell.reset with strands := Cell.reset.strands.set 0 t }
  { State.reset with cells := [(0, { c with bars := Cell.reset.bars.set 2 { Barrier.reset with
    en := true, target := 4, mask := 0xF, cur := cur, nxt := nxt, acur := acur, anxt := if nxt = 0 then 0 else 2, pend := pend } }), (1, c)] }

def counted (s : State) (src : CellId) (add : Option Word) : List Nat :=
  let u := ((next s (.barrierArrival ⟨0, 2, src, 0, add, 0⟩)).cellAt 0).bars[2]
  [u.cur, u.nxt, u.acur.toNat, u.anxt.toNat, u.pend.toNat, u.phase.toNat]

set_option maxRecDepth 10000 in
/-- After R239: the arrivals of cycles 10, 13 and 14, and the last one when nothing is pending. -/
theorem test_barrier : counted (fourCells 0 0 0 0) 1 (some 4096) = [1, 0, 2, 0, 4096, 0] ∧
    counted (fourCells 3 0 0xE 4096) 1 none = [3, 1, 0xE, 2, 4096, 0] ∧
    counted (fourCells 3 1 0xE 4096) 0 none = [4, 1, 0xF, 2, 4096, 0] ∧
    counted (fourCells 3 1 0xE 0) 0 none = [1, 0, 2, 0, 0, 1] := by decide

/-- After R283: the page of the example lies at row 610 of bank 17, and its home slice is slice 9 of die 8, or 11 for the second. -/
theorem test_super : (page 0x0000012345670000 0x80C0352212000000).addr 0 0x0000012345678900 = superAddr 0 (rowLoc 3 5 17 610 0x100) ∧
    homeSlice { Hive.reset with homeDie := List.range 16 } 0x0000012345678900 = 8 * 16 + 9 ∧
    homeSlice { Hive.reset with homeDie := List.range 16 } 0x0000020000008900 = 8 * 16 + 11 := by decide

/-- After R201: `FACT` at cycle 2 activates there and opens at 29; `FPRE` closes at 47 and not before. -/
theorem test_frames : (let t := next (framing (.fact 0 5) [0x000000C800640005] Port.reset 2) (.frameActivate 0)
    ((t.cellAt 0).ports[0].state, (t.cellAt 0).ports[0].bank, (t.cellAt 0).ports[0].row)) = (.opening, 5, 100) := by decide

/-- After R360: the routes of the partials of hives 0, 1 and 8 to hive 9, and what they add up to. -/
theorem test_reduction : [0, 1, 8].map (State.reset.nextHop · 9) = [1, 9, 9] ∧
    Rule.combine .add (Rule.combine .add (Rule.combine .add 5 7) 11) 13 = 36 := by decide

/-- After R387: CAP 1,200 W; an average of 1,400 W takes one step down, and 1,170 W stays. -/
theorem test_power : (let s := { ready { Hive.reset with cap := 1200 } with now := 2 ^ 16 }
    ((next s (.powerPeriodEnd 0 1400)).hiveAt 0).clock) = 1 ∧
    (let s := { ready { Hive.reset with cap := 1200, clock := 3 } with now := 2 ^ 16 }
    ((next s (.powerPeriodEnd 0 1170)).hiveAt 0).clock) = 3 := by decide

/-- After R98: `YIELD 100` loads 6,400 cycles into LEFT, in units of 64. -/
theorem test_yield : (next (one (strand [(55, 8)])) (.yield 100)).me.ws[54].toNat % 2 ^ 12 = 100 := by decide

set_option maxRecDepth 10000 in
/-- The first step after a word is placed runs it. -/
theorem test_step_li : (match step (State.reset.withFetchWord 32 0x43080005) with
    | .next t => (t.me.w 1, t.me.pc)
    | _ => (0, 0)) = (5, 8) := by decide

set_option maxRecDepth 10000 in
theorem test_step_yield : (match step (State.reset.withFetchWord 32 0x80180064) with
    | .next t => (t.me.ws[54].toNat % 2 ^ 12, t.me.pc)
    | _ => (0, 0)) = (100, 4) := by decide

/-! ### Instructions followed to their end -/

/-- Two elements at the pointers of the small strand. -/
def lanes : State := withWords (one (pointers 2)) [(0x2000, 0x0102FFFF), (0x3000, 0x01020001)]
def lanesAdd : Instr := .vadd .int16 .rne false ⟨1, true⟩ ⟨2, false⟩ ⟨3, true⟩

theorem met_VectorLanesComplete : ∃ (i : Instr) (s : State) (f : Fmt) (op : Nat → Nat → Nat × Flags) (pd pa pb : Word) (e : Nat),
    s.EngineFree .vu ∧ lanewise i = some (f, op) ∧ elemHalf f = 2 * e ∧ 0 < e ∧ vecWords s.me i = [pd, pa, pb] ∧
    checkPtrs (vecPtrs s.me i) = .ok () ∧ s.TcmOpen s.curCell ∧ contiguous pd s.me.vl e ∧ contiguous pa s.me.vl e ∧
    contiguous pb s.me.vl e ∧ apart pd pa s.me.vl e ∧ apart pd pb s.me.vl e ∧ Memory.wf s.mem = true :=
  ⟨lanesAdd, lanes, .int16, _, 0x1000, 0x2000, 0x3000, 2, by unfold State.EngineFree; decide, rfl, by decide, by decide, by decide,
    by decide, tcmOpen_of, contiguous_of (by decide), contiguous_of (by decide),
    contiguous_of (by decide), Or.inl (by decide), Or.inl (by decide), by decide⟩

def oneFound : Instr := .vfindb ⟨1, true⟩ ⟨2, false⟩ ⟨3, false⟩

theorem met_VectorElementCompletes : ∃ (i : Instr) (s : State) (d n v : Nat) (fl : Flags),
    s.EngineFree .vu ∧ i.wf = true ∧ wholeBytes i = true ∧ s.me.vl = 1 ∧ checkPtrs (vecPtrs s.me i) = .ok () ∧
    s.TcmOpen s.curCell ∧ (∀ p ∈ vecWords s.me i, contiguous p 1 16) ∧
    s.singleRule s.curCell (s.vecEntry i) = some (d, n, v, fl) ∧ d + 16 ≤ 0x60000 ∧
    (∀ f a b c, i = .vgath f a b c →
      baseOffset (s.me.p b) (vecBytes f) (s.read (tcmBase s.curCell + ptrAddr (s.me.p c.reg)) 4) + 16 ≤ 0x60000) ∧
    Memory.wf s.mem = true := by
  refine ⟨oneFound, one (pointers 1), 0x1000, 8, 0, 0, by unfold State.EngineFree; decide +kernel, by decide +kernel,
    by decide +kernel, by decide +kernel, by decide +kernel,
    tcmOpen_of, ?_, by decide +kernel, by decide +kernel, ?_, by decide +kernel⟩
  · have h : vecWords (one (pointers 1)).me oneFound = [0x1000, 0x2000, 0x3000] := by decide +kernel
    rw [h]
    simp [contiguous]
    decide
  · intro f a b c h; simp [oneFound] at h

/-- A reduction of three bytes in a ring, and a scan of three 4-bit elements. -/
theorem met_VectorCompletes : ∀ i ∈ ([.vred .add .int8 .rne ⟨1, true⟩ ⟨2, true⟩, .vscan .max .uint4 .rne ⟨1, false⟩ ⟨3, false⟩] : List Instr), ∃ s : State,
    s.EngineFree .vu ∧ i.isVec = true ∧ i.wf = true ∧ checkPtrs (vecPtrs s.me i) = .ok () ∧ s.TcmOpen s.curCell ∧ Memory.wf s.mem = true ∧
    (vecRule i (vecWords s.me i) s.me.vl 0 0 (s.tcmOf s.curCell)).isSome = true := by
  intro i hi
  refine ⟨one (pointers 3 [(34, BitVec.ofNat 64 (2 ^ 60 + 2 * 2 ^ 58 + 2 * 2 ^ 20 + 0x2000))]), ?_⟩
  simp only [List.mem_cons, List.not_mem_nil, or_false] at hi
  obtain rfl | rfl := hi <;>
    exact ⟨by unfold State.EngineFree; decide +kernel, rfl, by decide +kernel, by decide +kernel, tcmOpen_of, by decide +kernel, by decide +kernel⟩

/-- A cell with operands in its FIFOs. -/
def fed (l : List (Nat × Word)) : State :=
  one (strand l) { Cell.reset with fifoA := [1, 2, 3, 4], fifoB := [5, 6, 7, 8] }

theorem met_MultiplyCompletes : ∃ (i : Instr) (s : State) (d a b : WReg) (q : Multiply) (p : Pairing),
    s.EngineFree .sce ∧ ((∃ f bn, i = .cdmac f bn d a b) ∨ (∃ f bn, i = .cdmacv f bn d a b) ∨ (∃ fa f bn, i = .mma fa f bn d a b)) ∧
    multiplyOf i (s.w d) (s.w a) (s.w b) = some q ∧ q.bad (s.w d) = false ∧ pairing q.a q.fb = some p ∧ p = .exact 0 ∧
    q.bytesA ≤ s.cell.fifoA.length ∧ q.bytesB ≤ s.cell.fifoB.length ∧ s.marks = [] ∧ Memory.wf s.mem = true :=
  ⟨.mma .int8 .int8 true 1 2 3, fed [(1, 0x10003), (2, 1), (3, 2)], 1, 2, 3, _, .exact 0, by unfold State.EngineFree; decide,
    Or.inr (Or.inr ⟨_, _, _, rfl⟩), rfl, by decide, by decide, rfl, by decide +kernel⟩

theorem met_ClearCompletes : ∃ (s : State) (a b : WReg), s.EngineFree .sce ∧ (s.w a).toNat < 16384 ∧
    (s.w b).toNat / 2 ^ 15 % 2 ^ 48 = 0 ∧ (s.w a).toNat + (s.w b).toNat % 2 ^ 15 ≤ 16384 ∧ Memory.wf s.mem = true :=
  ⟨fed [(1, 16382), (2, 0x8000000000000002)], 1, 2, by unfold State.EngineFree; decide, by decide +kernel⟩

theorem met_ConversionCompletes : ∃ (s : State) (f : Fmt) (d a b : WReg) (e : Nat), s.EngineFree .sce ∧ s.TcmOpen s.curCell ∧
    s.curCell < 2 ^ 18 ∧ elemHalf f = 2 * e ∧ 0 < e ∧ zcvtBad (s.w a) = false ∧ (s.w b).toNat < 2 ^ 7 ∧ (s.w d).toNat % e = 0 ∧
    (s.w d).toNat + zcvtCount (s.w a) * e ≤ 0x60000 ∧ Memory.wf s.mem = true :=
  ⟨fed [(1, 0x5FFFC), (2, 0x10003), (3, 0x41)], .int16, 1, 2, 3, 2, by unfold State.EngineFree; decide,
    tcmOpen_of, by decide +kernel⟩

/-- A descriptor of one element at 0x6000: edge 7, s and θ of `channel 0`, S at 0x3000. -/
def described : State :=
  withWords (one (strand [(55, 8), (1, 3), (2, 0x6000)]) (edgeCell .add 3)) [(0x6000, 0x700020200), (0x6008, 0x3000), (0x6010,
    0x10064)]

theorem met_ChannelConfigured : ∃ (s : State) (a b : WReg) (ch : Channel), s.EngineFree .sdu ∧ s.TcmOpen s.curCell ∧
    (s.w a).toNat < 8 ∧ (s.w b).toNat % 64 = 0 ∧ (s.w b).toNat + 1088 ≤ 0x60000 ∧
    ch = s.readChannel s.curCell (s.w b).toNat s.me.slotNo s.actorCell ∧
    ch.firstBad (s.route s.actorCell s.me.slotNo ch.edge).isSome = none :=
  ⟨described, 1, 2, _, by unfold State.EngineFree; decide +kernel, tcmOpen_of, by decide +kernel, by decide +kernel,
    by decide +kernel, rfl, by decide +kernel⟩

/-- Channel 3 of the cell: its elements end with Z 100, S at 0x3000, edge 7; the S of its last element is `sv`. -/
def scanned (nel : Nat) : Channel := ⟨[0x700020200, 0x3000, BitVec.ofNat 64 (nel * 2 ^ 16 + (101 - nel))], 0x6000, 2, 0⟩
def scanning (nel sv : Nat) : State :=
  (one (strand [(55, 8), (1, 3), (2, 0x10001)]) { edgeCell .add 3 with chans := [(3, scanned nel)] }).write (0x2FF8 + 8 * nel) 8 sv

theorem met_ScanCompletes_below : ∃ (s : State) (ch : Channel), s.EngineFree .sdu ∧ s.TcmOpen s.curCell ∧
    (s.w 2).toNat = 1 + 2 ^ 16 ∧ 1 + 1 ≤ ch.nel ∧ (s.w 1).toNat < 8 ∧ s.cell.chan (s.w 1).toNat = some ch ∧
    ch.sbase + 8 * 1 + 8 ≤ 0x60000 ∧ Memory.wf s.mem = true ∧
    let q := ch.quantise (ch.activate (ch.input (s.z s.curCell (ch.zb + 1))).1 -
      toSigned 64 (s.read (tcmBase s.curCell + ch.sbase + 8 * 1) 8))
    ch.clampQ q = q ∧ q.natAbs < ch.theta :=
  ⟨scanning 2 3, scanned 2, by unfold State.EngineFree; decide +kernel, tcmOpen_of, by decide +kernel⟩

theorem met_ScanCompletes_sent : ∃ (s : State) (ch : Channel) (e : EdgeRoute) (c : CellId) (sl : Nat), s.EngineFree .sdu ∧
    s.TcmOpen s.curCell ∧ ch.nel = 1 ∧ (s.w 1).toNat < 8 ∧ s.cell.chan (s.w 1).toNat = some ch ∧
    ch.sbase + 8 * 0 + 8 ≤ 0x60000 ∧ Memory.wf s.mem = true ∧
    (let q := ch.quantise (ch.activate (ch.input (s.z s.curCell (ch.zb + 0))).1 -
      toSigned 64 (s.read (tcmBase s.curCell + ch.sbase + 8 * 0) 8))
    ch.clampQ q = q ∧ 1 ≤ q.natAbs) ∧ 0 < s.cell.allowEv ∧ s.route ch.home ch.slot ch.edge = some e ∧
    e.consumer ((ch.idx0 + 0) % 2 ^ 32) = some (c, sl) :=
  ⟨scanning 1 9, scanned 1, edge .add, 1, 3, by unfold State.EngineFree; decide +kernel, tcmOpen_of, by decide +kernel⟩


/-- Cells 0 and 1; strand 0 of cell 0 copies 64 bytes at 0x4000 of cell 0 or 1 to 0x5000 of cell 1 or 0. -/
def toCopy (src dst : Word) : State :=
  { one (strand [(1, dst), (2, src), (3, 0x4002300040)]) with
    cells := [(0, { Cell.reset with strands := Cell.reset.strands.set 0 (strand [(1, dst), (2, src), (3, 0x4002300040)]) }),
      (1, { Cell.reset with pmask := 1 })] }

theorem met_CopiesComplete_push : ∃ (s : State) (d a b : WReg) (g : CellId) (off src : Nat),
    s.CopyReady (s.w b) s.curCell g src off ∧ s.copyCheck false (s.w a) (s.w b) (s.w d) = .ok () ∧
    ownAddr s.curCell (s.w a).toNat = src ∧ s.pushDest (s.w d).toNat (copyLen (s.w b)) = some (.tcm g off) :=
  ⟨toCopy 0x4000 0x7F00000000105000, 1, 2, 3, 1, 0x5000, 0x4000,
    ⟨by unfold State.EngineFree; decide +kernel, by decide +kernel, by decide +kernel, by decide +kernel, by decide +kernel,
    tcmOpen_of,
      tcmOpen_of, by decide +kernel, by decide +kernel, by decide +kernel, by decide +kernel, by decide +kernel,
      fun _ h => absurd h (List.not_mem_nil), by decide +kernel⟩, by decide +kernel⟩

theorem met_CopiesComplete_pushx : ∃ (s : State) (d a b : WReg) (g r : CellId) (off src : Nat),
    s.CopyReady (s.w b) r g src off ∧ s.copyCheck true (s.w a) (s.w b) (s.w d) = .ok () ∧
    s.windowCell (hiveOf s.curCell) (s.w a).toNat = some (r, src) ∧ s.copyDest (s.w d).toNat (copyLen (s.w b)) = some (.tcm g off) ∧
    (s.cellAt r).fenced = false ∧ (s.cellAt r).proxies = [] ∧ s.pushAllowed r s.curCell = true :=
  ⟨toCopy 0x7F00000000104000 0x5000, 1, 2, 3, 0, 1, 0x5000, 0x4000,
    ⟨by unfold State.EngineFree; decide +kernel, by decide +kernel, by decide +kernel, by decide +kernel, by decide +kernel,
    tcmOpen_of,
      tcmOpen_of, by decide +kernel, by decide +kernel, by decide +kernel, by decide +kernel, by decide +kernel,
      fun _ h => absurd h (List.not_mem_nil), by decide +kernel⟩, by decide +kernel⟩

/-- Bank 3 of comb 0 granted to cell 0, which asks for a row of it on port 1. -/
def granted : State :=
  { one (strand [(1, rowWord)]) with now := 100, combs := [(0, { Comb.reset with banks := [(3,
    { FrameBank.reset 0 3 with grant := some 0 })] })] }

theorem met_FramesComplete_activate : ∃ (s : State) (n : Fin 4) (a : WReg), s.EngineFree .forager ∧ rowWordOk (s.w a) ∧
    (s.port s.curCell n).isOpen = false ∧ s.otherPort s.curCell n (rowBank (s.w a)) = none ∧
    (s.frameBank (combOf s.curCell) (rowBank (s.w a))).grant = some s.curCell ∧
    s.mayActivate (combOf s.curCell) (rowBank (s.w a)) (rowGuard (s.w a)) = true :=
  ⟨granted, 1, 1, by unfold State.EngineFree; decide +kernel, by unfold rowWordOk; decide +kernel, by decide +kernel⟩

/-- Row 12,287 of bank 3 open on port 1. -/
def opened : State :=
  { one (strand [(1, 0x5FC00)]) { Cell.reset with ports := Cell.reset.ports.set 1 (rowPort .open 73) } with now := 118 }

theorem met_FramesComplete_moves : ∃ (s : State) (n : Fin 4) (a : WReg), s.EngineFree .forager ∧ s.RowOpen s.curCell n ∧
    s.TcmOpen s.curCell ∧ Memory.wf s.mem = true ∧ s.cell.fifoA.length + 1024 ≤ 8192 ∧ s.cell.fifoB.length + 1024 ≤ 16384 ∧
    (s.w a).toNat % 64 = 0 ∧ (s.w a).toNat + 1024 ≤ 0x60000 ∧ (s.port s.curCell n).actAt + 45 ≤ s.now :=
  ⟨opened, 1, 1, by unfold State.EngineFree; decide +kernel, by unfold State.RowOpen; decide +kernel,
    tcmOpen_of, by decide +kernel⟩

/-- Cell 0 asks for a swarm of two; cell 1 has strand 0 taken. -/
def askingTwo : State :=
  { one strand with cells := [(0, { Cell.reset with strands := Cell.reset.strands.set 0 strand }),
      (1, { Cell.reset with strands := Cell.reset.strands.set 0 strand, poolUsed := [0] })] }

theorem met_SwarmCompletes : ∃ (n : SwarmSize) (s : State) (k : Nat → StrandId), s.Quiet ∧ s.me.sv = false ∧ s.me.swm = false ∧
    inComb s.curCell % n.cells = 0 ∧ s.firstBad n = none ∧
    (∀ i, 0 < i → i < n.cells → (s.cellAt (s.curCell + i)).lowestFree = some (k i) ∧ (s.cellAt (s.curCell + i)).claims = [] ∧
      (s.cellAt (s.curCell + i)).freePool.isSome = true) := by
  refine ⟨.n2, askingTwo, fun _ => 1, by decide +kernel, by decide +kernel, by decide +kernel, by decide +kernel,
    by decide +kernel, fun i h0 h2 => ?_⟩
  obtain rfl : i = 1 := by have : i < 2 := h2; omega
  decide +kernel

theorem met_ArrivalsComplete : ∃ (i : Instr) (s : State) (d : CellId) (b : Fin 8) (add : Option Word) (u0 v0 : Barrier), s.Quiet ∧
    arriveRule s i = some (.ok d, b, add) ∧ s.fenced .comb = true ∧ s.arriveCheck d b = .ok () ∧ (s.cellAt d).bars[b] = u0 ∧
    u0.acur.getLsbD (inComb s.curCell) = false ∧ u0.cur + 1 = u0.target ∧ u0.pend + add.getD 0 = 0 ∧
    ∃ t : State, t.Quiet ∧ arriveRule t i = some (.ok d, b, add) ∧ t.fenced .comb = true ∧ t.arriveCheck d b = .ok () ∧
      (t.cellAt d).bars[b] = v0 ∧ v0.acur.getLsbD (inComb t.curCell) = false ∧ v0.cur + 1 ≠ v0.target :=
  ⟨.arrivebRemote 3 1 0, atBarrier (strand [(1, 64)]) (twoCells 1 1 2 (-64)), 0, 3, some 64, twoCells 1 1 2 (-64), twoCells 0 0 0,
    by decide +kernel, by decide +kernel, by decide +kernel, by decide +kernel, by decide +kernel, by decide +kernel,
    by decide +kernel, by decide +kernel,
    atBarrier (strand [(1, 64)]) (twoCells 0 0 0), by decide +kernel⟩

/-- The line at 0x100100 of the first page, dirty in its slice. -/
def dirtyLine : Sector := ⟨(virtPage.addr 0 0x100100) / 32, 1, 0x100100 / 32, true, List.replicate 32 7, []⟩

theorem met_SliceOperationsComplete : ∃ (s : State) (a : WReg) (va loc : Nat) (p : Page) (x : Sector), s.Quiet ∧
    s.cell.stores = [] ∧ 2 ^ 20 ≤ (s.w a).toNat ∧ (s.w a).toNat < 2 ^ 57 ∧ s.place s.curCell (s.w a).toNat = .virt va loc p ∧
    s.lineWaits [x] 0 = false ∧ (s.hiveAt s.hive).sectors = [x] ∧ x.loc / 8 = loc / 256 ∧ x.dirty = true ∧ x.data.length = 32 ∧ Memory.wf s.mem = true :=
  ⟨{ atPage virtPage [(1, 0x1001FF)] with hives := [(0, { Hive.reset with sectors := [dirtyLine] })], now := 200 }, 1, 0x1001FF, _, virtPage,
    dirtyLine, by decide +kernel, by decide +kernel, by decide +kernel, by decide +kernel, rfl, by decide +kernel⟩

theorem met_SteppedComplete : ∃ (s : State) (n : Nat) (j : Job) (p : Page), s.Quiet ∧ s.jobOf s.curCell = some (n, j) ∧
    s.jobAt n = some j ∧ j.phase = .open ∧ Memory.wf s.mem = true ∧
    s.TargetOk (.xst (widthCode .int64)) (offsetAddr (s.w 1) (-2 : BitVec 10) (widthBytes .int64)) (widthBytes .int64) 1 p ∧
    isReduction (offsetAddr (s.w 1) (-2 : BitVec 10) (widthBytes .int64)) p = false ∧ s.TargetOk .xflag (s.w 1).toNat 8 1 p ∧
    s.TargetOk (.xamo .min true) (s.w 1).toNat 8 2 p ∧ s.windowOf 0 = 0 ∧
    s.localCheck (.xamo .min true 4 1 2 0) (s.w 4).toNat 16 16 1 = .ok () ∧ s.rangeWaits (s.w 4).toNat 2 = false :=
  ⟨atPage landing [(4, 0x7EFF0)], 1, job [landing], landing, by decide +kernel, by decide +kernel, by decide +kernel,
    by decide +kernel, by decide +kernel,
    by unfold State.TargetOk; decide +kernel, by decide +kernel, by unfold State.TargetOk; decide +kernel,
    by unfold State.TargetOk; decide +kernel, by decide +kernel⟩

theorem met_SteppedComplete_message : ∃ (s : State) (n : Nat) (j : Job) (a : WReg), s.Quiet ∧ s.jobOf s.curCell = some (n, j) ∧
    s.jobAt n = some j ∧ j.phase = .open ∧ Memory.wf s.mem = true ∧
    s.localCheck (.xam a) (s.w a).toNat 40 8 0 = .ok () ∧ s.marks = [] ∧ s.rangeWaits (s.w a).toNat 5 = false ∧ 64 ≤ s.cell.penLeft ∧
    s.xamBad (BitVec.ofNat 64 (s.read (tcmBase s.curCell + ownAddr s.curCell (s.w a).toNat + 8 * 0) 8)) = false :=
  ⟨withWords (atPage landing [(3, 0x7EFD8)]) [(0x7EFD8, 0xFC0FFF)], 1, job [landing], 3, by decide +kernel⟩

theorem met_LongResultsComplete_computed : ∃ (s u : State) (i j : Instr) (d e : WReg) (la lb : Fin 16) (v : Word) (r : Nat × Flags),
    s.Quiet ∧ divRule s.me i = some (d, la, v) ∧ s.windowOf la = 0 ∧ d ≠ 0 ∧
    u.Quiet ∧ fpLongRule u.me j = some (e, lb, r) ∧ r.2 &&& u.me.fenable = 0 ∧ u.windowOf lb = 0 ∧ e ≠ 0 :=
  ⟨one (strand [(2, 7), (3, -2)]), one (strand [(2, 0x4000000000000000)]), .rem .int64 4 2 3 0, .fsqrt true .rne false 4 2 0, 4,
    4, 0, 0,
    _, _, by decide +kernel, rfl, by decide +kernel, by decide +kernel, by decide +kernel, rfl, by decide +kernel⟩

theorem met_LongResultsComplete_tcm : ∃ (s : State) (i : Instr) (r : AccessRow) (w : Fmt) (a : WReg) (la : Fin 16), s.Quiet ∧
    loadRule s.me i = some r ∧ r.kind = .load w r.addr ∧ s.windowOf r.la = 0 ∧ r.dest ≠ 0 ∧ r.addr < 0x7F000 ∧
    s.cell.stores = [] ∧ s.zeroHeld s.curCell r.addr r.size = false ∧ s.rangeMarked (tcmBase s.curCell + r.addr) r.size = false ∧
    s.check s.curCell s.me.sv (s.instrWord i) r.addr r.size 0 = .ok (.tcm s.curCell r.addr) ∧
    s.windowOf la = 0 ∧ (s.w a).toNat + 8 ≤ 0x7F000 ∧ (s.w a).toNat % 8 = 0 ∧ s.zeroHeld s.curCell (s.w a).toNat 8 = false ∧
    s.rangeMarked (tcmBase s.curCell + (s.w a).toNat) 8 = false ∧ s.cell.closed (s.w a).toNat 8 = false :=
  ⟨one (strand [(2, 0x7EFF8)]), .ld .uint8 true 4 2 7 0, _, .uint8, 2, 0, by decide +kernel, rfl, by decide +kernel⟩

theorem met_LongResultsComplete_far : ∃ (s u : State) (i : Instr) (r : AccessRow) (n off : Nat) (p q : Page) (va : Nat), s.Quiet ∧
    feRule s.me i = some r ∧ s.windowOf r.la = 0 ∧ r.dest ≠ 0 ∧ s.misses s.curCell r.addr = false ∧
    r.addr % 8 = 0 ∧ s.place s.curCell r.addr = .scratch n off p ∧ p.state = .live ∧ s.fullAt n off = true ∧
    (s.combAt n).waiters = [] ∧ s.cell.stores = [] ∧ s.rangeMarked (scratchAddr n off) 8 = false ∧
    u.Quiet ∧ u.windowOf 0 = 0 ∧ u.misses u.curCell (offsetAddr (u.w 1) (0 : BitVec 6) 8) = false ∧
    offsetAddr (u.w 1) (0 : BitVec 6) 8 % 8 = 0 ∧ u.place u.curCell (offsetAddr (u.w 1) (0 : BitVec 6) 8) = .away va q ∧
    q.state ≠ .live ∧ u.unreadable (q.addr (q.homeFor u.hive) va) = false :=
  ⟨{ inJob (strand [(2, 0x7E00000000000000)]) (job [scratchPage]) with full := [(2 ^ 40 + 8) / 8] }, atPage (farPage .frozen),
    .feq false 4 2 1 0, _, 0, 8, scratchPage, farPage .frozen, 0x100010, by decide +kernel, rfl, by decide +kernel⟩

/-! ### Hashes -/

/-- FIPS 202: SHAKE256 of the empty message. -/
theorem test_shake : (shake256 [] 8).map BitVec.toNat = [0x46, 0xB9, 0xDD, 0x2B, 0x0B, 0xA8, 0x8D, 0x13] := by decide +kernel

end Sys2Proof.Tests
end

/-! The decoder of version 3 on one word (R89), field by field, and the encoding statements of R100, R105 and R106. -/

namespace Sys2Proof.Proofs

open Sys2Proof.Machine

-- One proof at a time: a thread for each, beside those of the tests before them, needs more memory than the check allows.
set_option Elab.async false

/-! ### Fields of the low 31 bits of a word: bit 31, S, is the bundle's and does not reach the decoder -/

theorem fld_low {w h l : Nat} (hl : l ≤ h) (hh : h < 31) : fld (w % 2 ^ 31) h l = fld w h l := by
  have hsplit : 2 ^ 31 = 2 ^ l * 2 ^ (31 - l) := by rw [← pow_add]; congr 1; omega
  have hdvd : 2 ^ (h + 1 - l) ∣ 2 ^ (31 - l) := Nat.pow_dvd_pow 2 (by omega)
  rw [fld, fld, hsplit, Nat.mod_mul_right_div_self, Nat.mod_mod_of_dvd _ hdvd]

theorem fld_lt (w h l : Nat) : fld w h l < 2 ^ (h + 1 - l) := Nat.mod_lt _ (by positivity)

theorem ofNat_val_fld (w h l : Nat) {n : Nat} [NeZero n] (hn : 2 ^ (h + 1 - l) = n) :
    (Fin.ofNat n (fld w h l)).val = fld w h l := Nat.mod_eq_of_lt (hn ▸ fld_lt w h l)

/-- A field of bits `h` down to `l` is its upper part, above bit `m`, and its lower part. -/
theorem fld_split (w h m l : Nat) (hl : l ≤ m + 1) (hm : m ≤ h) :
    fld w h l = fld w h (m + 1) * 2 ^ (m + 1 - l) + fld w m l := by
  have hsize : 2 ^ (h + 1 - l) = 2 ^ (m + 1 - l) * 2 ^ (h + 1 - (m + 1)) := by rw [← pow_add]; congr 1; omega
  have hshift : 2 ^ (m + 1) = 2 ^ l * 2 ^ (m + 1 - l) := by rw [← pow_add]; congr 1; omega
  rw [fld, fld, fld, hsize, hshift, ← Nat.div_div_eq_div_mul, Nat.mod_mul]
  ring

theorem fD_low (w : Nat) : fD (w % 2 ^ 31) = regD w :=
  Fin.ext ((fld_low (by decide) (by decide)).trans (ofNat_val_fld w 23 19 rfl).symm)

theorem fA_low (w : Nat) : fA (w % 2 ^ 31) = regA w :=
  Fin.ext ((fld_low (by decide) (by decide)).trans (ofNat_val_fld w 18 14 rfl).symm)

theorem fB_low (w : Nat) : fB (w % 2 ^ 31) = regB w :=
  Fin.ext ((fld_low (by decide) (by decide)).trans (ofNat_val_fld w 13 9 rfl).symm)

theorem fLa_low (w : Nat) : fLa (w % 2 ^ 31) = Fin.ofNat 16 (fld w 3 0) := by
  apply Fin.ext; rw [ofNat_val_fld w 3 0 (n := 16) rfl, ← fld_low (by decide) (by decide)]; simp [fLa, fld]

theorem bitAt_low {w l : Nat} (hl : l < 31) : bitAt (w % 2 ^ 31) l = (fld w l l == 1) := by
  rw [← fld_low le_rfl hl]; simp [bitAt, fld]

theorem imm_low {w n : Nat} (hn : n < 31) : BitVec.ofNat (n + 1) (w % 2 ^ 31) = BitVec.ofNat (n + 1) (fld w n 0) := by
  apply BitVec.eq_of_toNat_eq
  rw [← fld_low (Nat.zero_le n) hn]
  simp [fld]

theorem fn_low (w : Nat) : w % 2 ^ 31 % 32 = fld w 4 0 := by
  rw [← fld_low (by decide) (by decide)]; simp [fld]

theorem fld_imm_mod (w : Nat) {k : Nat} (hk : k < 12) : fld (w % 2 ^ 31) k 0 = fld w 11 0 % 2 ^ (k + 1) := by
  rw [fld_low (Nat.zero_le k) (by omega), fld, fld, Nat.mod_mod_of_dvd _ (Nat.pow_dvd_pow 2 (by omega))]; rfl

/-! ### A code and what it names -/

theorem fmt_code_ofCode {c : Nat} (hc : c < 16) : (Fmt.ofCode c).code = c := by
  revert c; decide

theorem aop_code_ofCode {c : Nat} (hc : c < 16) : (Aop.ofCode c).code = c := by
  revert c; decide

theorem fmt_ofCode_mod (c : Nat) : Fmt.ofCode (c % 16) = Fmt.ofCode c := by simp [Fmt.ofCode]

theorem aop_ofCode_mod (c : Nat) : Aop.ofCode (c % 16) = Aop.ofCode c := by simp [Aop.ofCode]

theorem fmtAt_low {w l : Nat} (hl : l + 3 < 31) : fmtAt (w % 2 ^ 31) l = Fmt.ofCode (fld w (l + 3) l) := by
  rw [← fld_low (by omega) hl, fld, show l + 3 + 1 - l = 4 by omega]
  exact (fmt_ofCode_mod _).symm

theorem aopAt_low {w l : Nat} (hl : l + 3 < 31) :
    Aop.ofCode (w % 2 ^ 31 / 2 ^ l) = Aop.ofCode (fld w (l + 3) l) := by
  rw [← fld_low (by omega) hl, fld, show l + 3 + 1 - l = 4 by omega]
  exact (aop_ofCode_mod _).symm

theorem ptrAt_low {w l : Nat} (hl : l + 3 < 31) :
    ptrAt (w % 2 ^ 31) l = ⟨Fin.ofNat 8 (fld w (l + 3) (l + 1)), fld w l l == 1⟩ := by
  rw [← fld_low (by omega) hl, ← fld_low le_rfl (by omega : l < 31)]
  simp [ptrAt, fld, show l + 3 + 1 - (l + 1) = 3 by omega, Fin.ofNat]

theorem widthOf_eq_ofCode {c : Nat} (hc : c < 4) : widthOf c = Fmt.ofCode c := by
  revert c; decide

theorem aopOf_eq_ofCode {c : Nat} (hc : c < 16) : aopOf c = Aop.ofCode c := by
  revert c; decide

theorem isFn_ofCode {c : Nat} (hc : c < 16) : (Aop.ofCode c).isFn = true ↔ 8 ≤ c := by
  revert c; decide

theorem ofCode_eq_cas {c : Nat} (hc : c < 16) : Aop.ofCode c = .cas ↔ c = 7 := by
  revert c; decide

theorem isScalarInt_ofCode {c : Nat} (hc : c < 16) : (Fmt.ofCode c).isScalarInt = true ↔ c < 4 := by
  simp [Fmt.isScalarInt, fmt_code_ofCode hc]

theorem isNarrowInt_ofCode {c : Nat} (hc : c < 16) : (Fmt.ofCode c).isNarrowInt = true ↔ c < 7 := by
  simp [Fmt.isNarrowInt, fmt_code_ofCode hc]

/-! ### The encoder's fields give the word's fields back -/

theorem bit_cases (w l : Nat) : fld w l l = 0 ∨ fld w l l = 1 := by
  have : fld w l l < 2 := by simpa using fld_lt w l l
  omega

theorem encD_regD (w : Nat) : encD (regD w) = fld w 23 19 * 2 ^ 19 := by simp [encD, regD, fld, Fin.ofNat]

theorem encA_regA (w : Nat) : encA (regA w) = fld w 18 14 * 2 ^ 14 := by simp [encA, regA, fld, Fin.ofNat]

theorem encB_regB (w : Nat) : encB (regB w) = fld w 13 9 * 2 ^ 9 := by simp [encB, regB, fld, Fin.ofNat]

theorem encF_ofCode {c : Nat} (hc : c < 16) (l : Nat) : encF (Fmt.ofCode c) l = c * 2 ^ l := by
  rw [encF, fmt_code_ofCode hc]

theorem toNat_bit (w l : Nat) : (fld w l l == 1).toNat = fld w l l := by
  have h : ∀ n < 2, (n == 1).toNat = n := by decide
  exact h _ (by simpa using fld_lt w l l)

theorem low_of_major {k op w : Nat} (h : major k op w) : w % 2 ^ 31 = k * 2 ^ 30 + op * 2 ^ 24 + fld w 23 0 := by
  obtain ⟨rfl, rfl⟩ := h
  have hlow : w % 2 ^ 31 = fld w 30 0 := by rw [fld, pow_zero, Nat.div_one]
  rw [hlow, fld_split w 30 29 0 (by decide) (by decide), fld_split w 29 23 0 (by decide) (by decide), add_assoc]

/-! ### Formats: the fields of bits 23:0 (R91, R92) -/

theorem fields_AR (w : Nat) : fld w 23 0 = fld w 23 19 * 2 ^ 19 + fld w 18 14 * 2 ^ 14 + fld w 13 9 * 2 ^ 9 +
    fld w 8 5 * 2 ^ 5 + fld w 4 0 := by
  rw [fld_split w 23 18 0 (by decide) (by decide), fld_split w 18 13 0 (by decide) (by decide),
    fld_split w 13 8 0 (by decide) (by decide), fld_split w 8 4 0 (by decide) (by decide)]
  ring

theorem fields_AL (w : Nat) : fld w 23 0 = fld w 23 19 * 2 ^ 19 + fld w 18 14 * 2 ^ 14 + fld w 13 9 * 2 ^ 9 +
    fld w 8 5 * 2 ^ 5 + fld w 4 4 * 2 ^ 4 + fld w 3 0 := by
  rw [fld_split w 23 18 0 (by decide) (by decide), fld_split w 18 13 0 (by decide) (by decide),
    fld_split w 13 8 0 (by decide) (by decide), fld_split w 8 4 0 (by decide) (by decide),
    fld_split w 4 3 0 (by decide) (by decide)]
  ring

theorem fields_AI (w : Nat) : fld w 23 0 = fld w 23 19 * 2 ^ 19 + fld w 18 14 * 2 ^ 14 + fld w 13 11 * 2 ^ 11 +
    fld w 10 0 := by
  rw [fld_split w 23 18 0 (by decide) (by decide), fld_split w 18 13 0 (by decide) (by decide),
    fld_split w 13 10 0 (by decide) (by decide)]
  ring

theorem fields_CV (w : Nat) : fld w 23 0 = fld w 23 20 * 2 ^ 20 + fld w 19 19 * 2 ^ 19 + fld w 18 14 * 2 ^ 14 +
    (fld w 13 11 * 2 + fld w 10 10) * 2 ^ 10 + (fld w 9 7 * 2 + fld w 6 6) * 2 ^ 6 + fld w 5 0 := by
  rw [fld_split w 23 19 0 (by decide) (by decide), fld_split w 19 18 0 (by decide) (by decide),
    fld_split w 18 13 0 (by decide) (by decide), fld_split w 13 10 0 (by decide) (by decide),
    fld_split w 10 9 0 (by decide) (by decide), fld_split w 9 6 0 (by decide) (by decide),
    fld_split w 6 5 0 (by decide) (by decide)]
  ring

theorem fields_CY (w : Nat) : fld w 23 0 = fld w 23 19 * 2 ^ 19 + fld w 18 14 * 2 ^ 14 + fld w 13 12 * 2 ^ 12 +
    fld w 11 0 := by
  rw [fld_split w 23 18 0 (by decide) (by decide), fld_split w 18 13 0 (by decide) (by decide),
    fld_split w 13 11 0 (by decide) (by decide)]
  ring

/-! ### A word put together from its fields, by format -/

theorem word_AR {op w : Nat} (h : major 1 op w) : w % 2 ^ 31 = opA op + encD (regD w) + encA (regA w) + fld w 13 9 * 2 ^ 9 +
    encF (Fmt.ofCode (fld w 8 5)) 5 + fld w 4 0 := by
  rw [low_of_major h, fields_AR, opA, encD_regD, encA_regA, encF_ofCode (fld_lt w 8 5)]
  ring

theorem word_AL {op w : Nat} (h : major 1 op w) : w % 2 ^ 31 = opA op + encD (regD w) + encA (regA w) + encB (regB w) +
    encF (Fmt.ofCode (fld w 8 5)) 5 + fld w 4 4 * 16 + (Fin.ofNat 16 (fld w 3 0)).val := by
  rw [low_of_major h, fields_AL, opA, encD_regD, encA_regA, encB_regB, encF_ofCode (fld_lt w 8 5),
    ofNat_val_fld w 3 0 (n := 16) rfl]
  ring

theorem word_AI {op w : Nat} (h : major 1 op w) : w % 2 ^ 31 = opA op + encD (regD w) + encA (regA w) +
    encF (Fmt.ofCode (fld w 13 11)) 11 + (BitVec.ofNat 11 (fld w 10 0)).toNat := by
  have hf : fld w 13 11 < 8 := fld_lt w 13 11
  rw [low_of_major h, fields_AI, opA, encD_regD, encA_regA, encF_ofCode (by omega), BitVec.toNat_ofNat,
    Nat.mod_eq_of_lt (fld_lt w 10 0)]
  ring

theorem word_CA {op w : Nat} (h : major 0 op w) : w % 2 ^ 31 = opC op + encD (regD w) + encA (regA w) + encB (regB w) +
    (Aop.ofCode (fld w 8 5)).code * 2 ^ 5 + (fld w 4 4 == 1).toNat * 2 ^ 4 + (Fin.ofNat 16 (fld w 3 0)).val := by
  rw [low_of_major h, fields_AL, opC, encD_regD, encA_regA, encB_regB, toNat_bit, ofNat_val_fld w 3 0 (n := 16) rfl,
    aop_code_ofCode (fld_lt w 8 5)]
  ring

theorem word_CV {op w : Nat} (h : major 0 op w) (h0 : fld w 5 0 = 0) :
    w % 2 ^ 31 = opC op + (Aop.ofCode (fld w 23 20)).code * 2 ^ 20 + (fld w 19 19 == 1).toNat * 2 ^ 19 + encA (regA w) +
      PtrArg.enc ⟨Fin.ofNat 8 (fld w 13 11), fld w 10 10 == 1⟩ * 2 ^ 10 +
      PtrArg.enc ⟨Fin.ofNat 8 (fld w 9 7), fld w 6 6 == 1⟩ * 2 ^ 6 := by
  rw [low_of_major h, fields_CV, h0, opC, encA_regA, PtrArg.enc, PtrArg.enc, toNat_bit, toNat_bit, toNat_bit,
    ofNat_val_fld w 13 11 (n := 8) rfl, ofNat_val_fld w 9 7 (n := 8) rfl, aop_code_ofCode (fld_lt w 23 20)]
  ring

theorem word_CY {w : Nat} (h : major 0 0 w) :
    w % 2 ^ 31 = fld w 23 19 * 2 ^ 19 + (fld w 18 14 * 2 ^ 14 + fld w 13 12 * 2 ^ 12 + fld w 11 0) := by
  rw [low_of_major h, fields_CY]; ring

/-! ### What one word answers (R89): the instruction that its codes name, if it is well formed and gives the word back -/

/-- The instruction that the major and minor codes of a word name, before items 3 and 4 of R89. -/
def candidate (w : Nat) : Except Reject Instr :=
  if fld w 30 30 = 1 then decodeA (w % 2 ^ 31) else decodeC (w % 2 ^ 31)

theorem decodeWord_eq_ok_iff {w : Nat} {i : Instr} :
    decodeWord 3 w = .ok i ↔ candidate w = .ok i ∧ i.wf = true ∧ encode i = w % 2 ^ 31 := by
  have h3 : decodeWord 3 w = decode3 (w % 2 ^ 31) := by simp [decodeWord]
  rw [h3, decode3, fld_low le_rfl (by decide), ← candidate]
  cases candidate w with
  | error e => simp
  | ok j =>
    dsimp only
    split_ifs with hwf henc
    · simp only [false_iff]
      rintro ⟨⟨⟩, hi, -⟩
      simp [hi] at hwf
    · exact ⟨fun h => by cases h; exact ⟨rfl, by simpa using hwf, henc⟩, And.left⟩
    · simp only [false_iff]
      rintro ⟨⟨⟩, -, hi⟩
      exact henc hi

theorem oneWord_eq_ok_iff {w : Nat} {i : Instr} :
    oneWord 3 w = .ok (.one i) ↔ candidate w = .ok i ∧ i.wf = true ∧ encode i = w % 2 ^ 31 := by
  rw [← decodeWord_eq_ok_iff, oneWord]
  cases decodeWord 3 w <;> simp

theorem refused_iff {w : Nat} : refused w ↔ ∀ i, candidate w = .ok i → i.wf = true → encode i ≠ w % 2 ^ 31 := by
  have h : refused w ↔ ∀ i, decodeWord 3 w ≠ .ok i := by
    rw [refused, oneWord]
    cases decodeWord 3 w with
    | error e => simp [wordTrap]
    | ok i => simp
  simp [h, decodeWord_eq_ok_iff]

theorem accepted_of_candidate {w : Nat} {i : Instr} (hc : candidate w = .ok i) (hwf : i.wf = true)
    (henc : encode i = w % 2 ^ 31) : accepted w := ⟨i, oneWord_eq_ok_iff.2 ⟨hc, hwf, henc⟩⟩

theorem refused_of_candidate {w : Nat} {i : Instr} (hc : candidate w = .ok i)
    (h : i.wf = true → encode i ≠ w % 2 ^ 31) : refused w := by
  rw [refused_iff]
  rintro j hj
  obtain rfl : i = j := by simpa [hc] using hj
  exact h

theorem refused_of_not_wf {w : Nat} {i : Instr} (hc : candidate w = .ok i) (hwf : ¬ i.wf = true) : refused w :=
  refused_of_candidate hc (absurd · hwf)

theorem refused_of_error {w : Nat} {e : Reject} (hc : candidate w = .error e) : refused w := by
  rw [refused_iff]
  simp [hc]

theorem candidate_of_major_A {op w : Nat} (h : major 1 op w) :
    candidate w = decodeA (w % 2 ^ 31) ∧ fld (w % 2 ^ 31) 29 24 = op :=
  ⟨if_pos h.1, (fld_low (by decide) (by decide)).trans h.2⟩

theorem candidate_of_major_C {op w : Nat} (h : major 0 op w) :
    candidate w = decodeC (w % 2 ^ 31) ∧ fld (w % 2 ^ 31) 29 24 = op :=
  ⟨if_neg (by rw [h.1]; decide), (fld_low (by decide) (by decide)).trans h.2⟩

/-! ### The atomic operations (R106) -/

theorem candidate_amo {w : Nat} (h : major 0 0x10 w) : candidate w = .ok (.amo (Aop.ofCode (fld w 8 5)) (fld w 4 4 == 1)
    (regD w) (regA w) (regB w) (Fin.ofNat 16 (fld w 3 0))) := by
  obtain ⟨hc, hop⟩ := candidate_of_major_C h
  rw [hc, decodeC, hop, ← aopAt_low (l := 5) (by decide), ← bitAt_low (l := 4) (by decide),
    ← fD_low, ← fA_low, ← fB_low, ← fLa_low]
  rfl

theorem candidate_xamo {w : Nat} (h : major 0 0x13 w) : candidate w = .ok (.xamo (Aop.ofCode (fld w 8 5)) (fld w 4 4 == 1)
    (regD w) (regA w) (regB w) (Fin.ofNat 16 (fld w 3 0))) := by
  obtain ⟨hc, hop⟩ := candidate_of_major_C h
  rw [hc, decodeC, hop, ← aopAt_low (l := 5) (by decide), ← bitAt_low (l := 4) (by decide),
    ← fD_low, ← fA_low, ← fB_low, ← fLa_low]
  rfl

theorem candidate_amov {w : Nat} (h : major 0 0x11 w) : candidate w =
    .ok (.amov (Aop.ofCode (fld w 23 20)) (fld w 19 19 == 1) (regA w)
      ⟨Fin.ofNat 8 (fld w 13 11), fld w 10 10 == 1⟩ ⟨Fin.ofNat 8 (fld w 9 7), fld w 6 6 == 1⟩) := by
  obtain ⟨hc, hop⟩ := candidate_of_major_C h
  rw [hc, decodeC, hop, ← aopAt_low (l := 20) (by decide), ← bitAt_low (l := 19) (by decide), ← fA_low,
    ← ptrAt_low (l := 10) (by decide), ← ptrAt_low (l := 6) (by decide)]
  rfl

/-- Settles O6: the word names the row with every operand, and the row's own condition on AOP decides. -/
theorem atomicOperationCodes : Obligations.AtomicOperationCodes := by
  unfold Obligations.AtomicOperationCodes Claims.AtomicCodes
  intro w
  rw [aopOf_eq_ofCode (fld_lt w 8 5), aopOf_eq_ofCode (fld_lt w 23 20)]
  refine ⟨fun h => ?_, fun h => ⟨fun hlt => ?_, fun hge => ?_⟩, fun h => ⟨fun hcas => ?_, fun hne h0 hpp => ?_⟩⟩
  · exact oneWord_eq_ok_iff.2 ⟨candidate_amo h, rfl, (word_CA h).symm⟩
  · have hwf := mt (isFn_ofCode (fld_lt w 8 5)).1 (by omega)
    exact oneWord_eq_ok_iff.2 ⟨candidate_xamo h, by simpa [Instr.wf] using hwf, (word_CA h).symm⟩
  · refine refused_of_not_wf (candidate_xamo h) ?_
    simpa [Instr.wf] using (isFn_ofCode (fld_lt w 8 5)).2 hge
  · refine refused_of_not_wf (candidate_amov h) ?_
    simp [Instr.wf, (ofCode_eq_cas (fld_lt w 23 20)).2 hcas]
  · refine oneWord_eq_ok_iff.2 ⟨candidate_amov h, ?_, (word_CV h h0).symm⟩
    have hop := mt (ofCode_eq_cas (fld_lt w 23 20)).1 hne
    have hreg : Fin.ofNat 8 (fld w 13 11) ≠ Fin.ofNat 8 (fld w 9 7) := fun he => hpp <| by
      rw [← ofNat_val_fld w 13 11 (n := 8) rfl, he, ofNat_val_fld w 9 7 (n := 8) rfl]
    simp only [Instr.wf, PtrArg.pairOk, Bool.and_eq_true, Bool.or_eq_true, bne_iff_ne]
    exact ⟨hop, .inl hreg⟩

/-! ### The integer majors (R100) -/

/-- The AI majors of R99 that accept IFMT 0x0-0x6. -/
def immGroup : List (Nat × (Fmt → WReg → WReg → BitVec 11 → Instr)) :=
  [(0x05, .addi), (0x06, .andi), (0x07, .ori), (0x08, .xori), (0x0D, .slti)]

/-- The shift and rotate majors of R99. -/
def shiftGroup : List (Nat × (Fmt → WReg → WReg → BitVec 11 → Instr)) :=
  [(0x09, .shli), (0x0A, .shri), (0x0B, .shai), (0x0C, .roti)]

theorem candidate_int {w : Nat} (h : major 1 0 w) : candidate w = decodeInt (w % 2 ^ 31) := by
  obtain ⟨hc, hop⟩ := candidate_of_major_A h
  rw [hc, decodeA, hop]
  rfl

theorem candidate_of_mem_intGroup {w : Nat} (h : major 1 0 w) {x} (hx : x ∈ intGroup) (hfn : fld w 4 0 = x.1) :
    candidate w = .ok (x.2 (Fmt.ofCode (fld w 8 5)) (regD w) (regA w) (regB w)) := by
  rw [candidate_int h, ← fmtAt_low (by decide), ← fD_low, ← fA_low, ← fB_low]
  rw [decodeInt, fn_low, hfn]
  fin_cases hx <;> rfl

theorem candidate_of_mem_unaryGroup {w : Nat} (h : major 1 0 w) {x} (hx : x ∈ unaryGroup) (hfn : fld w 4 0 = x.1) :
    candidate w = .ok (x.2 (Fmt.ofCode (fld w 8 5)) (regD w) (regA w)) := by
  rw [candidate_int h, ← fmtAt_low (by decide), ← fD_low, ← fA_low]
  rw [decodeInt, fn_low, hfn]
  fin_cases hx <;> rfl

theorem wf_of_mem_intGroup {x} (hx : x ∈ intGroup) (f : Fmt) (d a b : WReg) : (x.2 f d a b).wf = f.isScalarInt := by
  fin_cases hx <;> rfl

theorem wf_of_mem_unaryGroup {x} (hx : x ∈ unaryGroup) (f : Fmt) (d a : WReg) : (x.2 f d a).wf = f.isScalarInt := by
  fin_cases hx <;> rfl

theorem encode_of_mem_intGroup {x} (hx : x ∈ intGroup) (f : Fmt) (d a b : WReg) :
    encode (x.2 f d a b) = opA 0 + encD d + encA a + encB b + encF f 5 + x.1 := by
  fin_cases hx <;> rfl

theorem encode_of_mem_unaryGroup {x} (hx : x ∈ unaryGroup) (f : Fmt) (d a : WReg) :
    encode (x.2 f d a) = opA 0 + encD d + encA a + encF f 5 + x.1 := by
  fin_cases hx <;> rfl

theorem oneWord_of_mem_intGroup {w : Nat} (h : major 1 0 w) {x} (hx : x ∈ intGroup) (hfn : fld w 4 0 = x.1)
    (hf : fld w 8 5 < 4) :
    oneWord 3 w = .ok (.one (x.2 (Fmt.ofCode (fld w 8 5)) (regD w) (regA w) (regB w))) := by
  refine oneWord_eq_ok_iff.2 ⟨candidate_of_mem_intGroup h hx hfn, ?_, ?_⟩
  · rw [wf_of_mem_intGroup hx, isScalarInt_ofCode (fld_lt w 8 5)]
    exact hf
  · rw [encode_of_mem_intGroup hx, word_AR h, encB_regB, hfn]

theorem oneWord_of_mem_unaryGroup {w : Nat} (h : major 1 0 w) {x} (hx : x ∈ unaryGroup) (hfn : fld w 4 0 = x.1)
    (hf : fld w 8 5 < 4) (hb : fld w 13 9 = 0) :
    oneWord 3 w = .ok (.one (x.2 (Fmt.ofCode (fld w 8 5)) (regD w) (regA w))) := by
  refine oneWord_eq_ok_iff.2 ⟨candidate_of_mem_unaryGroup h hx hfn, ?_, ?_⟩
  · rw [wf_of_mem_unaryGroup hx, isScalarInt_ofCode (fld_lt w 8 5)]
    exact hf
  · rw [encode_of_mem_unaryGroup hx, word_AR h, hfn, hb]; ring

theorem fn_cases {n : Nat} (hn : n < 32) :
    (∃ x ∈ intGroup, n = x.1) ∨ (∃ x ∈ unaryGroup, n = x.1) ∨ n = 19 ∨ 24 ≤ n := by
  revert n; decide

theorem fn_lt_of_mem_intGroup {x} (hx : x ∈ intGroup) : x.1 < 19 := by fin_cases hx <;> decide

theorem fn_of_mem_unaryGroup {x} (hx : x ∈ unaryGroup) : 20 ≤ x.1 ∧ x.1 < 24 := by fin_cases hx <;> decide

theorem candidate_int_unallocated {w : Nat} (h : major 1 0 w) (hfn : fld w 4 0 = 19 ∨ 24 ≤ fld w 4 0) :
    candidate w = .error .minor := by
  have hlt : fld w 4 0 < 32 := fld_lt w 4 0
  rw [candidate_int h, decodeInt, fn_low]
  generalize fld w 4 0 = n at *
  obtain rfl | hge := hfn
  · rfl
  · interval_cases n <;> rfl

theorem refused_int {w : Nat} (h : major 1 0 w)
    (hbad : 4 ≤ fld w 8 5 ∨ fld w 4 0 = 19 ∨ 24 ≤ fld w 4 0 ∨ (20 ≤ fld w 4 0 ∧ fld w 13 9 ≠ 0)) : refused w := by
  rcases fn_cases (fld_lt w 4 0) with ⟨x, hx, hfn⟩ | ⟨x, hx, hfn⟩ | hfn
  · refine refused_of_not_wf (candidate_of_mem_intGroup h hx hfn) ?_
    rw [wf_of_mem_intGroup hx, isScalarInt_ofCode (fld_lt w 8 5)]
    have := fn_lt_of_mem_intGroup hx
    omega
  · by_cases hf : 4 ≤ fld w 8 5
    · refine refused_of_not_wf (candidate_of_mem_unaryGroup h hx hfn) ?_
      rw [wf_of_mem_unaryGroup hx, isScalarInt_ofCode (fld_lt w 8 5)]
      omega
    · refine refused_of_candidate (candidate_of_mem_unaryGroup h hx hfn) fun _ => ?_
      rw [encode_of_mem_unaryGroup hx, word_AR h, hfn]
      have := fn_of_mem_unaryGroup hx
      omega
  · exact refused_of_error (candidate_int_unallocated h hfn)

/-! ### `DIV` and `REM` -/

/-- The AL majors of the integer operations with their Z bit (R99). -/
def divGroup : List ((Nat × Nat) × (Fmt → WReg → WReg → WReg → Fin 16 → Instr)) :=
  [((0x01, 0), .div), ((0x01, 1), .divz), ((0x02, 0), .rem), ((0x02, 1), .remz)]

theorem exists_mem_divGroup {op z : Nat} (hop : op = 0x01 ∨ op = 0x02) (hz : z = 0 ∨ z = 1) :
    ∃ x ∈ divGroup, x.1 = (op, z) := by
  rcases hop with rfl | rfl <;> rcases hz with rfl | rfl <;> decide

theorem candidate_of_mem_divGroup {w : Nat} {x} (hx : x ∈ divGroup) (h : major 1 x.1.1 w) (hz : fld w 4 4 = x.1.2) :
    candidate w = .ok (x.2 (Fmt.ofCode (fld w 8 5)) (regD w) (regA w) (regB w) (Fin.ofNat 16 (fld w 3 0))) := by
  obtain ⟨hc, hop⟩ := candidate_of_major_A h
  rw [hc, ← fmtAt_low (by decide), ← fD_low, ← fA_low, ← fB_low, ← fLa_low]
  have hbit : bitAt (w % 2 ^ 31) 4 = (x.1.2 == 1) := hz ▸ bitAt_low (by decide)
  rw [decodeA, hop, hbit]
  fin_cases hx <;> rfl

theorem wf_of_mem_divGroup {x} (hx : x ∈ divGroup) (f : Fmt) (d a b : WReg) (la : Fin 16) :
    (x.2 f d a b la).wf = f.isScalarInt := by
  fin_cases hx <;> rfl

theorem encode_of_mem_divGroup {x} (hx : x ∈ divGroup) (f : Fmt) (d a b : WReg) (la : Fin 16) :
    encode (x.2 f d a b la) = opA x.1.1 + encD d + encA a + encB b + encF f 5 + x.1.2 * 16 + la.val := by
  fin_cases hx <;> rfl

/-- A word of `DIV` or `REM` names an instruction that is well formed exactly for FMT 0x0-0x3 and gives the word back. -/
theorem candidate_div {op w : Nat} (hop : op = 0x01 ∨ op = 0x02) (h : major 1 op w) :
    ∃ i, candidate w = .ok i ∧ (i.wf = true ↔ fld w 8 5 < 4) ∧ encode i = w % 2 ^ 31 := by
  obtain ⟨x, hx, hxz⟩ := exists_mem_divGroup hop (bit_cases w 4)
  obtain ⟨rfl, hz⟩ := Prod.mk.inj hxz
  refine ⟨_, candidate_of_mem_divGroup hx h hz.symm, ?_, ?_⟩
  · rw [wf_of_mem_divGroup hx, isScalarInt_ofCode (fld_lt w 8 5)]
  · rw [encode_of_mem_divGroup hx, word_AL h, hz]

/-! ### The AI majors -/

theorem exists_mem_immGroup {op : Nat} (hlo : 5 ≤ op) (hhi : op ≤ 0x0D) (hop : op < 9 ∨ op = 0x0D) :
    ∃ x ∈ immGroup, x.1 = op := by
  interval_cases op <;> revert hop <;> decide

theorem exists_mem_shiftGroup {op : Nat} (hlo : 9 ≤ op) (hhi : op ≤ 0x0C) : ∃ x ∈ shiftGroup, x.1 = op := by
  interval_cases op <;> decide

theorem candidate_of_mem_AI {w : Nat} {x} (hx : x ∈ immGroup ++ shiftGroup) (h : major 1 x.1 w) :
    candidate w = .ok (x.2 (Fmt.ofCode (fld w 13 11)) (regD w) (regA w) (BitVec.ofNat 11 (fld w 10 0))) := by
  obtain ⟨hc, hop⟩ := candidate_of_major_A h
  have hf : fld (w % 2 ^ 31) 13 11 = fld w 13 11 := fld_low (by decide) (by decide)
  rw [hc, ← fD_low, ← fA_low, ← imm_low (n := 10) (by decide), ← hf]
  rw [decodeA, hop]
  fin_cases hx <;> rfl

theorem encode_of_mem_AI {x} (hx : x ∈ immGroup ++ shiftGroup) (f : Fmt) (d a : WReg) (imm : BitVec 11) :
    encode (x.2 f d a imm) = opA x.1 + encD d + encA a + encF f 11 + imm.toNat := by
  fin_cases hx <;> rfl

theorem wf_of_mem_immGroup {x} (hx : x ∈ immGroup) (f : Fmt) (d a : WReg) (imm : BitVec 11) :
    (x.2 f d a imm).wf = f.isNarrowInt := by
  fin_cases hx <;> rfl

theorem wf_of_mem_shiftGroup {x} (hx : x ∈ shiftGroup) (f : Fmt) (d a : WReg) (imm : BitVec 11) :
    (x.2 f d a imm).wf = shiftImmOk f imm := by
  fin_cases hx <;> rfl

theorem shiftImmOk_ofCode {w : Nat} : shiftImmOk (Fmt.ofCode (fld w 13 11)) (BitVec.ofNat 11 (fld w 10 0)) = true ↔
    fld w 13 11 < 4 ∧ fld w 10 0 < 8 * 2 ^ fld w 13 11 := by
  have hf : fld w 13 11 < 8 := fld_lt w 13 11
  rw [shiftImmOk, Bool.and_eq_true, isScalarInt_ofCode (by omega), fmt_code_ofCode (by omega), BitVec.toNat_ofNat,
    Nat.mod_eq_of_lt (fld_lt w 10 0), decide_eq_true_iff]

/-- A word of an AI major that is no shift names an instruction well formed exactly for IFMT 0x0-0x6, and gives the
word back. -/
theorem candidate_imm {op w : Nat} (hlo : 5 ≤ op) (hhi : op ≤ 0x0D) (hop : op < 9 ∨ op = 0x0D) (h : major 1 op w) :
    ∃ i, candidate w = .ok i ∧ (i.wf = true ↔ fld w 13 11 < 7) ∧ encode i = w % 2 ^ 31 := by
  obtain ⟨x, hx, rfl⟩ := exists_mem_immGroup hlo hhi hop
  have hmem := List.mem_append_left shiftGroup hx
  have hf : fld w 13 11 < 8 := fld_lt w 13 11
  refine ⟨_, candidate_of_mem_AI hmem h, ?_, ?_⟩
  · rw [wf_of_mem_immGroup hx, isNarrowInt_ofCode (by omega)]
  · rw [encode_of_mem_AI hmem, word_AI h]

/-- A word of a shift or rotate major names an instruction well formed exactly for IFMT 0x0-0x3 and an immediate below the
width, and gives the word back. -/
theorem candidate_shift {op w : Nat} (hlo : 9 ≤ op) (hhi : op ≤ 0x0C) (h : major 1 op w) :
    ∃ i, candidate w = .ok i ∧ (i.wf = true ↔ fld w 13 11 < 4 ∧ fld w 10 0 < 8 * 2 ^ fld w 13 11) ∧
      encode i = w % 2 ^ 31 := by
  obtain ⟨x, hx, rfl⟩ := exists_mem_shiftGroup hlo hhi
  have hmem := List.mem_append_right immGroup hx
  refine ⟨_, candidate_of_mem_AI hmem h, ?_, ?_⟩
  · rw [wf_of_mem_shiftGroup hx, shiftImmOk_ofCode]
  · rw [encode_of_mem_AI hmem, word_AI h]

/-- Settles O5: each major's rows form a list, and every word of the major names one of them or none. -/
theorem integerMajorsDecode : Obligations.IntegerMajorsDecode := by
  unfold Obligations.IntegerMajorsDecode Claims.IntegerMajors
  intro w
  refine ⟨fun h => ⟨fun x hx hfn hf => ?_, fun x hx hfn hf hb => ?_, refused_int h⟩, fun h => ?_, fun op hlo hhi h => ?_⟩
  · rw [widthOf_eq_ofCode hf, oneWord_of_mem_intGroup h hx hfn hf]
  · rw [widthOf_eq_ofCode hf, oneWord_of_mem_unaryGroup h hx hfn hf hb]
  · obtain ⟨i, hc, hwf, henc⟩ := h.elim (candidate_div (.inl rfl)) (candidate_div (.inr rfl))
    exact ⟨fun hf => accepted_of_candidate hc (hwf.2 hf) henc, fun hf => refused_of_not_wf hc (mt hwf.1 (by omega))⟩
  · rcases (by omega : (op < 9 ∨ op = 0x0D) ∨ 9 ≤ op ∧ op ≤ 0x0C) with hop | ⟨hlo', hhi'⟩
    · obtain ⟨i, hc, hwf, henc⟩ := candidate_imm hlo hhi hop h
      exact ⟨fun hf => refused_of_not_wf hc (mt hwf.1 (by omega)), fun _ hf => accepted_of_candidate hc (hwf.2 hf) henc,
        fun _ _ => by omega⟩
    · obtain ⟨i, hc, hwf, henc⟩ := candidate_shift hlo' hhi' h
      exact ⟨fun hf => refused_of_not_wf hc (mt hwf.1 (by omega)), fun _ => by omega,
        fun _ _ => ⟨fun hf => refused_of_not_wf hc (mt hwf.1 (by omega)),
        fun hf himm => accepted_of_candidate hc (hwf.2 ⟨hf, himm⟩) henc⟩⟩

/-! ### The SYS major (R105) -/

theorem candidate_sys {w : Nat} (h : major 0 0 w) : candidate w = decodeSys (w % 2 ^ 31) := by
  obtain ⟨hc, hop⟩ := candidate_of_major_C h
  rw [hc, decodeC, hop]
  rfl

theorem scope_ofCode (n : Nat) : Scope.ofCode n =
    if n < 5 then some (([.strand, .cell, .comb, .hive, .job] : List Scope)[n]?.getD .strand) else none := by
  rcases n with _ | _ | _ | _ | _ | n <;> simp [Scope.ofCode]

theorem scope_code_getD : ∀ n < 5, (([.strand, .cell, .comb, .hive, .job] : List Scope)[n]?.getD .strand).code = n := by
  decide

theorem swarmSize_ofCode (n : Nat) : SwarmSize.ofCode n =
    if n < 3 then some (([.n2, .n4, .n8] : List SwarmSize)[n]?.getD .n2) else none := by
  rcases n with _ | _ | _ | n <;> simp [SwarmSize.ofCode]

theorem swarmSize_code_getD : ∀ n < 3, (([.n2, .n4, .n8] : List SwarmSize)[n]?.getD .n2).code = n := by
  decide

/-- The row whose condition holds exactly for the word that encodes its instruction is the row that the decoder finds. -/
theorem row_iff {c : Prop} [Decidable c] {v : Nat} {i j : Instr} (hwf : j.wf = true) (h : c ↔ encode j = v) :
    (if c then some j else none) = some i ↔ (.ok j : Except Reject Instr) = .ok i ∧ i.wf = true ∧ encode i = v := by
  simp only [Option.ite_none_right_eq_some, Option.some.injEq, Except.ok.injEq, h]
  constructor
  · rintro ⟨henc, rfl⟩; exact ⟨rfl, hwf, henc⟩
  · rintro ⟨rfl, -, henc⟩; exact ⟨henc, rfl⟩

/-- A row without operands: every field below the minor is zero. -/
theorem row_iff_of_no_operand {m a r n : Nat} {i j : Instr} (hwf : j.wf = true) (henc : encode j = m * 2 ^ 19) :
    (if a = 0 ∧ r = 0 ∧ n = 0 then some j else none) = some i ↔ (.ok j : Except Reject Instr) = .ok i ∧ i.wf = true ∧
      encode i = m * 2 ^ 19 + (a * 2 ^ 14 + r * 2 ^ 12 + n) :=
  row_iff hwf (by omega)

/-- A row whose operand is a code below `lim` in the low bits of IMM12, the rest of which is zero. -/
theorem row_iff_of_code {α : Type} {ofCode : Nat → Option α} {code : α → Nat} {entry : Nat → α} {k : α → Instr}
    {m a r n lim bits : Nat} {i : Instr} (hof : ∀ c, ofCode c = if c < lim then some (entry c) else none)
    (hcode : ∀ c < lim, code (entry c) = c) (henc : ∀ x, encode (k x) = m * 2 ^ 19 + code x)
    (hwf : ∀ x, (k x).wf = true) (hlim : lim ≤ 2 ^ bits) :
    (if a = 0 ∧ r = 0 ∧ n < lim then some (k (entry n)) else none) = some i ↔
      (do .ok (k (← opt (ofCode (n % 2 ^ bits)))) : Except Reject Instr) = .ok i ∧ i.wf = true ∧
        encode i = m * 2 ^ 19 + (a * 2 ^ 14 + r * 2 ^ 12 + n) := by
  have hle := Nat.mod_le n (2 ^ bits)
  by_cases hc : n % 2 ^ bits < lim
  · rw [hof, if_pos hc]
    by_cases hn : n < lim
    · rw [Nat.mod_eq_of_lt (by omega)]
      exact row_iff (hwf _) (by rw [henc, hcode n hn]; omega)
    · rw [if_neg (by omega)]
      refine iff_of_false nofun ?_
      rintro ⟨⟨⟩, -, he⟩
      rw [henc, hcode _ hc] at he
      omega
  · rw [hof, if_neg hc, if_neg (by omega)]
    exact iff_of_false nofun nofun

/-- R105 row by row: the table names exactly the instruction that the decoder finds and the encoder gives back. -/
theorem sysRow_eq_some_iff {w : Nat} {i : Instr} (h : major 0 0 w) :
    sysRow (fld w 23 19) (fld w 18 14) (fld w 13 12) (fld w 11 0) = some i ↔
      candidate w = .ok i ∧ i.wf = true ∧ encode i = w % 2 ^ 31 := by
  have ha : fld w 18 14 < 32 := fld_lt w 18 14
  have hn : fld w 11 0 < 4096 := fld_lt w 11 0
  rw [candidate_sys h, decodeSys, fld_low (by decide) (by decide), fld_imm_mod w (by decide), fld_imm_mod w (by decide),
    imm_low (n := 11) (by decide), fA_low, word_CY h, regA]
  generalize fld w 23 19 = m, fld w 18 14 = a, fld w 13 12 = r, fld w 11 0 = n at *
  have hnval : (BitVec.ofNat 12 n).toNat = n := Nat.mod_eq_of_lt hn
  match m with
  | 0 | 2 | 4 | 5 | 7 | 8 | 10 => exact row_iff_of_no_operand rfl rfl
  | 1 => exact row_iff_of_code (k := .fence) scope_ofCode scope_code_getD (fun _ => rfl) (fun _ => rfl) (by decide)
  | 9 => exact row_iff_of_code (k := .swarm) swarmSize_ofCode swarmSize_code_getD (fun _ => rfl) (fun _ => rfl) (by decide)
  | 3 =>
    have henc : encode (.yield (BitVec.ofNat 12 n)) = 3 * 2 ^ 19 + n := congrArg (3 * 2 ^ 19 + ·) hnval
    exact row_iff rfl (by omega)
  | 6 =>
    have henc : encode (.trap (BitVec.ofNat 12 n) (Fin.ofNat 32 a)) = 6 * 2 ^ 19 + a * 2 ^ 14 + n :=
      congrArg₂ (6 * 2 ^ 19 + · * 2 ^ 14 + ·) (Nat.mod_eq_of_lt ha) hnval
    exact row_iff rfl (by omega)
  | _ + 11 => exact iff_of_false nofun nofun

/-- Settles O4: the table and the decoder agree on every word, so a word without a row is refused. -/
theorem sysMajorDecodes : Obligations.SysMajorDecodes := by
  unfold Obligations.SysMajorDecodes Claims.SysMajor
  refine ⟨oneWord_eq_ok_iff.2 ⟨rfl, rfl, rfl⟩, fun w h => ⟨fun i hrow => ?_, fun hrow => ?_⟩⟩
  · exact oneWord_eq_ok_iff.2 ((sysRow_eq_some_iff h).1 hrow)
  · rw [refused_iff]
    intro i hc hwf henc
    have hsome := (sysRow_eq_some_iff h).2 ⟨hc, hwf, henc⟩
    simp [hrow] at hsome

end Sys2Proof.Proofs

/-! The long immediates, `NOP` and `TRAP` (R119, R142, R144): their words, what they leave, and how a handler goes on. -/

namespace Sys2Proof.Proofs

open Sys2Proof.Machine

set_option Elab.async false

/-! ### `LI` and `LIH`: formats AW and AH (R91, R119) -/

theorem word_AW {op w : Nat} (h : major 1 op w) :
    w % 2 ^ 31 = opA op + encD (regD w) + (BitVec.ofNat 19 (fld w 18 0)).toNat := by
  rw [low_of_major h, fld_split w 23 18 0 (by decide) (by decide), opA, encD_regD, BitVec.toNat_ofNat,
    Nat.mod_eq_of_lt (fld_lt w 18 0)]
  ring

/-- Bit 16 stands beside what the operands give back. -/
theorem word_AH {op w : Nat} (h : major 1 op w) :
    w % 2 ^ 31 = opA op + encD (regD w) + (Fin.ofNat 4 (fld w 18 17)).val * 2 ^ 17 +
      (BitVec.ofNat 16 (fld w 15 0)).toNat + fld w 16 16 * 2 ^ 16 := by
  rw [low_of_major h, fld_split w 23 18 0 (by decide) (by decide), fld_split w 18 16 0 (by decide) (by decide),
    fld_split w 16 15 0 (by decide) (by decide), opA, encD_regD, ofNat_val_fld w 18 17 (n := 4) rfl,
    BitVec.toNat_ofNat, Nat.mod_eq_of_lt (fld_lt w 15 0)]
  ring

theorem candidate_li {w : Nat} (h : major 1 0x03 w) :
    candidate w = .ok (.li (regD w) (BitVec.ofNat 19 (fld w 18 0))) := by
  obtain ⟨hc, hop⟩ := candidate_of_major_A h
  rw [hc, decodeA, hop, ← fD_low, ← imm_low (n := 18) (by decide)]
  rfl

theorem halfword_low (w : Nat) : Fin.ofNat 4 (w % 2 ^ 31 / 2 ^ 17) = Fin.ofNat 4 (fld w 18 17) := by
  apply Fin.ext
  rw [ofNat_val_fld w 18 17 (n := 4) rfl, ← fld_low (by decide) (by decide)]
  simp [fld]

theorem candidate_lih {w : Nat} (h : major 1 0x04 w) :
    candidate w = .ok (.lih (regD w) (Fin.ofNat 4 (fld w 18 17)) (BitVec.ofNat 16 (fld w 15 0))) := by
  obtain ⟨hc, hop⟩ := candidate_of_major_A h
  rw [hc, decodeA, hop, ← fD_low, ← halfword_low, ← imm_low (n := 15) (by decide)]
  rfl

theorem encode_lih (d : WReg) (h : Fin 4) (imm : BitVec 16) :
    encode (.lih d h imm) = opA 4 + encD d + h.val * 2 ^ 17 + imm.toNat := rfl

theorem oneWord_li {w : Nat} (h : major 1 0x03 w) :
    oneWord 3 w = .ok (.one (.li (regD w) (BitVec.ofNat 19 (fld w 18 0)))) :=
  oneWord_eq_ok_iff.2 ⟨candidate_li h, rfl, (word_AW h).symm⟩

theorem oneWord_lih {w : Nat} (h : major 1 0x04 w) (h16 : fld w 16 16 = 0) :
    oneWord 3 w = .ok (.one (.lih (regD w) (Fin.ofNat 4 (fld w 18 17)) (BitVec.ofNat 16 (fld w 15 0)))) := by
  refine oneWord_eq_ok_iff.2 ⟨candidate_lih h, rfl, ?_⟩
  rw [word_AH h, h16, encode_lih]
  omega

/-- The reserved bit does not come back from the encoder. -/
theorem refused_lih {w : Nat} (h : major 1 0x04 w) (h16 : fld w 16 16 = 1) : refused w := by
  refine refused_of_candidate (candidate_lih h) fun _ henc => ?_
  rw [word_AH h, h16, encode_lih] at henc
  omega

theorem exec_li {s : State} (hq : s.Quiet) (d : WReg) (imm : BitVec 19) :
    exec (.li d imm) s = .next (s.advance (s.me.wrote d (imm.signExtend 64))) :=
  congrArg _ (s.result_quiet hq d _)

theorem exec_lih {s : State} (hq : s.Quiet) (d : WReg) (h : Fin 4) (imm : BitVec 16) :
    exec (.lih d h imm) s = .next (s.advance (s.me.wrote d (bins (s.w d) (imm.zeroExtend 64) 16 (16 * h.val)))) :=
  congrArg _ (s.result_quiet hq d _)

/-- R119, R120: an insert of `w` bits at `off` replaces those bits and no other. -/
theorem getLsbD_bins (d v : Word) {wid off w k : Nat} (hw : fieldWidth wid off = w) (hk : k < 64) :
    (bins d v wid off).getLsbD k = if off ≤ k ∧ k < off + w then v.getLsbD (k - off) else d.getLsbD k := by
  have hcut : d.toNat % 2 ^ off + v.toNat % 2 ^ w * 2 ^ off + d.toNat / 2 ^ (off + w) * 2 ^ (off + w) =
      2 ^ off * (2 ^ w * (d.toNat / 2 ^ (off + w)) + v.toNat % 2 ^ w) + d.toNat % 2 ^ off := by ring
  have hlow : d.toNat % 2 ^ off < 2 ^ off := Nat.mod_lt _ (by positivity)
  have hfield : v.toNat % 2 ^ w < 2 ^ w := Nat.mod_lt _ (by positivity)
  simp only [bins, hw, hcut, BitVec.getLsbD_ofNat, hk, decide_true, Bool.true_and,
    Nat.testBit_two_pow_mul_add _ hlow, Nat.testBit_two_pow_mul_add _ hfield, Nat.testBit_mod_two_pow,
    Nat.testBit_div_two_pow, BitVec.testBit_toNat]
  by_cases hbelow : k < off
  · simp [hbelow, show ¬ off ≤ k by omega]
  · by_cases hin : k - off < w
    · simp [hbelow, hin, show off ≤ k ∧ k < off + w by omega]
    · simp [hbelow, hin, show ¬ (off ≤ k ∧ k < off + w) by omega, show k - off - w + (off + w) = k by omega]

/-- The halfword that `LIH` names takes the immediate. -/
theorem getLsbD_bins_halfword (v : Word) (h : Fin 4) (imm : BitVec 16) {k : Nat} (hk : k < 64) :
    (bins v (imm.zeroExtend 64) 16 (16 * h.val)).getLsbD k =
      if 16 * h.val ≤ k ∧ k < 16 * h.val + 16 then imm.getLsbD (k - 16 * h.val) else v.getLsbD k := by
  rw [getLsbD_bins v _ (w := 16) (by simp only [fieldWidth]; omega) hk]
  simp [show k - 16 * h.val < 64 by omega]

theorem mem_reads_writes_lih {d : WReg} (hd : d ≠ 0) (h : Fin 4) (imm : BitVec 16) :
    d.val ∈ (Instr.lih d h imm).reads ∧ d.val ∈ (Instr.lih d h imm).writes := by
  have hmem : d.val ∈ [wr d].filter (· != 0) := by simpa [wr] using hd
  exact ⟨hmem, hmem⟩

/-- Settles O7: the words by their formats, the result of `LIH` bit by bit. -/
theorem longImmediateRule : Obligations.LongImmediateRule := by
  unfold Obligations.LongImmediateRule Claims.LongImmediates
  refine ⟨fun _ => oneWord_li, fun d imm _ hq => exec_li hq d imm, fun imm => ?_,
    fun _ hm => ⟨oneWord_lih hm, refused_lih hm⟩, fun d h imm s hq => ?_, fun _ h imm hd => mem_reads_writes_lih hd h imm⟩
  · have hlo := imm.le_toInt
    have hhi := imm.toInt_lt
    omega
  · exact ⟨_, exec_lih hq d h imm, fun _ => getLsbD_bins_halfword (s.w d) h imm⟩

end Sys2Proof.Proofs

/-! `NOP` and `TRAP` (R144, R142): what they leave, where they stand in a bundle, and how a handler goes on. -/

namespace Sys2Proof.Proofs

open Sys2Proof.Machine

set_option Elab.async false

/-! ### Which words of a bundle issue (R85, R87) -/

theorem slotOf_word1 {encv pc : Nat} {b : Word} {alone : Bool} (hshape : bundleShapeOk b = true) (hpc : pc % 8 = 4) :
    slotOf encv b pc alone = oneWord encv (word1 b) := by
  simp [slotOf, hshape, hpc]

theorem slotOf_solo {encv pc : Nat} {b : Word} {alone : Bool} (hshape : bundleShapeOk b = true) (hpc : pc % 8 = 0)
    (hsolo : soloBundle b = true) : slotOf encv b pc alone = oneWord encv (word0 b) := by
  simp [slotOf, hshape, hpc, hsolo]

theorem slotOf_both {encv pc : Nat} {b : Word} (hshape : bundleShapeOk b = true) (hpc : pc % 8 = 0)
    (hpair : soloBundle b = false) : slotOf encv b pc false = bothWords encv b := by
  simp [slotOf, hshape, hpc, hpair]

theorem bothWords_of_pairOk {encv : Nat} {b : Word} {i j : Instr} (hi : decodeWord encv (word0 b) = .ok i)
    (hj : decodeWord encv (word1 b) = .ok j) (hok : pairOk i j = true) : bothWords encv b = .ok (.pair i j) := by
  simp [bothWords, hi, hj, hok]

/-! ### `NOP` (R144) -/

/-- S, bit 31, is no part of the word that the decoder reads. -/
theorem decodeWord_nop {w : Nat} (hw : w % 2 ^ 31 = 0) : decodeWord 3 w = .ok .nop := by
  have hk : fld w 30 30 = 0 := by rw [← fld_low le_rfl (by decide), hw]; rfl
  have hc : candidate w = .ok .nop := by rw [candidate, hk, hw]; rfl
  exact decodeWord_eq_ok_iff.2 ⟨hc, rfl, hw.symm⟩

theorem oneWord_nop {w : Nat} (hw : w % 2 ^ 31 = 0) : oneWord 3 w = .ok (.one .nop) := by
  rw [oneWord, decodeWord_nop hw]

theorem slotOf_nop_word1 {b : Word} {pc : Nat} {alone : Bool} (hshape : bundleShapeOk b = true) (h1 : word1 b = 0)
    (hpc : pc % 8 = 4) : slotOf 3 b pc alone = .ok (.one .nop) := by
  rw [slotOf_word1 hshape hpc, h1, oneWord_nop rfl]

theorem slotOf_nop_solo {b : Word} {pc : Nat} {alone : Bool} (hshape : bundleShapeOk b = true) (h0 : word0 b = 2 ^ 31)
    (hpc : pc % 8 = 0) : slotOf 3 b pc alone = .ok (.one .nop) := by
  have hsolo : soloBundle b = true := by rw [soloBundle, h0]; rfl
  rw [slotOf_solo hshape hpc hsolo, h0, oneWord_nop rfl]

/-- `NOP` writes nothing, so any word may be its partner. -/
theorem pairOk_nop (j : Instr) : pairOk .nop j = true := rfl

theorem slotOf_nop_pair {b : Word} {pc : Nat} {j : Instr} (hshape : bundleShapeOk b = true) (h0 : word0 b = 0)
    (hj : decodeWord 3 (word1 b) = .ok j) (hpc : pc % 8 = 0) : slotOf 3 b pc false = .ok (.pair .nop j) := by
  have hpair : soloBundle b = false := by rw [soloBundle, h0]; rfl
  have hi : decodeWord 3 (word0 b) = .ok .nop := decodeWord_nop (by rw [h0]; rfl)
  rw [slotOf_both hshape hpc hpair, bothWords_of_pairOk hi hj (pairOk_nop j)]

theorem exec_nop (s : State) : exec .nop s = .next s.retire := rfl

/-- With one result on its way and nothing held there is nothing to settle (R94, R96). -/
theorem settle_of_pending {s : State} {t : Strand} {o : LongOp} (hlongs : t.longs = [o]) (hres : o.result = none)
    (hheld : t.held = none) : (s.setMe t).settle = s.setMe t := by
  have hready : o.ready = false := by simp [LongOp.ready, hres]
  have hwritten : t.longs.filter LongOp.ready = [] := by simp [hlongs, hready]
  have hkept : (t.longs.filter fun p => !p.ready) = t.longs := by simp [hlongs, hready]
  have hcommit : t.commitAll = t := by simp only [Strand.commitAll, hwritten, List.foldl_nil, hkept]
  have hlate : t.lateFault = none := by simp [Strand.lateFault, hlongs, lateFaultFrom, hres]
  simp [State.settle, hcommit, hlate, hheld]

/-- R94: retirement in an open window moves the strand on and counts the word. -/
theorem retire_of_open_window {s : State} {o : LongOp} (hlongs : s.me.longs = [o]) (hres : o.result = none)
    (hleft : 0 < o.left) (hshadow : s.me.shadow = none) (hheld : s.me.held = none) (hreplay : s.me.replay = none) :
    s.retire = s.setMe { s.me with
      pc := s.me.pc + 4, run := .issuing, longs := [{ o with left := o.left - 1, slot := o.slot + 1 }] } := by
  have hpc : s.me.nextPc = s.me.pc + 4 := by rw [Strand.nextPc, hreplay]
  have hcount : s.me.countRetired =
      { s.me with longs := [{ o with left := o.left - 1, slot := o.slot + 1 }] } := by
    simp [Strand.countRetired, hlongs, hshadow, hleft.ne']
  rw [State.retire, State.retireTo, hpc, hcount, ← hreplay]
  exact settle_of_pending (o := { o with left := o.left - 1, slot := o.slot + 1 }) rfl hres hheld

/-- Settles O8: `NOP` retires and nothing else, whether a window counts it or not; its words stand where R144 says. -/
theorem nopHasNoEffect : Obligations.NopHasNoEffect := by
  unfold Obligations.NopHasNoEffect Claims.NopRule
  refine ⟨rfl, oneWord_nop rfl, rfl, fun s hq => ?_, rfl, fun _ hshape h1 _ => slotOf_nop_word1 hshape h1,
    fun _ hshape h0 _ => slotOf_nop_solo hshape h0, fun _ _ hshape h0 hj _ => slotOf_nop_pair hshape h0 hj,
    fun s o hlongs hres hleft hshadow hheld hreplay => ?_⟩
  · rw [exec_nop, s.retire_quiet hq]
  · rw [exec_nop, retire_of_open_window hlongs hres hleft hshadow hheld hreplay]

/-! ### `TRAP` and the entry of a handler (R42, R142) -/

theorem sv_setRecord (t : Strand) (cause pc val aux : Word) : (t.setRecord cause pc val aux).sv = t.sv := by
  simp [Strand.setRecord, Strand.sv, Strand.status]

theorem takeTrap_alone {s : State} (hswarm : s.me.swarm = none) (tr : Trap) (pc : Nat) (law : Bool) (slot : Nat) :
    s.takeTrap tr pc law slot = s.takeTrapAlone tr pc law slot := by
  rw [State.takeTrap, hswarm]

theorem deliverTrap_of_handler {s : State} {f : Firing} (hf : s.me.firing = some f) (hent : f.trapEnt ≠ 0)
    (hsv : s.me.sv = false) {cause : Cause} (hwdog : cause ≠ .watchdog) :
    s.deliverTrap cause = s.setMe { s.me.setSv true with pc := f.trapEnt, run := .issuing, buf := [] } := by
  simp [State.deliverTrap, hf, hent, hsv, hwdog]

/-- R42: a handler is entered with the record written and nothing but the strand changed. -/
theorem trapEntry : Claims.TrapEntry := by
  rintro s tr pc ent slot law ⟨⟨f, hf, rfl⟩, hne, hsv, hswarm⟩ hfp hwdog
  rw [takeTrap_alone hswarm, State.takeTrapAlone]
  simp only [hfp, decide_false, Bool.false_and, Bool.false_eq_true, if_false]
  rw [deliverTrap_of_handler (f := f) _ hne _ hwdog]
  · simp [Strand.trapped, Strand.clearIssue, hwdog, Strand.setRecord, Strand.setSv, Strand.setStatus, Strand.status]
  · simpa [Strand.clearIssue] using hf
  · rw [State.me_setMe]
    exact (sv_setRecord _ _ _ _ _).trans hsv

theorem exec_trap (n : BitVec 12) (a : WReg) (s : State) :
    exec (.trap n a) s = .next (s.raise ⟨.software, n.setWidth 64, s.w a, 0, 0, 0⟩) := by
  rw [← BitVec.ofNat_toNat]
  rfl

theorem exec_trap_quiet {s : State} (hq : s.Quiet) (n : BitVec 12) (a : WReg) : exec (.trap n a) s =
    .next ((s.setMe s.me).takeTrap ⟨.software, n.setWidth 64, s.w a, 0, 0, 0⟩ s.me.pc false 0) := by
  rw [exec_trap, s.raise_quiet hq, Strand.lateFlags_other _ _ (by simp)]

theorem trapInstruction : Claims.TrapInstruction := by
  intro n a s ent hq hent
  have hent' : (s.setMe s.me).EntersHandler ent := by simpa [State.EntersHandler] using hent
  rw [exec_trap_quiet hq, trapEntry _ _ _ ent _ _ hent' (by simp) (by simp)]
  simp [hq.2.1, Trap.causeWord, Cause.code, Strand.trapped]

/-! ### The way on past a `TRAP`: `MTS` to TRAPPC and `RTT` (R87, R142, R143) -/

theorem exec_mts_trappc {s : State} (hq : s.Quiet) (hsv : s.me.sv = true) (a : WReg) :
    exec (.mts 0x031 a) s = .next (s.advance (s.me.ws.set 59 (s.w a &&& 0x7FFFF))) := by
  have hexec : exec (.mts 0x031 a) s = .next (if !s.me.sv && !userWritable 0x031 then
      s.raise ⟨.privilege, s.instrWord (.mts 0x031 a), BitVec.ofNat 64 0x031, 0, 0, 0⟩
      else s.writeSysreg 0x031 (s.w a)) := rfl
  rw [hexec, hsv]
  exact congrArg _ (s.retire_setWs hq _)

theorem exec_rtt_of_supervisor {s : State} (hsv : s.me.sv = true) (hwdog : s.me.inWdog = false) :
    exec .rtt s = .next s.resumeRecord := by
  have hexec : exec .rtt s = .next (if !s.me.sv then s.raise ⟨.privilege, s.instrWord .rtt, 0, 0, 0, 0⟩
    else if s.me.inWdog then s.endFiring none true else s.resumeRecord) := rfl
  rw [hexec, hsv, hwdog]
  rfl

theorem sv_setSv (t : Strand) (b : Bool) : (t.setSv b).sv = b := by
  cases b <;> simp [Strand.setSv, Strand.sv, Strand.setStatus, Strand.status, setBit]

theorem toNat_and_pcMask {v : Word} (hv : v.toNat < 2 ^ 19) : (v &&& 0x7FFFF).toNat = v.toNat := by
  rw [BitVec.toNat_and]
  exact (Nat.and_two_pow_sub_one_eq_mod _ 19).trans (Nat.mod_eq_of_lt hv)

/-- R142: a handler that writes TRAPPC and returns goes on there in user mode. -/
theorem rtt_after_mts_trappc {s : State} (hq : s.Quiet) (hsv : s.me.sv = true) (hwdog : s.me.inWdog = false) {a : WReg}
    (ha : (s.w a).toNat < 2 ^ 19) : ∃ t u, exec (.mts 0x031 a) s = .next t ∧ exec .rtt t = .next u ∧
      u.me.sv = false ∧ u.me.run = .issuing ∧ u.me.pc = (s.w a).toNat := by
  have hsv' : (s.advance (s.me.ws.set 59 (s.w a &&& 0x7FFFF))).me.sv = true := by
    simpa [State.advance, Strand.sv, Strand.status] using hsv
  have hwdog' : (s.advance (s.me.ws.set 59 (s.w a &&& 0x7FFFF))).me.inWdog = false := by
    rw [Strand.inWdog, hsv] at hwdog
    rwa [Strand.inWdog, hsv', State.advance, State.me_setMe]
  refine ⟨_, _, exec_mts_trappc hq hsv a, exec_rtt_of_supervisor hsv' hwdog', ?_, ?_, ?_⟩
  · rw [State.resumeRecord, State.me_setMe]
    exact sv_setSv _ false
  · rw [State.resumeRecord, State.me_setMe]
  · rw [State.resumeRecord, State.me_setMe]
    have hdw : (s.advance (s.me.ws.set 59 (s.w a &&& 0x7FFFF))).me.dw 59 = s.w a &&& 0x7FFFF := by
      simp [State.advance, Strand.dw]
    rw [hdw, toNat_and_pcMask ha, Nat.mod_eq_of_lt ha]

/-- R43, R142: the record of a `TRAP`, and where its handler starts. -/
theorem trap_enters_handler {s : State} {ent : Nat} (hq : s.Quiet) (hent : s.EntersHandler ent) (n : BitVec 12) (a : WReg) :
    ∃ t, exec (.trap n a) s = .next t ∧ t.me.ws[58].toNat % 64 = 0x1B ∧ t.me.ws[59] = BitVec.ofNat 64 s.me.pc ∧
      t.me.ws[60] = n.setWidth 64 ∧ t.me.ws[61] = s.w a ∧ t.me.pc = ent := by
  refine ⟨_, trapInstruction n a s ent hq hent, ?_⟩
  simp [Strand.trapped, Strand.setSv, Strand.setStatus, Strand.setRecord]

theorem sysRow_trap (n : BitVec 12) (a : WReg) : sysRow 6 a.val 0 n.toNat = some (.trap n a) := by
  simp [sysRow, Fin.ofNat, Nat.mod_eq_of_lt a.isLt]

/-! ### Where the cells are listed in the order of their numbers, `TRAP` is the trap itself -/

/-- The cells are listed once each, in the order of their numbers. -/
def CellsInOrder (s : State) : Prop := s.cells.Pairwise fun x y => x.1 < y.1

theorem mem_of_look {α : Type} {l : List (Nat × α)} {n : Nat} {a : α} (h : look l n = some a) : (n, a) ∈ l := by
  induction l with
  | nil => simp [look] at h
  | cons p r ih =>
    by_cases hp : p.1 = n
    · simp_all [look, Prod.ext_iff]
    · simp only [look, hp, if_false] at h
      exact List.mem_cons_of_mem _ (ih h)

/-- In a list kept in order, writing back what stands under a key changes nothing. -/
theorem put_of_look {α : Type} {l : List (Nat × α)} {n : Nat} {a : α} (hl : l.Pairwise fun x y => x.1 < y.1)
    (h : look l n = some a) : put l n a = l := by
  induction l with
  | nil => simp [look] at h
  | cons p r ih =>
    obtain ⟨hhead, htail⟩ := List.pairwise_cons.1 hl
    by_cases hp : p.1 = n
    · simp_all [look, put, Prod.ext_iff]
    · simp only [look, hp, if_false] at h
      have hlt : p.1 < n := hhead _ (mem_of_look h)
      simp [put, hp, hlt.not_gt, ih htail h]

theorem setStrand_me (s : State) : s.cell.setStrand s.curStrand s.me = s.cell := by
  have hset : s.cell.strands.set s.curStrand s.me = s.cell.strands := Vector.set_getElem_self s.curStrand.isLt
  rw [Cell.setStrand, hset]

theorem setMe_me {s : State} (hord : CellsInOrder s) {c : Cell} (hlook : look s.cells s.curCell = some c) :
    s.setMe s.me = s := by
  have hcell : s.cell = c := by rw [State.cell, State.cellAt, hlook, Option.getD_some]
  rw [State.setMe_eq, setStrand_me, hcell, State.setCur, State.setCell, put_of_look hord hlook]

/-- A cell that is not listed is at reset, and so in no swarm. -/
theorem swarm_of_unlisted {s : State} (hlook : look s.cells s.curCell = none) : s.me.swarm = none := by
  have hcell : s.cell = Cell.reset := by rw [State.cell, State.cellAt, hlook, Option.getD_none]
  rw [State.me_eq, hcell]
  simp [Cell.reset, Strand.reset]

theorem takeTrapAlone_setMe_me (s : State) (tr : Trap) (pc : Nat) (law : Bool) (slot : Nat) :
    (s.setMe s.me).takeTrapAlone tr pc law slot = s.takeTrapAlone tr pc law slot := by
  have hbusy : (s.setMe s.me).shadowBusy = s.shadowBusy := by
    rw [State.shadowBusy, State.me_setMe, State.cell_setMe, setStrand_me, State.shadowBusy]
  simp only [State.takeTrapAlone, hbusy, State.me_setMe, State.setMe_setMe]

theorem takeTrap_setMe_me {s : State} (hord : CellsInOrder s) (tr : Trap) (pc : Nat) (law : Bool) (slot : Nat) :
    (s.setMe s.me).takeTrap tr pc law slot = s.takeTrap tr pc law slot := by
  cases hlook : look s.cells s.curCell with
  | some c => rw [setMe_me hord hlook]
  | none =>
    have hswarm := swarm_of_unlisted hlook
    rw [takeTrap_alone hswarm, takeTrap_alone (by rwa [State.me_setMe]), takeTrapAlone_setMe_me]

/-- R142, R25, R143, R87, as `Claims.TrapRule` says them, with the one premise that it lacks: the trap is the
instruction's whole effect where the cells are listed in order. -/
theorem trapRule_of_cellsInOrder :
    (∀ (n : BitVec 12) (a : WReg), sysRow 6 a.val 0 n.toNat = some (.trap n a) ∧
      (Instr.trap n a).serialising = true ∧ ∀ j, pairOk (.trap n a) j = false) ∧
    (∀ (n : BitVec 12) (a : WReg) (s : State), s.Quiet → CellsInOrder s → exec (.trap n a) s =
      .next (s.takeTrap ⟨.software, n.setWidth 64, s.w a, 0, 0, 0⟩ s.me.pc false 0)) ∧
    (∀ (n : BitVec 12) (a : WReg) (s : State) (ent : Nat), s.Quiet → s.EntersHandler ent →
      ∃ t, exec (.trap n a) s = .next t ∧ t.me.ws[58].toNat % 64 = 0x1B ∧ t.me.ws[59] = BitVec.ofNat 64 s.me.pc ∧
        t.me.ws[60] = n.setWidth 64 ∧ t.me.ws[61] = s.w a ∧ t.me.pc = ent) ∧
    (∀ (a : WReg) (s : State), s.Quiet → s.me.sv = true → s.me.inWdog = false → (s.w a).toNat < 2 ^ 19 →
      ∃ t u, exec (.mts 0x031 a) s = .next t ∧ exec .rtt t = .next u ∧ u.me.sv = false ∧ u.me.run = .issuing ∧
        u.me.pc = (s.w a).toNat) ∧
    ∀ (encv : Nat) (b : Word) (pc : Nat) (alone : Bool), bundleShapeOk b = true → pc % 8 = 4 →
      slotOf encv b pc alone = oneWord encv (word1 b) := by
  refine ⟨fun n a => ⟨sysRow_trap n a, rfl, fun _ => rfl⟩, fun n a s hq hord => ?_,
    fun n a s ent hq hent => trap_enters_handler hq hent n a, fun a s hq hsv hwdog => rtt_after_mts_trappc hq hsv hwdog,
    fun _ _ _ _ => slotOf_word1⟩
  rw [exec_trap_quiet hq, takeTrap_setMe_me hord]

/-! ### Where they are not, `TRAP` also lists the cell of its strand anew -/

/-- A swarm whose list of members names its leader, strand 0 of cell 1, alone. -/
def leaderOnlySwarm : SwarmInfo := ⟨1, 0, [(1, 0)], .n2⟩

/-- A strand of that swarm, in swarm mode (STATUS.SWM). -/
def unnamedMember : Strand :=
  { Strand.reset with run := .issuing, swarm := some leaderOnlySwarm, ws := Strand.reset.ws.set 50 (2 ^ 6) }

/-- Cell 1 is listed before cell 0, whose strand 0 is such a member and the current strand. -/
def outOfOrder : State :=
  { State.reset with cells := [(1, Cell.reset), (0, Cell.reset.setStrand 0 unnamedMember)] }

/-- The numbers under which an outcome lists cells. -/
def listedCells (r : Host.Outcome State Fault Refusal) : List Nat := (outState State.reset r).cells.map Prod.fst

/-- The instruction writes its strand before it takes the trap, so cell 0 comes to stand before cell 1 as well. -/
theorem listedCells_exec_trap : listedCells (exec (.trap 0 0) outOfOrder) = [0, 1, 0] := rfl

/-- The trap breaks the swarm in its leader and does not write the strand that raised it. -/
theorem listedCells_takeTrap :
    listedCells (.next (outOfOrder.takeTrap ⟨.software, 0, 0, 0, 0, 0⟩ outOfOrder.me.pc false 0)) = [1, 0] := rfl

/-- Refutes O9: its second clause is of every state, also of one whose cells are not listed in order. There `TRAP` of a
strand that its swarm's list of members does not name, `outOfOrder`, leaves another list of cells than the trap does. With
the cells in order every clause holds (`trapRule_of_cellsInOrder`). -/
theorem not_trapInstructionRule : ¬ Obligations.TrapInstructionRule := by
  unfold Obligations.TrapInstructionRule Claims.TrapRule
  rintro ⟨-, htrap, -⟩
  have hquiet : outOfOrder.Quiet := by decide
  have hlists := (congrArg listedCells (htrap 0 0 outOfOrder hquiet)).symm.trans listedCells_exec_trap
  exact absurd (listedCells_takeTrap.symm.trans hlists) (by decide)

end Sys2Proof.Proofs

/-! `MBW`, and `SENDM` of a message word with a reserved bit set (R224, R225): the word, what it writes, and when it traps. -/

namespace Sys2Proof.Proofs

open Sys2Proof.Machine

set_option Elab.async false

/-! ### The word of `MBW` -/

/-- The reserved fields of `MBW` are bits 23:19, 13:9 and 8:3. -/
theorem word_mbw {w : Nat} (h : major 0 0x27 w) (h23 : fld w 23 19 = 0) (h13 : fld w 13 9 = 0) (h8 : fld w 8 3 = 0) :
    w % 2 ^ 31 = opC 39 + encA (regA w) + (Fin.ofNat 8 (fld w 2 0)).val := by
  rw [low_of_major h, fld_split w 23 18 0 (by decide) (by decide), fld_split w 18 13 0 (by decide) (by decide),
    fld_split w 13 8 0 (by decide) (by decide), fld_split w 8 2 0 (by decide) (by decide), h23, h13, h8, opC, encA_regA,
    ofNat_val_fld w 2 0 (n := 8) rfl]
  ring

theorem fBar_low (w : Nat) : fBar (w % 2 ^ 31) = Fin.ofNat 8 (fld w 2 0) := by
  apply Fin.ext; rw [ofNat_val_fld w 2 0 (n := 8) rfl, ← fld_low (by decide) (by decide)]; simp [fBar, fld]

theorem candidate_mbw {w : Nat} (h : major 0 0x27 w) :
    candidate w = .ok (.mbw (Fin.ofNat 8 (fld w 2 0)) (regA w)) := by
  obtain ⟨hc, hop⟩ := candidate_of_major_C h
  rw [hc, decodeC, hop, ← fBar_low, ← fA_low]
  rfl

theorem wf_mbw (w : Nat) (a : WReg) : (Instr.mbw (Fin.ofNat 8 (fld w 2 0)) a).wf = true ↔ fld w 2 0 < 5 := by
  rw [Instr.wf, decide_eq_true_iff, ofNat_val_fld w 2 0 (n := 8) rfl]

theorem oneWord_mbw {w : Nat} (h : major 0 0x27 w) (h23 : fld w 23 19 = 0) (h13 : fld w 13 9 = 0) (h8 : fld w 8 3 = 0)
    (hn : fld w 2 0 < 5) : oneWord 3 w = .ok (.one (.mbw (Fin.ofNat 8 (fld w 2 0)) (regA w))) :=
  oneWord_eq_ok_iff.2 ⟨candidate_mbw h, (wf_mbw w _).2 hn, (word_mbw h h23 h13 h8).symm⟩

theorem refused_mbw {w : Nat} (h : major 0 0x27 w) (hn : 5 ≤ fld w 2 0) : refused w :=
  refused_of_not_wf (candidate_mbw h) (mt (wf_mbw w _).1 hn.not_gt)

/-! ### What `MBW` writes -/

theorem exec_mbw {s : State} (hq : s.Quiet) (n : Fin 5) (a : WReg) :
    exec (.mbw ⟨n.val, by omega⟩ a) s = .next (s.advance (s.me.ws.set (44 + n.val) (s.w a))) := by
  have hreg : (Fin.ofNat 64 (44 + n.val)).val = 44 + n.val := Nat.mod_eq_of_lt (by omega)
  have hexec : exec (.mbw ⟨n.val, by omega⟩ a) s =
      .next (s.setMe (s.me.setDw (Fin.ofNat 64 (44 + n.val)) (s.w a))).retire := rfl
  simp only [hexec, Strand.setDw, hreg, s.retire_setWs hq]

theorem m_advance_set (s : State) (n : Fin 5) (v : Word) : (s.advance (s.me.ws.set (44 + n.val) v)).me.m n = v := by
  simp [State.advance, Strand.m]

/-! ### `SENDM` of a message word with a reserved bit set -/

/-- Bits 63:26 of a message word are reserved (R23), and the first of its checks is theirs. -/
theorem messageCheck_of_reserved {m0 : Word} (hm : 2 ^ 26 ≤ m0.toNat) (s : State) (i : Instr) :
    s.messageCheck i m0 = .error ⟨.access, m0, 0, 0, 0, 0⟩ := by
  have hbits : decide (2 ^ 26 ≤ m0.toNat) = true := decide_eq_true hm
  simp only [State.messageCheck, hbits, Bool.true_or, if_true]

theorem sendMessage_of_reserved {s : State} (hm : 2 ^ 26 ≤ (s.me.m 0).toNat) (i : Instr) (trap : Bool) :
    s.sendMessage i trap = s.raise ⟨.access, s.me.m 0, 0, 0, 0, 0⟩ := by
  rw [State.sendMessage, messageCheck_of_reserved hm, State.orRaise]

/-- The trap finds the strand written back as it stands. -/
theorem raise_other_quiet {s : State} (hq : s.Quiet) {tr : Trap} (htr : tr.cause ≠ .fpException) :
    s.raise tr = (s.setMe s.me).takeTrap tr s.me.pc false 0 := by
  rw [s.raise_quiet hq, Strand.lateFlags_other _ _ htr]

theorem exec_sendm_of_reserved {s : State} {i : Instr} (hq : s.Quiet) (hi : i = .sendm ∨ i = .sendmT)
    (hm : 2 ^ 26 ≤ (s.me.m 0).toNat) :
    exec i s = .next ((s.setMe s.me).takeTrap ⟨.access, s.me.m 0, 0, 0, 0, 0⟩ s.me.pc false 0) := by
  have hsend : ∃ trap, exec i s = .next (s.sendMessage i trap) := by
    obtain rfl | rfl := hi
    · exact ⟨false, rfl⟩
    · exact ⟨true, rfl⟩
  obtain ⟨trap, hexec⟩ := hsend
  rw [hexec, sendMessage_of_reserved hm, raise_other_quiet hq (by simp)]

/-- R224, R225, as `Claims.MessageWordRule` says them, with the one premise that it lacks: the trap is the whole effect
of `SENDM` where the cells are listed in order. -/
theorem messageWordRule_of_cellsInOrder :
    (∀ w, major 0 0x27 w → fld w 23 19 = 0 → fld w 13 9 = 0 → fld w 8 3 = 0 →
      (fld w 2 0 < 5 → oneWord 3 w = .ok (.one (.mbw (Fin.ofNat 8 (fld w 2 0)) (regA w)))) ∧
      (5 ≤ fld w 2 0 → refused w)) ∧
    (∀ (n : Fin 5) (a : WReg) (s : State), s.Quiet → ∃ t, exec (.mbw ⟨n.val, by omega⟩ a) s = .next t ∧
      t = s.advance (s.me.ws.set (44 + n.val) (s.w a)) ∧ t.me.m n = s.w a) ∧
    ∀ (s : State) (i : Instr), s.Quiet → CellsInOrder s → i = .sendm ∨ i = .sendmT → 2 ^ 26 ≤ (s.me.m 0).toNat →
      exec i s = .next (s.takeTrap ⟨.access, s.me.m 0, 0, 0, 0, 0⟩ s.me.pc false 0) := by
  refine ⟨fun w h h23 h13 h8 => ⟨oneWord_mbw h h23 h13 h8, refused_mbw h⟩,
    fun n a s hq => ⟨_, exec_mbw hq n a, rfl, m_advance_set s n _⟩, fun s i hq hord hi hm => ?_⟩
  rw [exec_sendm_of_reserved hq hi hm, takeTrap_setMe_me hord]

/-! ### Where they are not, `SENDM` also lists the cell of its strand anew -/

/-- The member that its swarm's list does not name, with the lowest reserved bit of `m0` set. -/
def malformedSender : Strand := { unnamedMember with ws := unnamedMember.ws.set 44 (2 ^ 26) }

/-- Cell 1 is listed before cell 0, whose strand 0 is that sender and the current strand. -/
def senderOutOfOrder : State :=
  { State.reset with cells := [(1, Cell.reset), (0, Cell.reset.setStrand 0 malformedSender)] }

/-- The instruction writes its strand before it takes the trap, so cell 0 comes to stand before cell 1 as well. -/
theorem listedCells_exec_sendm : listedCells (exec .sendm senderOutOfOrder) = [0, 1, 0] := rfl

/-- The trap breaks the swarm in its leader and does not write the strand that raised it. -/
theorem listedCells_takeTrap_sender : listedCells (.next (senderOutOfOrder.takeTrap
    ⟨.access, senderOutOfOrder.me.m 0, 0, 0, 0, 0⟩ senderOutOfOrder.me.pc false 0)) = [1, 0] := rfl

/-- The same machine with its cells in order meets every premise, and there the trap is the instruction's whole effect. -/
theorem exec_sendm_cells_reversed : ∃ s : State, s.cells = senderOutOfOrder.cells.reverse ∧
    exec .sendm s = .next (s.takeTrap ⟨.access, s.me.m 0, 0, 0, 0, 0⟩ s.me.pc false 0) := by
  obtain ⟨-, -, hsend⟩ := messageWordRule_of_cellsInOrder
  refine ⟨{ senderOutOfOrder with cells := senderOutOfOrder.cells.reverse }, rfl, ?_⟩
  exact hsend _ _ (by decide) (by simp [CellsInOrder, senderOutOfOrder]) (.inl rfl) (by decide)

/-- Refutes O10: its last clause is of every state, also of one whose cells are not listed in order. There `SENDM` of a
strand that its swarm's list of members does not name, `senderOutOfOrder`, leaves another list of cells than the trap
does. With the cells in order every clause holds (`messageWordRule_of_cellsInOrder`). -/
theorem not_messageWordWritten : ¬ Obligations.MessageWordWritten := by
  unfold Obligations.MessageWordWritten Claims.MessageWordRule
  rintro ⟨-, -, hsend⟩
  have hquiet : senderOutOfOrder.Quiet := by decide
  have hreserved : 2 ^ 26 ≤ (senderOutOfOrder.me.m 0).toNat := by decide
  have htrap := hsend senderOutOfOrder .sendm hquiet (.inl rfl) hreserved
  have hlists := (congrArg listedCells htrap).symm.trans listedCells_exec_sendm
  exact absurd (listedCells_takeTrap_sender.symm.trans hlists) (by decide)

end Sys2Proof.Proofs

/-! Traps at issue where the cells are not listed in the order of their numbers. An instruction that traps at issue first
writes its strand, so that such a list takes the strand's cell in anew; a trap that breaks a swarm does not write the strand
that raised it. The statements that give `State.takeTrap` as the whole effect of such an instruction speak of every state. -/

namespace Sys2Proof.Proofs

open Sys2Proof.Machine

set_option Elab.async false

/-! ### The cells that a trap writes -/

theorem stillPending_cells (s : State) (i : Instr) : (s.stillPending i).cells = s.cells := by
  rw [State.stillPending]; split <;> rfl

theorem watchStall_cells (s : State) (g : CellId) : (s.watchStall g).cells = s.cells := by
  rw [State.watchStall]
  split
  · exact stillPending_cells _ _
  · rfl

theorem sendFault_cells (s : State) (kind : Nat) (g : CellId) (slot : Nat) (k : StrandId) (rec : List Word)
    (stat : Word) : (s.sendFault kind g slot k rec stat).cells = s.cells := by
  rw [State.sendFault]
  split
  · split <;> rfl
  · rfl

theorem deliverTrap_cells (s : State) (cause : Cause) :
    ∃ c, (s.deliverTrap cause).cells = put s.cells s.curCell c := by
  rw [State.deliverTrap]
  split
  · rw [State.escalate, sendFault_cells, watchStall_cells]
    exact ⟨_, rfl⟩
  · split <;> exact ⟨_, rfl⟩

/-- A trap that a strand takes alone writes its own cell and no other. -/
theorem takeTrapAlone_cells (s : State) (tr : Trap) (pc : Nat) (law : Bool) (slot : Nat) :
    ∃ c, (s.takeTrapAlone tr pc law slot).cells = put s.cells s.curCell c := by
  have hset : ∀ t, (s.setMe t).cells = put s.cells s.curCell ((s.cellAt s.curCell).setStrand s.curStrand t) := fun _ => rfl
  rw [State.takeTrapAlone]
  split
  · rw [sendFault_cells, watchStall_cells, State.setMe_setMe, hset]
    exact ⟨_, rfl⟩
  · obtain ⟨c, hc⟩ := deliverTrap_cells (s.setMe { (s.me.clearIssue tr.cause s.shadowBusy).setRecord
      (tr.causeWord law slot) (BitVec.ofNat 64 pc) tr.val tr.aux with run := .issuing }) tr.cause
    exact ⟨c, hc.trans (by rw [hset, State.setMe_curCell, put_put])⟩

/-! ### Cells listed out of order: a trap at issue lists the cell of its strand anew, the trap itself does not -/

/-- Cell 1 is listed before cell 0, whose current strand is in the swarm that does not name it. -/
structure Reversed (s : State) : Prop where
  cells : ∃ c d, s.cells = [(1, c), (0, d)]
  cur : s.curCell = 0
  swarm : s.me.swarm = some leaderOnlySwarm
  swm : s.me.swm = true

/-- The trap breaks the swarm, whose one member is its leader in cell 1. -/
theorem takeTrap_cells_of_leaderOnly {s : State} (hswarm : s.me.swarm = some leaderOnlySwarm) (hswm : s.me.swm = true)
    (tr : Trap) (pc : Nat) (law : Bool) (slot : Nat) : ∃ c, (s.takeTrap tr pc law slot).cells = put s.cells 1 c := by
  have hbreak : s.takeTrap tr pc law slot = s.breakSwarm leaderOnlySwarm tr pc law slot := by
    rw [State.takeTrap, hswarm]
    exact if_pos hswm
  obtain ⟨c, hc⟩ := takeTrapAlone_cells ((s.at 1 0).setMe (s.at 1 0).me.leaveSwarm)
    ⟨.swarmBroken, BitVec.ofNat 64 tr.cause.code, BitVec.ofNat 64 s.me.swix, tr.eng, 0, s.me.swix⟩ pc law
    (s.slotsOf pc law slot (1, 0))
  rw [hbreak]
  exact ⟨c, hc.trans (put_put _ _ _ _)⟩

/-- No instruction that traps at issue leaves there what the trap leaves. -/
theorem Reversed.not_takeTrap {s : State} (hs : Reversed s) (hq : s.Quiet) {i : Instr} {tr : Trap}
    (htr : tr.cause ≠ .fpException) (hexec : exec i s = .next (s.raise tr)) :
    exec i s ≠ .next (s.takeTrap tr s.me.pc false 0) := by
  obtain ⟨⟨c, d, hcells⟩, hcur, hswarm, hswm⟩ := hs
  intro h
  rw [hexec, raise_other_quiet hq htr, Host.Outcome.next.injEq] at h
  obtain ⟨e, he⟩ := takeTrap_cells_of_leaderOnly hswarm hswm tr s.me.pc false 0
  obtain ⟨e', he'⟩ := takeTrap_cells_of_leaderOnly (s := s.setMe s.me) (by rwa [State.me_setMe]) (by rwa [State.me_setMe])
    tr s.me.pc false 0
  have hset : (s.setMe s.me).cells = put s.cells s.curCell (s.cell.setStrand s.curStrand s.me) := rfl
  rw [hset, hcells, hcur] at he'
  rw [hcells] at he
  have hlists := congrArg (List.map Prod.fst ∘ State.cells) h
  simp [he, he', put] at hlists

/-- The strand of `unnamedMember` with `v` in `w1`, the leader of its swarm as STATUS has it (SWL). -/
def unnamedLeader (v : Word) : Strand :=
  { unnamedMember with ws := (unnamedMember.ws.set 50 (2 ^ 6 + 2 ^ 7)).set 1 v }

/-- Cell 1 is listed before cell 0, whose strand 0 is that member and the current strand. -/
def reversedWith (v : Word) : State :=
  { State.reset with cells := [(1, Cell.reset), (0, Cell.reset.setStrand 0 (unnamedLeader v))] }

@[simp] theorem reversedWith_me (v : Word) : (reversedWith v).me = unnamedLeader v := rfl

@[simp] theorem reversedWith_w1 (v : Word) : (reversedWith v).w 1 = v := by
  simp [State.w, Strand.w, unnamedLeader]

theorem unnamedLeader_status (v : Word) : (unnamedLeader v).status = 2 ^ 6 + 2 ^ 7 := by
  simp [Strand.status, unnamedLeader]

theorem unnamedLeader_sv (v : Word) : (unnamedLeader v).sv = false := by
  rw [Strand.sv, unnamedLeader_status]; rfl

theorem unnamedLeader_swm (v : Word) : (unnamedLeader v).swm = true := by
  rw [Strand.swm, unnamedLeader_status]; rfl

theorem unnamedLeader_isFollower (v : Word) : (unnamedLeader v).isFollower = false := by
  rw [Strand.isFollower, unnamedLeader_status]; exact Bool.and_false _

theorem reversedWith_fetcher (v : Word) : (reversedWith v).fetcher = unnamedLeader v := by
  have hswarm : (unnamedLeader v).swarm = some leaderOnlySwarm := rfl
  simp [State.fetcher, hswarm, unnamedLeader_isFollower]

theorem reversedWith_quiet (v : Word) : (reversedWith v).Quiet := ⟨rfl, rfl, rfl, rfl⟩

theorem reversedWith_reversed (v : Word) : Reversed (reversedWith v) :=
  ⟨⟨_, _, rfl⟩, rfl, rfl, unnamedLeader_swm v⟩

/-- What an instruction that traps at issue in that state does not leave. -/
theorem reversedWith_not_takeTrap {v : Word} {i : Instr} {tr : Trap} (htr : tr.cause ≠ .fpException)
    (hexec : exec i (reversedWith v) = .next ((reversedWith v).raise tr)) :
    exec i (reversedWith v) ≠ .next ((reversedWith v).takeTrap tr (reversedWith v).me.pc false 0) :=
  (reversedWith_reversed v).not_takeTrap (reversedWith_quiet v) htr hexec

/-! ### The traps of single instructions at issue -/

theorem exec_amocfg_of_bad {s : State} {a : WReg} (hbad : fnBad (s.w a) = true) (n : Fin 8) :
    exec (.amocfg n a) s = .next (s.raise (accessTrap (s.w a) 0)) :=
  congrArg Host.Outcome.next (if_pos hbad)

theorem exec_mfs_of_unlisted {s : State} {n : BitVec 12} (d : WReg) (hn : s.sysreg n.toNat = none) :
    exec (.mfs d n) s = .next (s.raise ⟨.illegalInstruction, s.instrWord (.mfs d n), 0, 0, 0, 0⟩) := by
  change execMfs d n s = _
  simp [execMfs, hn]

theorem exec_rtt_of_user {s : State} (hsv : s.me.sv = false) :
    exec .rtt s = .next (s.raise ⟨.privilege, s.instrWord .rtt, 0, 0, 0, 0⟩) := by
  change execRtt s = _
  simp [execRtt, hsv]

theorem exec_swarm_of_member {s : State} (hswm : s.me.swm = true) (n : SwarmSize) :
    exec (.swarm n) s = .next (s.raise ⟨.illegalInstruction, s.instrWord (.swarm n), 0, 0, 0, 0⟩) := by
  change execSwarm n s = _
  simp [execSwarm, hswm]

theorem exec_srd_of_unbound {s : State} {n : Fin 4} (hn : streamBound (s.me.stream n) = false) (d : WReg) :
    exec (.srd d n) s = .next (s.raise ⟨.streamUnbound, BitVec.ofNat 64 n.val, 0, 0, 0, 0⟩) := by
  change execSrd d n s = _
  simp [execSrd, hn]

theorem exec_fact_of_bad {s : State} {a : WReg} (hbad : rowWordBad (s.w a) = true) (n : Fin 4) :
    exec (.fact n a) s = .next (s.raise (accessTrap (s.w a) 0)) :=
  congrArg Host.Outcome.next (if_pos hbad)

theorem exec_j_of_above {s : State} {off : BitVec 19} (h : 0x7F000 ≤ branchTarget s.me.pc off.toInt) :
    exec (.j off) s = .next (s.raise (accessTrap (BitVec.ofNat 64 (branchTarget s.me.pc off.toInt)) 3)) :=
  congrArg Host.Outcome.next (if_pos h)

theorem exec_waitb_of_off {s : State} {b : Fin 8} (h : (s.cell.bars[b]).en = false) :
    exec (.waitb b) s = .next (s.raise (accessTrap (s.cell.bars[b]).control 0)) := by
  exact congrArg Host.Outcome.next (if_pos (by simpa using h))

theorem sliceOp_of_outside {s : State} {addr : Nat} (hlow : 2 ^ 57 ≤ addr) (hwin : ¬ Machine.inWindow addr) (inv : Bool) :
    s.sliceOp addr inv = s.raise (accessTrap (BitVec.ofNat 64 addr) 1) := by
  have h20 : ¬ addr < 2 ^ 20 := by omega
  have h57 : ¬ addr < 2 ^ 57 := by omega
  simp only [Machine.inWindow, not_or, not_and, not_lt] at hwin
  simp only [State.sliceOp, h20, h57, if_false]
  rw [if_neg]
  simpa using hwin

theorem exec_amo_of_error {s : State} {op : Aop} {d a b : WReg} {la : Fin 16} {e : Trap}
    (hmiss : s.misses s.curCell (s.w a).toNat = false) (hz : s.zeroHeld s.curCell (s.w a).toNat 8 = false) (hq : s.Quiet)
    (hcheck : s.check s.curCell s.me.sv (s.instrWord (.amo op false d a b la)) (s.w a).toNat 8 2 = .error e) :
    exec (.amo op false d a b la) s = .next (s.raise e) := by
  have hwaits : s.accessWaits false = false := by simp [State.accessWaits, State.acquireWaits, hq.1]
  change execAmo op false d a b la s = _
  simp [execAmo, hwaits, State.withAccess, hmiss, hz, hcheck, State.orRaise]

theorem check_of_misaligned {addr size : Nat} (hal : addr % size ≠ 0) (s : State) (g : CellId) (sv : Bool) (iw : Word) (kind : Nat) :
    s.check g sv iw addr size kind = .error ⟨.misaligned, BitVec.ofNat 64 addr, BitVec.ofNat 64 size, 0, 0, 0⟩ := by
  rw [State.check]
  exact if_pos (by simpa using hal)

theorem unnamedLeader_dchk (v : Word) : (unnamedLeader v).dchk = false := by
  rw [Strand.dchk, unnamedLeader_status]; rfl

theorem exec_sendmT_of_spent {s : State} (hcheck : s.messageCheck .sendmT (s.me.m 0) = .ok ()) (hdchk : s.me.dchk = false)
    (hnet : (s.me.message s.curCell true).net ≠ .rp) (hallow : s.cell.allow (s.me.message s.curCell true).net = 0) :
    exec .sendmT s = .next (s.raise ⟨.sendFull, s.me.m 0,
      BitVec.ofNat 64 (s.me.message s.curCell true).net.code, 0, 0, 0⟩) := by
  change execSendmT s = _
  simp [execSendmT, State.sendMessage, hcheck, State.orRaise, hdchk, hnet, hallow]

theorem exec_publish_of_live {s : State} {a : WReg} {p : Page} (hmiss : s.misses s.curCell (s.w a).toNat = false)
    (hpage : s.pageOf (s.w a).toNat 1 = .ok p) (hp : p.state = .live) :
    exec (.publish a) s = .next (s.raise (crookTrap (s.w a).toNat p)) := by
  change execPublish a s = _
  simp [execPublish, State.withPage, hmiss, hpage, State.orRaise, hp]

theorem exec_xld_of_remoteLive {s : State} {w : Fmt} {acq : Bool} {d a : WReg} {off : BitVec 6} {la : Fin 16} {addr va : Nat}
    {p : Page} (hq : s.Quiet) (haddr : effAddr (s.w a) off.toInt (widthBytes w) = addr)
    (hmiss : s.misses s.curCell addr = false) (hal : addr % widthBytes w = 0) (hown : 0x80000 ≤ ownAddr s.curCell addr)
    (hplace : s.place s.curCell addr = .away va p) (hp : p.state = .live) (hdchk : s.me.dchk = false) :
    exec (.xld w acq d a off la) s = .next (s.raise ⟨.remoteReadLive, BitVec.ofNat 64 addr,
      BitVec.ofNat 64 (p.homeFor s.hive), 0, 0, 0⟩) := by
  change execXld w acq d a off la s = _
  simp [execXld, haddr, State.acquireWaits, hq.1, State.zeroHeld, hplace, hmiss, State.issueXld, hal, hown.not_gt,
    hp, hdchk]

/-! ### The same with the cell in a job that has one page -/

/-- An open job of cell 0 with one page. -/
def pagedJob (p : Page) : Job where
  number := 1
  asid := 1
  hives := [0]
  cells := [0]
  rcb := 0
  plans := []
  penb := 0
  step := 0
  dchk := false
  phase := .open
  doneHives := []
  gather := none
  pages := [p]
  pen := []
  redEntries := []
  partials := []
  faultedCells := []
  redSlots := []
  figures := ⟨0, 0, 0, 0, 0, 0, false⟩
  xamoResults := []
  xamList := []
  undo := []
  badPen := []
  differed := false
  group := 0
  replica := 0
  digests := []
  lateRoots := []
  appliedAt := 0
  stallSince := none
  stopped := false
  halted := none
  ended := false

/-- A live page at 0x10_0000 with that home hive, held by its cell 0. -/
def livePage (home : Nat) : Page := ⟨0x100000, false, true, [(home, 0)], .live, .add, 0, 0, none, false⟩

/-- `reversedWith` the page's address in `w1`, with cell 0 in that job and the page in its comb's page-state cache. -/
def reversedPaged (p : Page) : State :=
  { State.reset with
    cells := [(1, Cell.reset), (0, { Cell.reset.setStrand 0 (unnamedLeader 0x100000) with job := some 1 })]
    combs := [(0, { Comb.reset with cached := [(1, 16)] })], jobs := [(1, pagedJob p)] }

@[simp] theorem reversedPaged_me (p : Page) : (reversedPaged p).me = unnamedLeader 0x100000 := rfl

theorem reversedPaged_w1 (p : Page) : (reversedPaged p).w 1 = 0x100000 := reversedWith_w1 0x100000

theorem reversedPaged_quiet (p : Page) : (reversedPaged p).Quiet := ⟨rfl, rfl, rfl, rfl⟩

theorem reversedPaged_reversed (p : Page) : Reversed (reversedPaged p) :=
  ⟨⟨_, _, rfl⟩, rfl, rfl, unnamedLeader_swm _⟩

/-! ### The statements that this refutes -/

/-- Refutes O20: a misaligned atomic traps at issue, and in `reversedWith` that leaves
another list of cells than the trap does. -/
theorem not_storesWrite : ¬ Obligations.StoresWrite := by
  unfold Obligations.StoresWrite Claims.ChecksTrap
  rintro ⟨-, -, -, hchecks, -⟩
  have haddr : ((reversedWith 1).w 1).toNat = 1 := by rw [reversedWith_w1]; rfl
  have hcheck := check_of_misaligned (addr := 1) (size := 8) (by decide) (reversedWith 1) (reversedWith 1).curCell
    (reversedWith 1).me.sv ((reversedWith 1).instrWord (.amo .swap false 0 1 0 0)) 2
  have haccess : accessRule (reversedWith 1).me (.amo .swap false 0 1 0 0) = some (1, 8, 2) := by
    rw [← haddr]; rfl
  exact reversedWith_not_takeTrap (by simp) (exec_amo_of_error (a := 1) (by rw [haddr]; rfl) (by rw [haddr]; rfl)
      (reversedWith_quiet 1) (by rw [haddr]; exact hcheck))
    (hchecks _ _ _ _ _ _ (reversedWith_quiet 1) haccess (fun h => absurd h Bool.false_ne_true) rfl rfl hcheck)

/-- Refutes O22: `AMOCFG` of a function word with a reserved bit traps at issue, and in `reversedWith` that leaves
another list of cells than the trap does. -/
theorem not_fullEmptyWords : ¬ Obligations.FullEmptyWords := by
  unfold Obligations.FullEmptyWords Claims.FunctionSlots
  rintro ⟨-, -, -, hfn⟩
  have hbad : fnBad ((reversedWith 0x400).w 1) = true := by rw [reversedWith_w1]; rfl
  exact reversedWith_not_takeTrap (by simp [accessTrap]) (exec_amocfg_of_bad hbad 0)
    ((hfn 0 1 _ (reversedWith_quiet _)).2 hbad)

/-- Refutes O23: a jump to the slot table traps at issue, and in `reversedWith` that leaves
another list of cells than the trap does. -/
theorem not_controlTransfers : ¬ Obligations.ControlTransfers := by
  unfold Obligations.ControlTransfers Claims.BadTargets
  rintro ⟨-, -, hbad⟩
  have htarget : branchTarget (reversedWith 0).me.pc (-1 : BitVec 19).toInt = 0x7FFF8 := by
    rw [reversedWith_me]; decide
  have hrule : relativeTarget (reversedWith 0).me.pc (-1 : BitVec 19) = 0x7FFF8 := by
    rw [reversedWith_me]; decide
  have hjump := (hbad (.j (-1)) _ (reversedWith_quiet 0)).1 0 _ (congrArg (fun n => some ((0 : WReg), BitVec.ofNat 64 n)) hrule)
  have hexec := exec_j_of_above (s := reversedWith 0) (off := -1) (by rw [htarget]; decide)
  rw [htarget] at hexec
  exact reversedWith_not_takeTrap (by simp [accessTrap]) hexec (hjump.2 (by decide) (by decide))

/-- Refutes O24: `MFS` of a number that is not listed traps at issue, and in `reversedWith` that leaves
another list of cells than the trap does. -/
theorem not_systemRegisters : ¬ Obligations.SystemRegisters := by
  unfold Obligations.SystemRegisters Claims.SystemRegisterReads
  rintro ⟨-, hreads, -⟩
  exact reversedWith_not_takeTrap (by simp) (exec_mfs_of_unlisted 0 rfl)
    ((hreads 0 0xFFF _ (reversedWith_quiet 0)).2.2.2 (by decide) _ (.inl rfl))

/-- Refutes O25: `RTT` in user mode traps at issue, and in `reversedWith` that leaves
another list of cells than the trap does. -/
theorem not_privilegeAndWorkspace : ¬ Obligations.PrivilegeAndWorkspace := by
  unfold Obligations.PrivilegeAndWorkspace Claims.PrivilegeTraps
  rintro ⟨hpriv, -⟩
  exact reversedWith_not_takeTrap (by simp) (exec_rtt_of_user (unnamedLeader_sv 0))
    (hpriv _ (reversedWith_quiet 0) (unnamedLeader_sv 0)).2

/-- Refutes O26: `CINV` of an address outside the windows traps at issue, and in `reversedWith` that leaves
another list of cells than the trap does. -/
theorem not_fencesAndSlices : ¬ Obligations.FencesAndSlices := by
  unfold Obligations.FencesAndSlices Claims.SliceOperations
  rintro ⟨-, -, hslice⟩
  have haddr : ((reversedWith 0x200000000000000).w 1).toNat = 2 ^ 57 := by rw [reversedWith_w1]; rfl
  have hwin : ¬ Machine.inWindow (2 ^ 57) := by simp [Machine.inWindow, scratchWindow, tcmWindow]
  have hout := (hslice 1 _ (reversedWith_quiet _)).2.2 haddr.ge (by rwa [haddr])
  have hexec : exec (.cinv 1) (reversedWith 0x200000000000000) = .next ((reversedWith 0x200000000000000).raise
    ⟨.access, (reversedWith 0x200000000000000).w 1, BitVec.ofNat 64 (2 ^ 32), 0, 0, 0⟩) := by
    refine congrArg Host.Outcome.next ((sliceOp_of_outside haddr.ge (by rwa [haddr]) true).trans ?_)
    rw [BitVec.ofNat_toNat, BitVec.setWidth_eq]; rfl
  exact reversedWith_not_takeTrap (by simp) hexec hout.1

/-- Refutes O29: `SWARM` in a swarm traps at issue, and in `reversedWith` that leaves
another list of cells than the trap does. -/
theorem not_swarmInstructions : ¬ Obligations.SwarmInstructions := by
  unfold Obligations.SwarmInstructions Claims.SwarmChecks
  rintro ⟨-, hchecks, -⟩
  have hswm : (reversedWith 0).me.swm = true := unnamedLeader_swm 0
  exact reversedWith_not_takeTrap (by simp) (exec_swarm_of_member hswm .n2)
    ((hchecks .n2 _ (reversedWith_quiet 0)).1 (by rw [hswm, Bool.or_true]))

/-- Refutes O34: `EVSEND` on an edge that is not the slot's traps at issue, and in `reversedWith` that leaves
another list of cells than the trap does. -/
theorem not_inputsAreTaken : ¬ Obligations.InputsAreTaken := by
  unfold Obligations.InputsAreTaken Claims.EventNotSent
  rintro ⟨-, hnot, -⟩
  have hroute : (reversedWith 0).route (reversedWith 0).curCell (reversedWith 0).me.slotNo (0 : Fin 256).val = none := rfl
  have hexec : exec (.evsend 0 0 0 0) (reversedWith 0) = .next ((reversedWith 0).raise ⟨.access, 0, 0, 0, 0, 0⟩) := rfl
  exact reversedWith_not_takeTrap (by simp) hexec
    ((hnot 0 0 0 0 _ (reversedWith_quiet 0) (unnamedLeader_isFollower 0)).2 hroute)

/-- Refutes O35: `SENDM.t` without an allowance traps at issue, and in `reversedWith` that leaves
another list of cells than the trap does. -/
theorem not_messagesTravel : ¬ Obligations.MessagesTravel := by
  unfold Obligations.MessagesTravel Claims.MessageSent
  rintro ⟨hsent, -⟩
  have hm0 : (reversedWith 0).me.m 0 = 0 := by
    simp [Strand.m, unnamedLeader, unnamedMember, Strand.reset]
  have hdchk : (reversedWith 0).me.dchk = false := unnamedLeader_dchk 0
  have hcheck : (reversedWith 0).messageCheck .sendmT ((reversedWith 0).me.m 0) = .ok () := by rw [hm0]; rfl
  have hnet : ((reversedWith 0).me.message (reversedWith 0).curCell true).net = .ev := by
    rw [Strand.message, hm0]; rfl
  have hallow : (reversedWith 0).cell.allow ((reversedWith 0).me.message (reversedWith 0).curCell true).net = 0 := by
    rw [hnet]; rfl
  have hnet' : ((reversedWith 0).me.message (reversedWith 0).curCell true).net ≠ .rp := by rw [hnet]; decide
  have htrap := (hsent .sendmT _ (reversedWith_quiet 0) (.inr rfl) hcheck hdchk).2.2 hnet' hallow
  rw [if_neg (by simp)] at htrap
  exact reversedWith_not_takeTrap (by simp) (exec_sendmT_of_spent hcheck hdchk hnet' hallow) htrap

/-- Refutes O38: `WAITB` of a unit that is not enabled traps at issue, and in `reversedWith` that leaves
another list of cells than the trap does. -/
theorem not_barriersCount : ¬ Obligations.BarriersCount := by
  unfold Obligations.BarriersCount Claims.BarrierWaits
  rintro ⟨-, -, -, hwaits, -⟩
  have hen : ((reversedWith 0).cell.bars[(0 : Fin 8)]).en = false := rfl
  exact reversedWith_not_takeTrap (by simp [accessTrap]) (exec_waitb_of_off hen)
    ((hwaits 0 0 _ _ (reversedWith_quiet 0) rfl).2.2 hen).1

/-- Refutes O39: `PUBLISH` of a live page traps at issue, and in `reversedPaged` that leaves
another list of cells than the trap does. -/
theorem not_pagesChange : ¬ Obligations.PagesChange := by
  unfold Obligations.PagesChange Claims.PageRefused
  rintro ⟨-, -, -, hrefused⟩
  have hw1 : ((reversedPaged (livePage 0)).w 1).toNat = 0x100000 := by rw [reversedPaged_w1]; rfl
  have hmiss : (reversedPaged (livePage 0)).misses (reversedPaged (livePage 0)).curCell
    ((reversedPaged (livePage 0)).w 1).toNat = false := by rw [hw1]; decide
  have hpage : (reversedPaged (livePage 0)).pageOf ((reversedPaged (livePage 0)).w 1).toNat 1 = .ok (livePage 0) := by
    rw [hw1]; decide
  exact (reversedPaged_reversed _).not_takeTrap (reversedPaged_quiet _) (by simp [crookTrap])
    (exec_publish_of_live hmiss hpage rfl)
    ((hrefused 1 _ _ (reversedPaged_quiet _) hmiss hpage).2.1 (.inl (by decide)))

/-- Refutes O50: `SRD` of an unbound register traps at issue, and in `reversedWith` that leaves
another list of cells than the trap does. -/
theorem not_streamsFlow : ¬ Obligations.StreamsFlow := by
  unfold Obligations.StreamsFlow Claims.Streams
  rintro ⟨hstreams, -⟩
  have hstream : streamBound ((reversedWith 0).me.stream 0) = false := by
    simp [Strand.stream, unnamedLeader, unnamedMember, Strand.reset]; decide
  exact reversedWith_not_takeTrap (by simp) (exec_srd_of_unbound hstream 0)
    ((hstreams .int8 0 0 0 0 _ (reversedWith_quiet 0)).2.2.2.2.2 hstream)

/-- Refutes O51: `XLD` of a live page of another hive traps at issue, and in `reversedPaged` that leaves
another list of cells than the trap does. -/
theorem not_steppedOperationsSent : ¬ Obligations.SteppedOperationsSent := by
  unfold Obligations.SteppedOperationsSent Claims.SteppedLoad
  rintro ⟨-, -, -, hload, -⟩
  have haddr : effAddr ((reversedPaged (livePage 1)).w 1) (0 : BitVec 6).toInt (widthBytes .int64) = 0x100000 := by
    rw [reversedPaged_w1]; decide
  have hoff : offsetAddr ((reversedPaged (livePage 1)).w 1) (0 : BitVec 6) (widthBytes .int64) = 0x100000 := by
    rw [reversedPaged_w1]; decide
  have hdchk : (reversedPaged (livePage 1)).me.dchk = false := unnamedLeader_dchk _
  have htrap := hload .int64 false 0 1 0 0 (reversedPaged (livePage 1)) (livePage 1) (reversedPaged_quiet _)
  rw [hoff] at htrap
  have hmiss : (reversedPaged (livePage 1)).misses (reversedPaged (livePage 1)).curCell 0x100000 = false := by decide
  have hplace : (reversedPaged (livePage 1)).place (reversedPaged (livePage 1)).curCell 0x100000 =
    .away 0x100000 (livePage 1) := by decide
  obtain ⟨-, -, hremote⟩ := htrap hmiss (by decide) (by decide) (by decide)
  exact (reversedPaged_reversed _).not_takeTrap (reversedPaged_quiet _) (by simp)
    (exec_xld_of_remoteLive (reversedPaged_quiet _) haddr hmiss (by decide) (by decide) hplace rfl hdchk)
    (hremote _ hplace rfl hdchk)

/-- Refutes O52: `FACT` of a row word with a reserved bit traps at issue, and in `reversedWith` that leaves
another list of cells than the trap does. -/
theorem not_framesMove : ¬ Obligations.FramesMove := by
  unfold Obligations.FramesMove Claims.FrameIssues
  rintro ⟨hissues, -⟩
  have hbad : rowWordBad ((reversedWith 0x80).w 1) = true := by rw [reversedWith_w1]; rfl
  have hrow : ¬ rowWordOk ((reversedWith 0x80).w 1) := by rw [reversedWith_w1, rowWordOk]; decide
  exact reversedWith_not_takeTrap (by simp [accessTrap]) (exec_fact_of_bad hbad 0)
    ((hissues _ 0 1 (reversedWith_quiet _)).1 hrow)

end Sys2Proof.Proofs

/-! `JOIN` behind an own store to its result range: it waits for the store (R131, R254), with or without a child to join. -/

namespace Sys2Proof.Proofs

open Sys2Proof.Machine

set_option Elab.async false

/-- A firing that has spawned no child. -/
def childless : Firing :=
  { fid := 1, slot := 0, task := false, encv := 3, entry := 0, fen := 0, prio := 0, trapEnt := 0, rate := 0, defdl := 0,
    forkmask := 0, qbase := 0, qlog := 0, head := 0, taken := 0, spawned := 0, joined := 0, pool := 0, wdog := false, tookAt := 0 }

/-- Strand 0 of cell 0 runs that firing; its store to doubleword 0 of TCM is not acknowledged. -/
def storingOne : State :=
  { State.reset with
    cells := [(0, { Cell.reset.setStrand 0 { Strand.reset with firing := some childless } with
      nextId := 1, stores := [⟨0, 0, 1, .store 0 8 0⟩] })] }

theorem exec_join_of_rangeWaits {s : State} {a : WReg} (hswm : s.me.swm = false)
    (hwait : s.rangeWaits (s.w a).toNat 4 = true) (d : WReg) : exec (.join d a) s = .next s := by
  change execJoin d a s = _
  simp [execJoin, State.aloneOnly, hswm, hwait]

set_option maxRecDepth 10000 in
/-- Refutes O36: the result range of `JOIN` holds doubleword 0, to which a store of the firing is not acknowledged; `JOIN`
waits, also without an unjoined child. -/
theorem not_tasksForkAndJoin : ¬ Obligations.TasksForkAndJoin := by
  rintro ⟨-, h⟩
  have hnext := (h 0 0 storingOne childless ⟨rfl, rfl, rfl, rfl⟩ rfl rfl (by decide)).1 rfl
  rw [exec_join_of_rangeWaits rfl rfl, Host.Outcome.next.injEq] at hnext
  exact absurd (congrArg (fun s => s.me.pc) hnext) (by decide)

end Sys2Proof.Proofs

/-! `XLD` whose sector cannot be fetched: the page's home slice must reach its super, whose bank refreshes (R286, R287). -/

namespace Sys2Proof.Proofs

open Sys2Proof.Machine

set_option Elab.async false

theorem after_cons_of_next {s t : State} {i : Instr} (h : exec i s = .next t) (l : List Instr) :
    s.after (i :: l) = t.after l := by
  rw [State.after, h]

/-- A result that has not come leaves the strand as it is when it settles. -/
theorem settle_eq_setMe_of_pending {s : State} {o : LongOp} (hlongs : s.me.longs = [o]) (hres : o.result = none)
    (hheld : s.me.held = none) : s.settle = s.setMe s.me := by
  have hready : o.ready = false := by simp [LongOp.ready, hres]
  have hwritten : s.me.longs.filter LongOp.ready = [] := by simp [hlongs, hready]
  have hkept : (s.me.longs.filter fun p => !p.ready) = s.me.longs := by simp [hlongs, hready]
  have hcommit : s.me.commitAll = s.me := by simp only [Strand.commitAll, hwritten, List.foldl_nil, hkept]
  have hlate : s.me.lateFault = none := by simp [Strand.lateFault, hlongs, lateFaultFrom, hres]
  simp [State.settle, hcommit, hlate, hheld]

theorem exec_xld_of_remote {s : State} {w : Fmt} {acq : Bool} {d a : WReg} {off : BitVec 6} {la : Fin 16} {addr va : Nat}
    {p : Page} (hq : s.Quiet) (haddr : effAddr (s.w a) off.toInt (widthBytes w) = addr)
    (hmiss : s.misses s.curCell addr = false) (hal : addr % widthBytes w = 0) (hown : 0x80000 ≤ ownAddr s.curCell addr)
    (hplace : s.place s.curCell addr = .away va p) (hp : p.state ≠ .live) :
    exec (.xld w acq d a off la) s =
      .next (s.outstanding (.xld w acq d a off la) d false (s.windowOf la) acq false (.remote w addr)) := by
  rw [← State.issueLong_quiet s hq]
  change execXld w acq d a off la s = _
  simp [execXld, haddr, State.acquireWaits, hq.1, State.zeroHeld, hplace, hmiss, State.issueXld, hal, hown.not_gt, hp]

/-- A remote load that must wait stays outstanding. -/
theorem performLong_of_remoteWaits {s : State} {o : LongOp} {w : Fmt} {addr : Nat} (hkind : o.kind = .remote w addr)
    (hwait : s.memoryWaits s.curCell addr = true) :
    s.performLong o = s.stillPending (.longLatencyResult s.curCell s.curStrand o.seq) := by
  simp [State.performLong, hkind, hwait]

/-- A frozen page at 0x10_0000 in row 0 of bank 0 of hive 1. -/
def frozenPage : Page := { livePage 1 with state := .frozen }

/-- Strand 0 of cell 0, in a job with that page, with its address in `w1`; bank 0 refreshes. -/
def loadingAway : State :=
  { State.reset with
    cells := [(0, { Cell.reset.setStrand 0 { Strand.reset with ws := Strand.reset.ws.set 1 0x100000 } with job := some 1 })]
    combs := [(0, { Comb.reset with cached := [(1, 16)] })], jobs := [(1, pagedJob frozenPage)] }

/-- The load's entry. -/
def awayLoad : LongOp :=
  ⟨0, 0, .xld .int64 false 1 1 0 0, 1, false, 0, 0, 0, false, false, false, false, .remote .int64 0x100000, 0, 0, false, none⟩

/-- `loadingAway` once the load has issued. -/
def awayIssued : State := loadingAway.outstanding awayLoad.instr 1 false 0 false false (.remote .int64 0x100000)

theorem loadingAway_quiet : loadingAway.Quiet := ⟨rfl, rfl, rfl, rfl⟩

theorem loadingAway_w1 : loadingAway.w 1 = 0x100000 := by
  simp [State.w, Strand.w, show loadingAway.me = { Strand.reset with ws := Strand.reset.ws.set 1 0x100000 } from rfl]

theorem loadingAway_place : loadingAway.place 0 0x100000 = .away 0x100000 frozenPage := by decide

theorem awayIssued_waits : (awayIssued.at 0 0).memoryWaits 0 0x100000 = true := by decide

theorem awayIssued_longs : awayIssued.me.longs = [awayLoad] := rfl

theorem exec_longLatencyResult_of_pending {s : State} {o : LongOp} {g : CellId} {k : StrandId} {seq : Nat}
    (hlongs : (s.at g k).me.longs = [o]) (hseq : o.seq = seq) (hres : o.result = none) :
    exec (.longLatencyResult g k seq) s = .next (s.on g k fun s => (s.performLong o).settle) := by
  change execLongLatencyResult g k seq s = _
  simp [execLongLatencyResult, State.on, hlongs, hseq, hres]

/-- The load of `loadingAway` stays outstanding when its result is to come. -/
theorem awayIssued_stays : ∃ t, exec (.longLatencyResult 0 0 0) awayIssued = .next t ∧ t.me.longs = [awayLoad] := by
  refine ⟨_, exec_longLatencyResult_of_pending (o := awayLoad) awayIssued_longs rfl rfl, ?_⟩
  have hperform : (awayIssued.at 0 0).performLong awayLoad = (awayIssued.at 0 0).stillPending (.longLatencyResult 0 0 0) :=
    performLong_of_remoteWaits rfl awayIssued_waits
  have hlongs : ((awayIssued.at 0 0).performLong awayLoad).me.longs = [awayLoad] := by
    rw [hperform, State.me_stillPending]; exact awayIssued_longs
  have hheld : ((awayIssued.at 0 0).performLong awayLoad).me.held = none := by
    rw [hperform, State.me_stillPending]; rfl
  rw [State.on, settle_eq_setMe_of_pending hlongs rfl hheld, hperform, State.stillPending]
  split
  · exact awayIssued_longs
  · exact awayIssued_longs

/-- Refutes O48: in `loadingAway` the home slice of the page must fetch the sector from a bank that refreshes, so that the load
is performed later. -/
theorem not_longAndSteppedComplete : ¬ Obligations.LongAndSteppedComplete := by
  unfold Obligations.LongAndSteppedComplete Claims.LongResultsComplete
  rintro ⟨-, hlong⟩
  have haddr : effAddr (loadingAway.w 1) (0 : BitVec 6).toInt (widthBytes .int64) = 0x100000 := by
    rw [loadingAway_w1]; decide
  have hoff : offsetAddr (loadingAway.w 1) (0 : BitVec 6) (widthBytes .int64) = 0x100000 := by
    rw [loadingAway_w1]; decide
  have hback := (hlong loadingAway loadingAway_quiet).2.2.2.2.2 .int64 false 1 1 0 0 0x100000 frozenPage rfl (by decide)
  rw [hoff] at hback
  have hmiss : loadingAway.misses loadingAway.curCell 0x100000 = false := by decide
  obtain ⟨u, t, hissue, hafter, -, -, -, -, hlongs, -⟩ :=
    hback hmiss (by decide) loadingAway_place (by decide) (by decide)
  rw [exec_xld_of_remote loadingAway_quiet haddr hmiss (by decide) (by decide) loadingAway_place (by decide),
    Host.Outcome.next.injEq] at hissue
  obtain ⟨v, hexec, hv⟩ := awayIssued_stays
  have hu : u = awayIssued := hissue.symm
  have ht : u.after [.longLatencyResult 0 0 0] = some v := by rw [hu, after_cons_of_next hexec]; rfl
  rw [Option.some.inj (hafter.symm.trans ht), hv] at hlongs
  exact List.cons_ne_nil _ _ hlongs

end Sys2Proof.Proofs

/-! `CFLUSH` of a line whose slice delivers no data: the line is not written back, its words are marked (R292). -/

namespace Sys2Proof.Proofs

open Sys2Proof.Machine

set_option Elab.async false

/-- A dirty sector of 0x10_0000 in row 0 of bank 0 of hive 0. -/
def mutedSector : Sector := ⟨superAddr 0 0 / 32, 1, 0x100000 / 32, true, List.replicate 32 1, []⟩

/-- Strand 0 of cell 0, in a job with a live page at 0x10_0000 homed in hive 0, with its address in `w1`; the slice that
holds that sector delivers no data. -/
def flushing : State :=
  { State.reset with
    now := 200
    cells := [(0, { Cell.reset.setStrand 0 { Strand.reset with ws := Strand.reset.ws.set 1 0x100000 } with job := some 1 })]
    combs := [(0, { Comb.reset with cached := [(1, 16)] })]
    hives := [(0, { Hive.reset with sectors := [mutedSector], mutes := [sliceUnit 0 (homeSlice Hive.reset 0x100000)] })]
    jobs := [(1, pagedJob (livePage 0))] }

/-- `flushing` once `CFLUSH` has issued. -/
def flushIssued : State := flushing.awaitingAck (.slice 0x100000 false)

theorem flushIssued_ack : ∃ t, exec (.storeAcknowledgement 0 0 0) flushIssued = .next t ∧ t.mem = [] := ⟨_, rfl, rfl⟩

theorem exec_cflush_of_virtual {s : State} {a : WReg} {addr : Nat} (hq : s.Quiet) (haddr : (s.w a).toNat = addr)
    (hlow : 2 ^ 20 ≤ addr) (hhigh : addr < 2 ^ 57) : exec (.cflush a) s = .next (s.awaitingAck (.slice addr false)) := by
  rw [← State.awaitingAck_eq s hq]
  change execCflush a s = _
  simp only [execCflush, State.sliceOp, haddr, if_neg hlow.not_gt, if_pos hhigh]

/-- Refutes O47: in `flushing` the slice that holds the dirty line delivers no data, so that `CFLUSH` writes no byte of it. -/
theorem not_synchronisingInstructionsComplete : ¬ Obligations.SynchronisingInstructionsComplete := by
  unfold Obligations.SynchronisingInstructionsComplete Claims.SliceOperationsComplete
  rintro ⟨-, -, hslice⟩
  have haddr : (flushing.w 1).toNat = 0x100000 := by
    have hme : flushing.me = { Strand.reset with ws := Strand.reset.ws.set 1 0x100000 } := rfl
    simp [State.w, Strand.w, hme]
  have hquiet : flushing.Quiet := ⟨rfl, rfl, rfl, rfl⟩
  have hdone := hslice flushing 1 0x100000 (superAddr 0 0) (livePage 0) mutedSector hquiet rfl
  rw [haddr] at hdone
  obtain ⟨u, t, hissue, hafter, -, hbytes, -⟩ := hdone (by decide) (by decide) (by decide) (by decide) rfl (by decide) rfl
    rfl rfl false
  rw [if_neg Bool.false_ne_true, exec_cflush_of_virtual hquiet haddr (by decide) (by decide), Host.Outcome.next.injEq] at hissue
  obtain ⟨v, hexec, hmem⟩ := flushIssued_ack
  have hu : u = flushIssued := hissue.symm
  have ht : u.after [.storeAcknowledgement 0 0 0] = some v := by rw [hu, after_cons_of_next hexec]; rfl
  rw [Option.some.inj (hafter.symm.trans ht), hmem] at hbytes
  exact absurd hbytes (by decide)

end Sys2Proof.Proofs

/-! Nine words of the decoder, and the state that reset leaves. -/

namespace Sys2Proof.Proofs

open Sys2Proof.Machine

set_option Elab.async false

/-- A word decodes to the instruction that its fields give, where that is well formed and encodes to the word. -/
theorem decodeWord_of_fields {w : Nat} {i : Instr} (hfields : candidate w = .ok i) (hwf : i.wf = true)
    (hword : encode i = w % 2 ^ 31) : decodeWord 3 w = .ok i :=
  decodeWord_eq_ok_iff.2 ⟨hfields, hwf, hword⟩

/-- Settles O3: the fields of each of the nine words give its instruction. -/
theorem wordsOfFamilies : Obligations.WordsOfFamilies := by
  unfold Obligations.WordsOfFamilies Claims.DecodedWords
  refine ⟨?_, ?_, ?_, ?_, ?_, ?_, ?_, ?_, ?_⟩ <;> exact decodeWord_of_fields rfl rfl rfl

theorem resetStrand_ws_zero (n : Fin 64) : Strand.reset.ws[n] = 0 := by
  simp [Strand.reset]

/-- Settles O13: no cell, comb or hive is listed at reset, so each stands at its own reset value. -/
theorem resetLeaves : Obligations.ResetLeaves := by
  unfold Obligations.ResetLeaves Claims.ResetState
  have hstrand : ∀ k : StrandId, Cell.reset.strands[k] = Strand.reset := fun k => by simp [Cell.reset]
  have hzero : ∀ k : StrandId, (Cell.reset.strands[k]).ws[0] = 0 ∧ (Cell.reset.strands[k]).ws[63] = 0 := fun k => by
    rw [hstrand]; exact ⟨resetStrand_ws_zero 0, resetStrand_ws_zero 63⟩
  refine ⟨rfl, fun g => ⟨rfl, rfl, rfl, rfl, rfl, rfl, rfl, fun n => ?_, fun b => ?_⟩, fun n => ⟨rfl, fun k => ?_⟩,
    fun h => ⟨rfl, rfl, rfl, rfl⟩, ?_, hzero⟩
  · simp [Cell.reset]; decide
  · simp [Cell.reset]; decide
  · simp [Comb.reset]
  · intro x hx; exact absurd hx List.not_mem_nil

end Sys2Proof.Proofs

/-! What an access to a TCM bank changes, and what a strand that may fetch and issue does (R85-R89, R133, R271). -/

namespace Sys2Proof.Proofs

open Sys2Proof.Machine

set_option Elab.async false

/-! ### `State.touch` changes the banks of its cell and what is pending -/

/-- What an access leaves holds where it holds of the state itself, and of every state with other banks, whatever it has
set going. -/
theorem touch_cases {s : State} {g : CellId} {p : State → Prop} (hsame : p s)
    (hbanks : ∀ b, p (s.setCell g { s.cellAt g with banks := b }))
    (hpush : ∀ b i, p ((s.setCell g { s.cellAt g with banks := b }).push i)) (off : Nat) : p (s.touch g off) := by
  rw [State.touch]
  split
  · exact hsame
  · split
    · exact hpush _ _
    · split
      · exact hsame
      · exact hbanks _
    · exact hsame

@[simp] theorem touch_curCell (s : State) (g : CellId) (off : Nat) : (s.touch g off).curCell = s.curCell :=
  touch_cases (p := fun t => t.curCell = s.curCell) rfl (fun _ => rfl) (fun _ _ => rfl) off
@[simp] theorem touch_curStrand (s : State) (g : CellId) (off : Nat) : (s.touch g off).curStrand = s.curStrand :=
  touch_cases (p := fun t => t.curStrand = s.curStrand) rfl (fun _ => rfl) (fun _ _ => rfl) off
@[simp] theorem touch_mem (s : State) (g : CellId) (off : Nat) : (s.touch g off).mem = s.mem :=
  touch_cases (p := fun t => t.mem = s.mem) rfl (fun _ => rfl) (fun _ _ => rfl) off
@[simp] theorem touch_marks (s : State) (g : CellId) (off : Nat) : (s.touch g off).marks = s.marks :=
  touch_cases (p := fun t => t.marks = s.marks) rfl (fun _ => rfl) (fun _ _ => rfl) off
@[simp] theorem touch_now (s : State) (g : CellId) (off : Nat) : (s.touch g off).now = s.now :=
  touch_cases (p := fun t => t.now = s.now) rfl (fun _ => rfl) (fun _ _ => rfl) off
@[simp] theorem touch_hives (s : State) (g : CellId) (off : Nat) : (s.touch g off).hives = s.hives :=
  touch_cases (p := fun t => t.hives = s.hives) rfl (fun _ => rfl) (fun _ _ => rfl) off
@[simp] theorem touch_combs (s : State) (g : CellId) (off : Nat) : (s.touch g off).combs = s.combs :=
  touch_cases (p := fun t => t.combs = s.combs) rfl (fun _ => rfl) (fun _ _ => rfl) off
@[simp] theorem touch_jobs (s : State) (g : CellId) (off : Nat) : (s.touch g off).jobs = s.jobs :=
  touch_cases (p := fun t => t.jobs = s.jobs) rfl (fun _ => rfl) (fun _ _ => rfl) off
@[simp] theorem touch_copies (s : State) (g : CellId) (off : Nat) : (s.touch g off).copies = s.copies :=
  touch_cases (p := fun t => t.copies = s.copies) rfl (fun _ => rfl) (fun _ _ => rfl) off
@[simp] theorem touch_oracle (s : State) (g : CellId) (off : Nat) : (s.touch g off).oracle = s.oracle :=
  touch_cases (p := fun t => t.oracle = s.oracle) rfl (fun _ => rfl) (fun _ _ => rfl) off

/-- Every cell keeps all but its banks. -/
theorem touch_cellAt (s : State) (g : CellId) (off : Nat) (h : CellId) :
    ∃ b, (s.touch g off).cellAt h = { s.cellAt h with banks := b } := by
  have hset : ∀ b, ∃ b', (s.setCell g { s.cellAt g with banks := b }).cellAt h = { s.cellAt h with banks := b' } := by
    intro b
    by_cases hg : h = g
    · exact ⟨b, by rw [hg, State.cellAt_setCell]⟩
    · exact ⟨(s.cellAt h).banks, by rw [State.cellAt_setCell_other _ _ _ _ hg]⟩
  exact touch_cases (p := fun t => ∃ b, t.cellAt h = { s.cellAt h with banks := b }) ⟨_, rfl⟩ hset (fun b _ => hset b) off

@[simp] theorem touch_strandAt (s : State) (g : CellId) (off : Nat) (h : CellId) (k : StrandId) :
    (s.touch g off).strandAt h k = s.strandAt h k := by
  obtain ⟨b, hb⟩ := touch_cellAt s g off h
  rw [State.strandAt, hb, State.strandAt]

@[simp] theorem touch_me (s : State) (g : CellId) (off : Nat) : (s.touch g off).me = s.me := by
  rw [State.me, touch_curCell, touch_curStrand, touch_strandAt, State.me]

@[simp] theorem touch_hiveAt (s : State) (g : CellId) (off : Nat) (h : Nat) : (s.touch g off).hiveAt h = s.hiveAt h := by
  rw [State.hiveAt, touch_hives, State.hiveAt]

@[simp] theorem touch_fenced (s : State) (g : CellId) (off : Nat) (h : CellId) :
    ((s.touch g off).cellAt h).fenced = (s.cellAt h).fenced := by
  obtain ⟨b, hb⟩ := touch_cellAt s g off h
  rw [hb]

/-! ### The bundle at the pc of a strand that may fetch -/

/-- The strand with its bundle in the buffer. -/
theorem fetched_me {s : State} (h : s.CanFetch) :
    s.fetched.me = { s.me with buf := [(bundleOf s.me.pc, s.bundleHere)] } := by
  obtain ⟨-, -, -, -, -, -, hbuf, -⟩ := h
  rw [State.fetched, State.readBundle, State.me_setMe, touch_me, hbuf]
  rfl

theorem fetched_curCell (s : State) : s.fetched.curCell = s.curCell := by
  rw [State.fetched, State.readBundle, State.setMe_curCell, touch_curCell]

theorem fetched_curStrand (s : State) : s.fetched.curStrand = s.curStrand := by
  rw [State.fetched, State.readBundle, State.setMe_curStrand, touch_curStrand]

theorem fetched_strandRuns {s : State} (h : s.CanFetch) : s.fetched.strandRuns = true := by
  have hfenced : s.fetched.cell.fenced = s.cell.fenced := by
    rw [State.fetched, State.readBundle, State.cell_setMe]
    exact (touch_fenced s s.curCell _ _).trans (by rw [touch_curCell]; rfl)
  have hhive : s.fetched.hiveAt (hiveOf s.fetched.curCell) = s.hiveAt (hiveOf s.curCell) := by
    rw [fetched_curCell, State.fetched, State.readBundle, State.setMe_hiveAt, touch_hiveAt]
  have hnow : s.fetched.now = s.now := by rw [State.fetched, State.readBundle, State.setMe_now, touch_now]
  have hme := fetched_me h
  obtain ⟨-, hruns, -⟩ := h
  rw [← hruns, State.strandRuns, State.strandRuns, hfenced, hhive, hnow, hme]

theorem fetch_of_canFetch {s : State} (h : s.CanFetch) : s.fetch = .ok s.fetched := by
  obtain ⟨-, -, -, -, -, -, hbuf, hlow, hgated, hmarked⟩ := h
  have hempty : s.me.buffered (bundleOf s.me.pc) = none := by simp [Strand.buffered, hbuf]
  simp [State.fetch, hlow.not_ge, hempty, hgated, hmarked, State.fetched]

theorem fetched_buffered {s : State} (h : s.CanFetch) :
    s.fetched.me.buffered (bundleOf s.me.pc) = some s.bundleHere := by
  simp [fetched_me h, Strand.buffered]

theorem party_of_noSwarm {s : State} (h : s.me.swarm = none) : s.party = [(s.curCell, s.curStrand)] := by
  rw [State.party, h]

theorem at_cur (s : State) : s.at s.curCell s.curStrand = s := rfl

/-- A strand that may fetch issues the slot that the checks of its bundle give, or takes their trap. -/
theorem tryIssue_of_canFetch {s : State} (h : s.CanFetch) :
    s.tryIssue = match slotOf s.me.encv s.bundleHere s.me.pc false with
      | .error tr => .went (s.fetched.raiseBundle tr)
      | .ok x => s.fetched.issueSlot x := by
  have hfetch := fetch_of_canFetch h
  have hbuffered := fetched_buffered h
  have hme := fetched_me h
  obtain ⟨⟨-, -, -, hreplay⟩, hruns, hheld, hbound, hfollower, hswarm, -⟩ := h
  have hparty : s.partyRuns = true := by simp [State.partyRuns, party_of_noSwarm hswarm, at_cur, hruns]
  rw [State.tryIssue, if_neg (by simp [hruns, hparty, hheld, hbound, hfollower]), hfetch]
  dsimp only
  rw [show bundleOf s.fetched.me.pc = bundleOf s.me.pc by rw [hme], hbuffered]
  dsimp only
  rw [show s.fetched.me.encv = s.me.encv by rw [hme]; rfl, show s.fetched.me.pc = s.me.pc by rw [hme],
    show s.fetched.me.replay = none by rw [hme]; exact hreplay]
  rfl

end Sys2Proof.Proofs

/-! A step that issues: a lone word, a pair, and the checks of a bundle (R85-R89). -/

namespace Sys2Proof.Proofs

open Sys2Proof.Machine

set_option Elab.async false

/-! ### Issuing one word in a strand outside a swarm -/

theorem clear_of_noLongs {t : Strand} (hlongs : t.longs = []) (hshadow : t.shadow = none) (i : Instr) :
    t.clear i = true := by
  simp [Strand.clear, Strand.interlocked, Strand.shadowBars, Strand.nestedWaits, hlongs, hshadow]

theorem closeFor_of_noLongs {s : State} (hswarm : s.me.swarm = none) (hlongs : s.me.longs = []) (ends : Bool) :
    s.closeFor ends = s := by
  have hme : (s.strandAt s.curCell s.curStrand).longs = [] := hlongs
  simp [State.closeFor, party_of_noSwarm hswarm, hme]

theorem issueWord_of_noSwarm {s : State} (hswarm : s.me.swarm = none) (i : Instr) : s.issueWord i = s.tryWord i := by
  simp [State.issueWord, party_of_noSwarm hswarm]

theorem issueOne_of_isAt {s : State} (hswarm : s.me.swarm = none) {i : Instr} (hclose : s.closeFor i.endsWindows = s)
    (hat : s.isAt s.me.pc = true) : s.issueOne i = s.tryWord i := by
  rw [State.issueOne, hclose, if_pos hat, issueWord_of_noSwarm hswarm]

theorem tryWord_of_changed {s t : State} {i : Instr} (hruns : s.strandRuns = true) (hclear : s.me.clear i = true)
    (hexec : exec i s = .next t) (hmoved : t.strandAt s.curCell s.curStrand ≠ s.me) :
    s.tryWord i = .went (t.at s.curCell s.curStrand) := by
  rw [State.tryWord, if_neg (by simp [hruns, hclear]), hexec]
  exact if_neg hmoved

theorem tryWord_of_unchanged {s t : State} {i : Instr} (hruns : s.strandRuns = true) (hclear : s.me.clear i = true)
    (hexec : exec i s = .next t) (hsame : t.strandAt s.curCell s.curStrand = s.me) : s.tryWord i = .waits t := by
  rw [State.tryWord, if_neg (by simp [hruns, hclear]), hexec]
  exact if_pos hsame

theorem fetched_quiet {s : State} (h : s.CanFetch) : s.fetched.Quiet := by
  rw [State.Quiet, fetched_me h]
  exact h.1

theorem fetched_swarm {s : State} (h : s.CanFetch) : s.fetched.me.swarm = none := by
  have hme := fetched_me h
  obtain ⟨-, -, -, -, -, hswarm, -⟩ := h
  rw [hme]; exact hswarm

theorem run_of_strandRuns {s : State} (h : s.strandRuns = true) : s.me.run = .issuing := by
  simp only [State.strandRuns, Bool.and_eq_true, beq_iff_eq] at h
  exact h.1.1.1.1

theorem fetched_isAt {s : State} (h : s.CanFetch) : s.fetched.isAt s.me.pc = true := by
  have hrun := run_of_strandRuns (fetched_strandRuns h)
  have hbuffered := fetched_buffered h
  have hpc : s.fetched.me.pc = s.me.pc := by rw [fetched_me h]
  obtain ⟨-, -, hheld, -⟩ := fetched_quiet h
  simp [State.isAt, hrun, hbuffered, hpc, hheld]

theorem fetched_issueOne {s : State} (h : s.CanFetch) (i : Instr) : s.fetched.issueOne i = s.fetched.tryWord i := by
  have hswarm := fetched_swarm h
  have hpc : s.fetched.me.pc = s.me.pc := by rw [fetched_me h]
  exact issueOne_of_isAt hswarm (closeFor_of_noLongs hswarm (fetched_quiet h).1 _) (by rw [hpc]; exact fetched_isAt h)

theorem fetched_clear {s : State} (h : s.CanFetch) (i : Instr) : s.fetched.me.clear i = true := by
  obtain ⟨hlongs, hshadow, -⟩ := fetched_quiet h
  exact clear_of_noLongs hlongs hshadow i

/-! ### What the step of a scheduled issue answers -/

section Scheduled

variable {s s1 t : State} {g : CellId} {k : StrandId} {r : List Choice}

/-- The schedule picks strand `k` of cell `g`, where the state is `s1`. -/
def Picks (s s1 : State) (g : CellId) (k : StrandId) (r : List Choice) : Prop :=
  s.oracle = .issue g k :: r ∧ s1 = ({ s with oracle := r } : State).at g k

theorem step_of_went (hpick : Picks s s1 g k r) (htry : s1.tryIssue = .went t) : step s = .next (t.issued g k) := by
  obtain ⟨horacle, rfl⟩ := hpick
  rw [step, horacle]
  dsimp only
  unfold State.issueAt
  rw [htry]
  rfl

theorem step_of_waits (hpick : Picks s s1 g k r) (htry : s1.tryIssue = .waits t) : step s = .next (t.tick 1) := by
  obtain ⟨horacle, rfl⟩ := hpick
  rw [step, horacle]
  dsimp only
  unfold State.issueAt
  rw [htry]

theorem curCell_of_picks (hpick : Picks s s1 g k r) : s1.curCell = g := by
  obtain ⟨-, rfl⟩ := hpick; rfl

theorem curStrand_of_picks (hpick : Picks s s1 g k r) : s1.curStrand = k := by
  obtain ⟨-, rfl⟩ := hpick; rfl

end Scheduled

/-! ### The slot of a lone word -/

theorem slotOf_loneWord {encv pc w : Nat} {b : Word} (h : loneWord b pc = some w) :
    slotOf encv b pc false = oneWord encv w := by
  rw [loneWord] at h
  split_ifs at h with hshape hodd hsolo
  · rw [slotOf_word1 (by simpa using hshape) hodd, Option.some.inj h]
  · rw [slotOf_solo (by simpa using hshape) hsolo.1 hsolo.2, Option.some.inj h]

theorem tryIssue_of_loneWord {s : State} {w : Nat} {i : Instr} (h : s.CanFetch) (hw : loneWord s.bundleHere s.me.pc = some w)
    (hi : decodeWord s.me.encv w = .ok i) : s.tryIssue = s.fetched.tryWord i := by
  rw [tryIssue_of_canFetch h, slotOf_loneWord hw, oneWord, hi]
  exact fetched_issueOne h i

/-- Settles O11: the strand may fetch, so it issues the word alone, and the step is that word's effect. -/
theorem stepRunsDecodedWord : Obligations.StepRunsDecodedWord := by
  unfold Obligations.StepRunsDecodedWord Claims.StepRunsWord
  intro s s1 g k r w i t horacle hs1 h hw hi hexec
  have hpick : Picks s s1 g k r := ⟨horacle, hs1⟩
  have hcell : s1.fetched.curCell = g := by rw [fetched_curCell, curCell_of_picks hpick]
  have hstrand : s1.fetched.curStrand = k := by rw [fetched_curStrand, curStrand_of_picks hpick]
  have htry := tryIssue_of_loneWord h hw hi
  have hruns := fetched_strandRuns h
  have hclear := fetched_clear h i
  constructor
  · intro hmoved
    have hwent := tryWord_of_changed hruns hclear hexec (by rwa [hcell, hstrand])
    rw [hcell, hstrand] at hwent
    exact step_of_went hpick (htry.trans hwent)
  · intro hsame
    exact step_of_waits hpick (htry.trans (tryWord_of_unchanged hruns hclear hexec (by rwa [hcell, hstrand])))

/-! ### The traps of a bundle -/

theorem raise_of_setMe {s : State} {t : Strand} (hq : (s.setMe t).Quiet) {tr : Trap} (htr : tr.cause ≠ .fpException) :
    (s.setMe t).raise tr = (s.setMe t).takeTrap tr t.pc false 0 := by
  rw [raise_other_quiet hq htr, State.me_setMe, State.setMe_setMe]

/-- The fetched state has its strand written last. -/
theorem fetched_eq_setMe (s : State) : ∃ u : State, s.fetched = u.setMe s.fetched.me :=
  ⟨s.touch s.curCell (bundleOf s.me.pc), by rw [State.fetched, State.readBundle, State.me_setMe]⟩

theorem fetched_raise {s : State} (h : s.CanFetch) {tr : Trap} (htr : tr.cause ≠ .fpException) :
    s.fetched.raise tr = s.fetched.takeTrap tr s.me.pc false 0 := by
  have hq := fetched_quiet h
  have hpc : s.fetched.me.pc = s.me.pc := by rw [fetched_me h]
  obtain ⟨u, hu⟩ := fetched_eq_setMe s
  rw [hu] at hq ⊢
  rw [raise_of_setMe hq htr, hpc]

theorem raiseBundle_quiet {s : State} (hq : s.Quiet) (b : Word) : s.raiseBundle (bundleTrap b) =
    (s.setMe { s.me with pc := bundleOf s.me.pc }).takeTrap (bundleTrap b) (bundleOf s.me.pc) false 0 := by
  obtain ⟨hlongs, hshadow, hheld, hreplay⟩ := hq
  have hcause : (bundleTrap b).cause = .illegalBundle := rfl
  have hmoved : (s.setMe { s.me with pc := bundleOf s.me.pc }).Quiet := State.Quiet.setMe hlongs hshadow hheld hreplay
  rw [State.raiseBundle, if_pos hcause]
  exact raise_of_setMe hmoved (by rw [hcause]; simp)

theorem raiseBundle_wordTrap (s : State) (w n : Nat) : s.raiseBundle (wordTrap w n) = s.raise (wordTrap w n) :=
  if_neg (by simp [wordTrap])

/-- An undecodable word traps with itself and its number. -/
theorem step_of_wordTrap {s s1 : State} {g : CellId} {k : StrandId} {r : List Choice} {w n : Nat} (hpick : Picks s s1 g k r)
    (h : s1.CanFetch) (hslot : slotOf s1.me.encv s1.bundleHere s1.me.pc false = .error (wordTrap w n)) :
    step s = .next ((s1.fetched.takeTrap ⟨.illegalInstruction, BitVec.ofNat 64 w, BitVec.ofNat 64 n, 0, 0, 0⟩
      s1.me.pc false 0).issued g k) := by
  refine step_of_went hpick ?_
  rw [tryIssue_of_canFetch h, hslot]
  dsimp only
  rw [raiseBundle_wordTrap, fetched_raise h (by simp [wordTrap])]
  rfl

theorem step_of_bundleTrap {s s1 : State} {g : CellId} {k : StrandId} {r : List Choice} (hpick : Picks s s1 g k r)
    (h : s1.CanFetch) (hslot : slotOf s1.me.encv s1.bundleHere s1.me.pc false = .error (bundleTrap s1.bundleHere)) :
    step s = .next (((s1.fetched.setMe { s1.fetched.me with pc := bundleOf s1.me.pc }).takeTrap
      ⟨.illegalBundle, s1.bundleHere, 0, 0, 0, 0⟩ (bundleOf s1.me.pc) false 0).issued g k) := by
  refine step_of_went hpick ?_
  rw [tryIssue_of_canFetch h, hslot]
  dsimp only
  rw [raiseBundle_quiet (fetched_quiet h), show s1.fetched.me.pc = s1.me.pc by rw [fetched_me h]]
  rfl

/-! ### The S and K bits of a bundle (R85, R86) -/

theorem getLsbD_eq_div (b : Word) (n : Nat) : b.getLsbD n = decide (b.toNat / 2 ^ n % 2 = 1) := by
  rw [← BitVec.testBit_toNat, Nat.testBit_eq_decide_div_mod_eq]

theorem word0_bit (b : Word) {n : Nat} (hn : n < 32) : word0 b / 2 ^ n % 2 = b.toNat / 2 ^ n % 2 := by
  have hdvd : 2 ^ n * 2 ∣ 2 ^ 32 := pow_dvd_pow 2 (Nat.succ_le_of_lt hn)
  rw [word0, ← Nat.mod_mul_right_div_self, Nat.mod_mod_of_dvd _ hdvd, Nat.mod_mul_right_div_self]

theorem word1_bit (b : Word) (n : Nat) : word1 b / 2 ^ n % 2 = b.toNat / 2 ^ (32 + n) % 2 := by
  rw [word1, Nat.div_div_eq_div_mul, ← Nat.pow_add]

/-- The highest bit of a 32-bit word needs no remainder. -/
theorem top_bit {v : Nat} (h : v < 2 ^ 32) : v / 2 ^ 31 = v / 2 ^ 31 % 2 :=
  (Nat.mod_eq_of_lt (Nat.div_lt_of_lt_mul h)).symm

theorem mod_two_eq_zero (n : Nat) : (n % 2 == 0) = !decide (n % 2 = 1) := by
  rcases Nat.mod_two_eq_zero_or_one n with h | h <;> rw [h] <;> rfl

theorem soloBundle_eq (b : Word) : soloBundle b = b.getLsbD 31 := by
  rw [getLsbD_eq_div, soloBundle, top_bit (v := word0 b) (Nat.mod_lt _ (by decide)), word0_bit b (by decide)]
  rfl

theorem bundleShapeOk_eq (b : Word) :
    bundleShapeOk b = (!b.getLsbD 63 && (b.getLsbD 31 || (!b.getLsbD 30 && b.getLsbD 62))) := by
  rw [bundleShapeOk, soloBundle_eq, top_bit (v := word1 b) (Nat.div_lt_of_lt_mul b.isLt), word1_bit, word1_bit, word0_bit b (by decide),
    mod_two_eq_zero, mod_two_eq_zero, getLsbD_eq_div b 63, getLsbD_eq_div b 30, getLsbD_eq_div b 62]
  rfl

theorem slotOf_of_badShape {encv pc : Nat} {b : Word} {alone : Bool} (h : bundleShapeOk b = false) :
    slotOf encv b pc alone = .error (bundleTrap b) := by
  rw [slotOf, h]; rfl

theorem bothWords_of_bad0 {encv : Nat} {b : Word} {e : Reject} (h0 : decodeWord encv (word0 b) = .error e) :
    bothWords encv b = .error (wordTrap (word0 b) 0) := by
  rw [bothWords, h0]

theorem bothWords_of_bad1 {encv : Nat} {b : Word} {i : Instr} {e : Reject} (h0 : decodeWord encv (word0 b) = .ok i)
    (h1 : decodeWord encv (word1 b) = .error e) : bothWords encv b = .error (wordTrap (word1 b) 1) := by
  rw [bothWords, h0, h1]

theorem bothWords_of_notPair {encv : Nat} {b : Word} {i j : Instr} (h0 : decodeWord encv (word0 b) = .ok i)
    (h1 : decodeWord encv (word1 b) = .ok j) (hpair : pairOk i j = false) : bothWords encv b = .error (bundleTrap b) := by
  rw [bothWords, h0, h1]
  dsimp only
  rw [hpair]; rfl

/-- Items 3 to 5 of R86. -/
theorem pairOk_eq_false {i j : Instr} (h : i.serialising = true ∨ (∃ x ∈ i.writes, x ∈ j.writes ∨ x ∈ j.reads) ∨
    (i.longLatency = true ∧ j.noPartner = true)) : pairOk i j = false := by
  rcases h with hser | ⟨x, hx, hmeets⟩ | ⟨hlong, hno⟩
  · simp [pairOk, hser]
  · have hany : (i.writes.any fun r => j.writes.contains r || j.reads.contains r) = true := by
      rw [List.any_eq_true]
      exact ⟨x, hx, by simpa using hmeets⟩
    rw [pairOk, hany, Bool.not_true, Bool.and_false, Bool.false_and]
  · simp [pairOk, hlong, hno]

theorem stepTrapsWord : Claims.StepTrapsWord := by
  intro s s1 g k r w e horacle hs1 h hw he
  refine step_of_wordTrap ⟨horacle, hs1⟩ h ?_
  rw [slotOf_loneWord hw, oneWord, he]

theorem stepTrapsBundle : Claims.StepTrapsBundle := by
  intro s s1 g k r b horacle hs1 h hb
  subst hb
  have hpick : Picks s s1 g k r := ⟨horacle, hs1⟩
  refine ⟨fun hbits => ?_, fun hpc h63 h31 h30 h62 => ?_⟩
  · refine step_of_bundleTrap hpick h (slotOf_of_badShape ?_)
    rw [bundleShapeOk_eq]
    rcases hbits with h63 | ⟨h31, h30 | h62⟩
    · rw [h63]; rfl
    · rw [h31, h30]; exact Bool.and_false _
    · rw [h31, h62, Bool.and_false]; exact Bool.and_false _
  · have hshape : bundleShapeOk s1.bundleHere = true := by
      rw [bundleShapeOk_eq, h63, h31, h30, h62]; rfl
    have hboth : slotOf s1.me.encv s1.bundleHere s1.me.pc false = bothWords s1.me.encv s1.bundleHere :=
      slotOf_both hshape hpc (by rw [soloBundle_eq, h31])
    refine ⟨fun e h0 => ?_, fun i e h0 h1 => ?_, fun i j h0 h1 hbad => ?_⟩
    · exact step_of_wordTrap hpick h (hboth.trans (bothWords_of_bad0 h0))
    · exact step_of_wordTrap hpick h (hboth.trans (bothWords_of_bad1 h0 h1))
    · exact step_of_bundleTrap hpick h (hboth.trans (bothWords_of_notPair h0 h1 (pairOk_eq_false hbad)))

/-! ### A pair -/

theorem stepRunsPair : Claims.StepRunsPair := by
  intro s s1 g k r i j t u v horacle hs1 h hpc hshape hsolo hi hj hpair hends hgoes hexec hmoved hu hat hswarm hruns hclear
    hexecj hmovedj
  have hpick : Picks s s1 g k r := ⟨horacle, hs1⟩
  have hcell : s1.fetched.curCell = g := by rw [fetched_curCell, curCell_of_picks hpick]
  have hstrand : s1.fetched.curStrand = k := by rw [fetched_curStrand, curStrand_of_picks hpick]
  have hsw := fetched_swarm h
  have hpcs : s1.fetched.me.pc = s1.me.pc := by rw [fetched_me h]
  have hfirst : s1.fetched.issueWord i = .went u := by
    rw [issueWord_of_noSwarm hsw, tryWord_of_changed (fetched_strandRuns h) (fetched_clear h i) hexec
      (by rwa [hcell, hstrand]), hcell, hstrand, hu]
  have hupc : u.me.pc = s1.me.pc + 4 := by
    simp only [State.isAt, Bool.and_eq_true, beq_iff_eq] at hat
    exact hat.1.1.2
  have hcur : u.curCell = g ∧ u.curStrand = k := by rw [hu]; exact ⟨rfl, rfl⟩
  have hsecond : u.issueOne j = .went (v.at g k) := by
    rw [issueOne_of_isAt hswarm (by rw [hends]; rfl) (by rw [hupc]; exact hat),
      tryWord_of_changed hruns hclear hexecj (by rwa [hcur.1, hcur.2]), hcur.1, hcur.2]
  refine step_of_went hpick ?_
  rw [tryIssue_of_canFetch h, slotOf_both hshape hpc hsolo, bothWords_of_pairOk hi hj hpair]
  dsimp only
  rw [State.issueSlot, closeFor_of_noLongs hsw (fetched_quiet h).1, hpcs, if_neg (by simp [fetched_isAt h]),
    if_neg (by simp [hgoes]), hfirst]
  dsimp only
  rw [if_pos hat, hsecond]

end Sys2Proof.Proofs

/-! The majors that the maps leave unallocated (R99, R104), and what `exec` and a step answer. -/

namespace Sys2Proof.Proofs

open Sys2Proof.Machine

set_option Elab.async false

/-! ### Unallocated majors -/

theorem refused_of_unallocated_A {op w : Nat} (h : major 1 op w) (hlow : 0x2B ≤ op) (hhigh : op ≤ 0x2F) : refused w := by
  obtain ⟨hc, hop⟩ := candidate_of_major_A h
  refine refused_of_error (e := .major) ?_
  rw [hc, decodeA, hop]
  interval_cases op <;> rfl

theorem refused_of_unallocated_C {op w : Nat} (h : major 0 op w) (hgap : op = 0x37 ∨ 0x3D ≤ op) : refused w := by
  have hlt : op < 64 := h.2 ▸ fld_lt w 29 24
  obtain ⟨hc, hop⟩ := candidate_of_major_C h
  refine refused_of_error (e := .major) ?_
  rw [hc, decodeC, hop]
  rcases hgap with rfl | hge
  · rfl
  · interval_cases op <;> rfl

/-- Settles O12: the strand fetches its bundle, whose checks in order give a trap or what issues; the gaps of the maps name
no instruction. -/
theorem stepRunsPairsAndTraps : Obligations.StepRunsPairsAndTraps := by
  unfold Obligations.StepRunsPairsAndTraps
  refine ⟨stepTrapsWord, stepTrapsBundle, stepRunsPair, fun w => ⟨fun h30 hlow hhigh => ?_, fun h30 hgap => ?_⟩⟩
  · exact refused_of_unallocated_A ⟨h30, rfl⟩ hlow hhigh
  · exact refused_of_unallocated_C ⟨h30, rfl⟩ hgap

/-! ### Every instruction and every step answers -/

/-- An outcome that is a next state. -/
def isNext : Host.Outcome State Fault Refusal → Bool
  | .next _ => true
  | _ => false

theorem exists_of_isNext {o : Host.Outcome State Fault Refusal} (h : isNext o = true) : ∃ t, o = .next t := by
  cases o with
  | next t => exact ⟨t, rfl⟩
  | _ => cases h

theorem exec_isNext (i : Instr) (s : State) : isNext (exec i s) = true := by cases i <;> rfl

theorem exec_answers (i : Instr) (s : State) : ∃ t, exec i s = .next t := exists_of_isNext (exec_isNext i s)

theorem passes_answers (n : Nat) (s : State) : ∃ t, passes n (.next s) = .next t := ⟨_, rfl⟩

theorem comeAbout_answers (s : State) (i : Instr) : ∃ t, s.comeAbout i = .next t := by
  obtain ⟨t, ht⟩ := exec_answers i s
  exact ⟨_, by rw [State.comeAbout, ht]⟩

theorem happen_answers {s : State} {n : Nat} {x : Instr × State} (h : s.take n = some x) :
    ∃ t, s.happen n = some (.next t) := by
  obtain ⟨u, hu⟩ := comeAbout_answers x.2 x.1
  rw [State.happen, h, Option.map_some, hu]
  split
  · exact ⟨_, rfl⟩
  · exact ⟨_, rfl⟩

theorem happen_of_take_none {s : State} {n : Nat} (h : s.take n = none) : s.happen n = none := by
  rw [State.happen, h, Option.map_none]

/-- The first happening of a list takes one place among the paths. -/
theorem pathsOf_cons_length (l : List (CellId × CellId × Net)) (i : Instr) (r : List Instr)
    (ih : ∀ l, (pathsOf l r).length = r.length) : (pathsOf l (i :: r)).length = r.length + 1 := by
  have hrest : (pathsOf l r).length + 1 = r.length + 1 := congrArg (· + 1) (ih l)
  cases i
  case allowanceReturn g n =>
    change List.length (match l.find? fun x => x.2 == (g, n) with
      | some x => some (Net.rp.code, x.1, g) :: pathsOf (l.erase x) r
      | none => none :: pathsOf l r) = _
    cases l.find? fun x => x.2 == (g, n) with
    | none => exact hrest
    | some x => exact congrArg (· + 1) (ih _)
  all_goals exact hrest

theorem pathsOf_length (l : List (CellId × CellId × Net)) (p : List Instr) : (pathsOf l p).length = p.length := by
  induction p generalizing l with
  | nil => rfl
  | cons i r ih => exact pathsOf_cons_length l i r ih

/-- The happening that `State.take` takes for the `n`-th one: the earliest of its path. -/
def takenIndex (s : State) (n : Nat) : Nat :=
  match ((pathsOf s.returns s.pending)[n]?).getD none with
  | some p => ((pathsOf s.returns s.pending).findIdx? fun q => q == some p).getD n
  | none => n

theorem takenIndex_lt {s : State} {n : Nat} (hn : n < s.pending.length) : takenIndex s n < s.pending.length := by
  rw [takenIndex]
  split
  next p hp =>
    cases hfind : (pathsOf s.returns s.pending).findIdx? fun q => q == some p with
    | none => exact hn
    | some k => exact pathsOf_length s.returns s.pending ▸ (List.findIdx?_eq_some_iff_getElem.1 hfind).1
  · exact hn

/-- A happening that is listed can be taken. -/
theorem take_of_lt {s : State} {n : Nat} (hn : n < s.pending.length) : ∃ x, s.take n = some x := by
  rw [State.take]
  dsimp only
  split
  next hnone => exact absurd (List.getElem?_eq_none_iff.1 hnone) (takenIndex_lt hn).not_ge
  · exact ⟨_, rfl⟩

/-- The move, where there is one, is to a next state. -/
def Moves (o : Option (Host.Outcome State Fault Refusal)) : Prop := ∀ x, o = some x → ∃ t, x = .next t

theorem Moves.or {o p : Option (Host.Outcome State Fault Refusal)} (ho : Moves o) (hp : Moves p) : Moves (o.or p) := by
  cases o with
  | none => exact hp
  | some x => exact ho

theorem Moves.getD {o : Option (Host.Outcome State Fault Refusal)} (ho : Moves o) (s : State) :
    ∃ t, o.getD (.next s) = .next t := by
  cases o with
  | none => exact ⟨s, rfl⟩
  | some x => exact ho x rfl

theorem happen_moves (s : State) (n : Nat) : Moves (s.happen n) := by
  cases htake : s.take n with
  | none => simp [Moves, happen_of_take_none htake]
  | some x =>
    obtain ⟨t, ht⟩ := happen_answers htake
    simp [Moves, ht]

theorem unscheduled_answers (s : State) : ∃ t, s.unscheduled = .next t := by
  have hissue : Moves (s.nextIssue.map fun x => .next ((s.issueAt x.1 x.2).tick 1)) := by
    cases s.nextIssue <;> simp [Moves]
  have hhappen := happen_moves s (s.now / 2 % max 1 s.pending.length)
  rw [State.unscheduled]
  split
  · exact (hissue.or hhappen).getD _
  · exact (hhappen.or hissue).getD _

theorem step_answers (s : State) : (∃ t, step s = .next t) ∨
    (∃ n r, s.oracle = .happen n :: r ∧ s.pending.length ≤ n ∧ step s = .fault .badSchedule) ∨
    (∃ i r, s.oracle = .outside i :: r ∧ i.isWord = true ∧ step s = .refused .notHappening) := by
  cases horacle : s.oracle with
  | nil =>
    obtain ⟨t, ht⟩ := unscheduled_answers s
    exact .inl ⟨t, by rw [step, horacle]; exact ht⟩
  | cons c r =>
    have hstep := step.eq_1 s
    rw [horacle] at hstep
    cases c with
    | happen n =>
      cases hx : ({ s with oracle := r } : State).happen n with
      | none =>
        refine .inr (.inl ⟨n, r, rfl, not_lt.1 fun hlt => ?_, by rw [hstep]; simp only [hx, Option.getD_none]⟩)
        obtain ⟨x, htake⟩ := take_of_lt (s := { s with oracle := r }) hlt
        obtain ⟨t, ht⟩ := happen_answers htake
        exact absurd (hx.symm.trans ht) (by simp)
      | some x =>
        obtain ⟨t, rfl⟩ := happen_moves { s with oracle := r } n x hx
        exact .inl ⟨t, by rw [hstep]; simp only [hx, Option.getD_some]⟩
    | outside i =>
      dsimp only at hstep
      split_ifs at hstep with hword
      · exact .inr (.inr ⟨i, r, rfl, hword, hstep⟩)
      · obtain ⟨t, ht⟩ := exec_answers i { s with oracle := r }
        exact .inl ⟨_, by rw [hstep, ht]; rfl⟩
    | _ => exact .inl ⟨_, hstep⟩

/-- Settles O14: every row of `exec` answers a next state, so a step stops only where its schedule names what is not there. -/
theorem everyInstructionAnswers : Obligations.EveryInstructionAnswers := by
  unfold Obligations.EveryInstructionAnswers Claims.EveryRowAnswers
  exact ⟨exec_answers, step_answers⟩

end Sys2Proof.Proofs

/-! Escalation (R42, R367): the record, the fault message, and what stays. -/

namespace Sys2Proof.Proofs

open Sys2Proof.Machine

set_option Elab.async false

/-! ### Fault messages and the watch of a stall leave the strand and the memory -/

@[simp] theorem stillPending_curCell (s : State) (i : Instr) : (s.stillPending i).curCell = s.curCell := by
  rw [State.stillPending]; split <;> rfl
@[simp] theorem stillPending_curStrand (s : State) (i : Instr) : (s.stillPending i).curStrand = s.curStrand := by
  rw [State.stillPending]; split <;> rfl
@[simp] theorem stillPending_mem (s : State) (i : Instr) : (s.stillPending i).mem = s.mem := by
  rw [State.stillPending]; split <;> rfl
@[simp] theorem stillPending_hives (s : State) (i : Instr) : (s.stillPending i).hives = s.hives := by
  rw [State.stillPending]; split <;> rfl
@[simp] theorem stillPending_jobs (s : State) (i : Instr) : (s.stillPending i).jobs = s.jobs := by
  rw [State.stillPending]; split <;> rfl

/-- What the watch of a seal stall leaves, whatever it has set going. -/
theorem watchStall_cases {s : State} {p : State → Prop} (hsame : p s) (hpending : ∀ i, p (s.stillPending i)) (g : CellId) :
    p (s.watchStall g) := by
  rw [State.watchStall]
  split
  · exact hpending _
  · exact hsame

@[simp] theorem watchStall_me (s : State) (g : CellId) : (s.watchStall g).me = s.me :=
  watchStall_cases (p := fun t => t.me = s.me) rfl (fun i => s.me_stillPending i) g
@[simp] theorem watchStall_mem (s : State) (g : CellId) : (s.watchStall g).mem = s.mem :=
  watchStall_cases (p := fun t => t.mem = s.mem) rfl (fun i => stillPending_mem s i) g
@[simp] theorem watchStall_hiveAt (s : State) (g : CellId) (h : Nat) : (s.watchStall g).hiveAt h = s.hiveAt h :=
  watchStall_cases (p := fun t => t.hiveAt h = s.hiveAt h) rfl
    (fun i => by rw [State.hiveAt, stillPending_hives, State.hiveAt]) g
@[simp] theorem watchStall_jobOf (s : State) (g d : CellId) : (s.watchStall g).jobOf d = s.jobOf d :=
  watchStall_cases (p := fun t => t.jobOf d = s.jobOf d) rfl (fun i => by
    simp only [State.jobOf, State.cellAt, State.jobAt, stillPending_cells, stillPending_jobs]) g

/-- A fault message leaves what neither a hive nor a job is. -/
theorem sendFault_cases {s : State} {p : State → Prop} (hset : ∀ n h, p (s.setHive n h))
    (hjob : ∀ n h m j, p ((s.setHive n h).setJob m j)) (kind : Nat) (g : CellId) (slot : Nat) (k : StrandId)
    (rec : List Word) (stat : Word) : p (s.sendFault kind g slot k rec stat) := by
  rw [State.sendFault]
  split
  · split
    · exact hjob _ _ _ _
    · exact hset _ _
  · exact hset _ _

@[simp] theorem sendFault_me (s : State) (kind : Nat) (g : CellId) (slot : Nat) (k : StrandId) (rec : List Word)
    (stat : Word) : (s.sendFault kind g slot k rec stat).me = s.me :=
  sendFault_cases (p := fun t => t.me = s.me) (fun _ _ => rfl) (fun _ _ _ _ => rfl) kind g slot k rec stat
@[simp] theorem sendFault_mem (s : State) (kind : Nat) (g : CellId) (slot : Nat) (k : StrandId) (rec : List Word)
    (stat : Word) : (s.sendFault kind g slot k rec stat).mem = s.mem :=
  sendFault_cases (p := fun t => t.mem = s.mem) (fun _ _ => rfl) (fun _ _ _ _ => rfl) kind g slot k rec stat

/-- The message joins those of the cell's hive. -/
theorem sendFault_faults (s : State) (kind : Nat) (g : CellId) (slot : Nat) (k : StrandId) (rec : List Word) (stat : Word) :
    ((s.sendFault kind g slot k rec stat).hiveAt (hiveOf g)).faults =
      faultMessage kind g slot k rec stat (((s.jobOf g).map fun j => j.2.step).getD 0) :: (s.hiveAt (hiveOf g)).faults := by
  have hset : ∀ (t : State) n j, (t.setJob n j).hiveAt (hiveOf g) = t.hiveAt (hiveOf g) := fun _ _ _ => rfl
  rw [State.sendFault]
  split
  · split
    · rw [hset, State.hiveAt_setHive]
    · rw [State.hiveAt_setHive]
  · rw [State.hiveAt_setHive]

@[simp] theorem setMe_jobOf (s : State) (t : Strand) (g : CellId) : (s.setMe t).jobOf g = s.jobOf g := by
  have hjob : ((s.setMe t).cellAt g).job = (s.cellAt g).job := by
    by_cases hg : g = s.curCell
    · subst hg
      rw [State.setMe, State.setStrand, State.cellAt_setCell]
      rfl
    · rw [State.setMe, State.setStrand, State.cellAt_setCell_other _ _ _ _ hg]
  rw [State.jobOf, hjob, State.jobOf]
  rfl

/-! ### Escalation -/

/-- The strand that escalates. -/
def escalated (t : Strand) (now : Nat) : Strand :=
  { (t.setSv true).setDw 58 (setBit (t.dw 58) 16 true) with run := .awaiting 0 none, since := now }

theorem escalate_eq (s : State) : s.escalate =
    ((s.setMe (escalated s.me s.now)).watchStall s.curCell).sendFault 0 s.curCell (escalated s.me s.now).slotNo s.curStrand
      (escalated s.me s.now).record (escalated s.me s.now).status := rfl

theorem escalate_me (s : State) : s.escalate.me = escalated s.me s.now := by
  rw [escalate_eq, sendFault_me, watchStall_me, State.me_setMe]

theorem escalate_mem (s : State) : s.escalate.mem = s.mem := by
  rw [escalate_eq, sendFault_mem, watchStall_mem, State.setMe_mem]

theorem escalate_faults (s : State) : (s.escalate.hiveAt s.hive).faults =
    faultMessage 0 s.curCell (escalated s.me s.now).slotNo s.curStrand (escalated s.me s.now).record
      (escalated s.me s.now).status (((s.jobOf s.curCell).map fun j => j.2.step).getD 0) :: (s.hiveAt s.hive).faults := by
  rw [escalate_eq, State.hive, sendFault_faults, watchStall_jobOf, setMe_jobOf, watchStall_hiveAt, State.setMe_hiveAt]

/-- The strand with the record of a trap, before it is delivered. -/
def recorded (s : State) (tr : Trap) (pc : Nat) (law : Bool) (slot : Nat) : Strand :=
  { (s.me.clearIssue tr.cause s.shadowBusy).setRecord (tr.causeWord law slot) (BitVec.ofNat 64 pc) tr.val tr.aux with
    run := .issuing }

/-- R42: without a handler, or in supervisor mode already, a trap escalates. -/
theorem takeTrap_of_noHandler {s : State} {tr : Trap} (hswarm : s.me.swarm = none) (hfp : tr.cause ≠ .fpException)
    (hno : s.me.sv = true ∨ ∃ f, s.me.firing = some f ∧ f.trapEnt = 0) (pc : Nat) (law : Bool) (slot : Nat) :
    s.takeTrap tr pc law slot = (s.setMe (recorded s tr pc law slot)).escalate := by
  rw [takeTrap_alone hswarm, State.takeTrapAlone]
  simp only [hfp, decide_false, Bool.false_and, Bool.false_eq_true, if_false]
  rw [State.deliverTrap, State.me_setMe]
  apply if_pos
  rcases hno with hsv | ⟨f, hf, hent⟩
  · have hrec : (recorded s tr pc law slot).sv = true := (sv_setRecord _ _ _ _ _).trans hsv
    simpa using .inr hrec
  · have hrec : (recorded s tr pc law slot).firing = some f := hf
    simpa [recorded] using .inl (by simp [hf, hent, Strand.clearIssue])

theorem escalated_sv (t : Strand) (now : Nat) : (escalated t now).sv = true := by
  have h := sv_setSv t true
  have hkeep : (escalated t now).ws[50] = (t.setSv true).ws[50] := by
    simp [escalated, Strand.setDw]
  rw [Strand.sv, Strand.status, hkeep]
  exact h

theorem escalation : Claims.Escalation := by
  intro s tr pc slot law hswarm hfp hwdog hno
  have hslot : (escalated (recorded s tr pc law slot) s.now).slotNo = s.me.slotNo := by
    simp [Strand.slotNo, escalated, recorded, Strand.setDw, Strand.setSv, Strand.setStatus, Strand.setRecord, Strand.clearIssue]
  refine ⟨_, takeTrap_of_noHandler hswarm hfp hno pc law slot, ?_⟩
  have hfaults := escalate_faults (s.setMe (recorded s tr pc law slot))
  rw [State.me_setMe, setMe_jobOf] at hfaults
  rw [escalate_me, escalate_mem, State.me_setMe]
  refine ⟨rfl, escalated_sv _ _, rfl, ?_, ?_, ?_, ?_, ?_⟩
  · simp [escalated, recorded, Strand.setDw, Strand.setSv, Strand.setStatus, Strand.setRecord, Strand.dw]
  · simp [escalated, recorded, Strand.setDw, Strand.setSv, Strand.setStatus, Strand.setRecord]
  · simp [escalated, recorded, Strand.setDw, Strand.setSv, Strand.setStatus, Strand.setRecord]
  · simp [escalated, recorded, Strand.setDw, Strand.setSv, Strand.setStatus, Strand.setRecord]
  · rw [← hslot]
    exact hfaults

/-- Settles O27: with a handler the strand enters it, and without one, or in supervisor mode, it escalates. -/
theorem trapsAreTaken : Obligations.TrapsAreTaken := by
  unfold Obligations.TrapsAreTaken
  exact ⟨trapEntry, trapInstruction, escalation⟩

end Sys2Proof.Proofs

/-! What bytes and numbers read as after a write. -/

namespace Sys2Proof.Proofs

open Sys2Proof.Machine

set_option Elab.async false

/-! ### Lists of bytes -/

theorem bytes_length (m : List Host.Cell) (a n : Nat) : (Memory.bytes m a n).length = n := by
  induction n generalizing a with
  | zero => rfl
  | succ n ih => rw [Memory.bytes, List.length_cons, ih]

theorem bytes_getElem (m : List Host.Cell) (a n k : Nat) (hk : k < (Memory.bytes m a n).length) :
    (Memory.bytes m a n)[k] = Memory.get m (a + k) := by
  induction n generalizing a k with
  | zero => exact absurd hk (Nat.not_lt_zero k)
  | succ n ih =>
    cases k with
    | zero => rfl
    | succ k =>
      have hrest := ih (a + 1) k (by rw [bytes_length] at hk ⊢; omega)
      rw [show a + (k + 1) = a + 1 + k by omega, ← hrest]
      rfl

theorem bytes_congr {m m' : List Host.Cell} {a a' n : Nat}
    (h : ∀ k, k < n → Memory.get m (a + k) = Memory.get m' (a' + k)) : Memory.bytes m a n = Memory.bytes m' a' n := by
  refine List.ext_getElem (by rw [bytes_length, bytes_length]) fun k hk _ => ?_
  rw [bytes_getElem, bytes_getElem, h k (by rwa [bytes_length] at hk)]

theorem toBytes_getElem (v n k : Nat) (hk : k < (toBytes v n).length) :
    (toBytes v n)[k] = BitVec.ofNat 8 (v / 256 ^ k) := by
  induction n generalizing v k with
  | zero => exact absurd hk (Nat.not_lt_zero k)
  | succ n ih =>
    cases k with
    | zero => simp [toBytes]
    | succ k =>
      have hrest := ih (v / 256) k (by rw [toBytes_length] at hk ⊢; omega)
      rw [show v / 256 ^ (k + 1) = v / 256 / 256 ^ k by rw [Nat.div_div_eq_div_mul, Nat.pow_succ, Nat.mul_comm], ← hrest]
      rfl

/-! ### Bytes after a write of bytes -/

theorem byte_writeBytes_other {s : State} (hwf : Memory.wf s.mem = true) {a c : Nat} {l : List Byte}
    (h : c < a ∨ a + l.length ≤ c) : (s.writeBytes a l).byte c = s.byte c :=
  Memory.get_setBytes_other l s.mem a c hwf h

theorem byte_writeBytes {s : State} (hwf : Memory.wf s.mem = true) (a : Nat) {l : List Byte} {k : Nat} (hk : k < l.length) :
    (s.writeBytes a l).byte (a + k) = l[k] := by
  have hall := Memory.bytes_setBytes l s.mem a hwf
  have hget := bytes_getElem (Memory.setBytes s.mem a l) a l.length k (by rwa [bytes_length])
  simp only [hall] at hget
  exact hget.symm

theorem write_wf {s : State} (hwf : Memory.wf s.mem = true) (a n v : Nat) : Memory.wf (s.write a n v).mem = true :=
  s.writeBytes_wf a (toBytes v n) hwf

/-! ### Numbers -/

theorem read_congr {s t : State} {a a' n : Nat} (h : ∀ k, k < n → t.byte (a + k) = s.byte (a' + k)) :
    t.read a n = s.read a' n :=
  congrArg ofBytes (bytes_congr h)

theorem read_of_mem {s t : State} (h : t.mem = s.mem) (a n : Nat) : t.read a n = s.read a n := by
  rw [State.read, State.read, h]

theorem byte_of_mem {s t : State} (h : t.mem = s.mem) (a : Nat) : t.byte a = s.byte a := by
  rw [State.byte, State.byte, h]

theorem read_writeBytes_other {s : State} (hwf : Memory.wf s.mem = true) {a b n : Nat} {l : List Byte}
    (h : b + n ≤ a ∨ a + l.length ≤ b) : (s.writeBytes a l).read b n = s.read b n :=
  read_congr fun k hk => byte_writeBytes_other hwf (by omega)

theorem read_write_other {s : State} (hwf : Memory.wf s.mem = true) {a b n m v : Nat} (h : b + n ≤ a ∨ a + m ≤ b) :
    (s.write a m v).read b n = s.read b n :=
  read_writeBytes_other hwf (by rwa [toBytes_length])

/-- A number whose bytes are written one after another reads as it was written. -/
theorem read_of_bytes {s : State} {a n v : Nat} (h : ∀ k, k < n → s.byte (a + k) = BitVec.ofNat 8 (v / 256 ^ k)) :
    s.read a n = v % 256 ^ n := by
  rw [← ofBytes_toBytes]
  refine congrArg ofBytes (List.ext_getElem (by rw [bytes_length, toBytes_length]) fun k hk _ => ?_)
  rw [bytes_getElem, toBytes_getElem]
  exact h k (by rwa [bytes_length] at hk)

/-! ### A list of doublewords -/

theorem flatMap_toBytes_length (l : List Word) : (l.flatMap fun v => toBytes v.toNat 8).length = 8 * l.length := by
  induction l with
  | nil => rfl
  | cons v r ih => rw [List.flatMap_cons, List.length_append, ih, toBytes_length, List.length_cons]; omega

theorem flatMap_toBytes_getElem (l : List Word) {n k : Nat} (hn : n < l.length) (hk : k < 8)
    (hlt : 8 * n + k < (l.flatMap fun v => toBytes v.toNat 8).length) :
    (l.flatMap fun v => toBytes v.toNat 8)[8 * n + k] = BitVec.ofNat 8 (l[n].toNat / 256 ^ k) := by
  induction l generalizing n with
  | nil => exact absurd hn (Nat.not_lt_zero n)
  | cons v r ih =>
    simp only [List.flatMap_cons]
    cases n with
    | zero =>
      rw [List.getElem_append_left (by rw [toBytes_length]; omega), toBytes_getElem]
      simp
    | succ n =>
      have hr : n < r.length := by simpa using hn
      rw [List.getElem_append_right (by rw [toBytes_length]; omega)]
      simp only [toBytes_length, List.getElem_cons_succ, show 8 * (n + 1) + k - 8 = 8 * n + k by omega]
      exact ih hr (by rw [flatMap_toBytes_length]; omega)

/-- Doubleword `n` of a list written from `a` on. -/
theorem read_writeBytes_words {s : State} (hwf : Memory.wf s.mem = true) (a : Nat) {l : List Word} {n : Nat}
    (hn : n < l.length) : (s.writeBytes a (l.flatMap fun v => toBytes v.toNat 8)).read (a + 8 * n) 8 = l[n].toNat := by
  have hlt : l[n].toNat < 256 ^ 8 := l[n].isLt
  rw [← Nat.mod_eq_of_lt hlt]
  refine read_of_bytes fun k hk => ?_
  have hin : 8 * n + k < (l.flatMap fun v => toBytes v.toNat 8).length := by rw [flatMap_toBytes_length]; omega
  rw [Nat.add_assoc, byte_writeBytes hwf a hin]
  exact flatMap_toBytes_getElem l hn hk hin

end Sys2Proof.Proofs

/-! The end of a firing, `FOLD`, and the freeing of a strand (R230, R249, R307, R311). -/

namespace Sys2Proof.Proofs

open Sys2Proof.Machine

set_option Elab.async false

/-! ### Writing a workspace back -/

@[simp] theorem writeBack_me (s : State) (g : CellId) (t : Strand) : (s.writeBack g t).me = s.me := touch_me s g t.wp
@[simp] theorem writeBack_curCell (s : State) (g : CellId) (t : Strand) : (s.writeBack g t).curCell = s.curCell :=
  touch_curCell s g t.wp
@[simp] theorem writeBack_curStrand (s : State) (g : CellId) (t : Strand) : (s.writeBack g t).curStrand = s.curStrand :=
  touch_curStrand s g t.wp
@[simp] theorem writeBack_hiveAt (s : State) (g : CellId) (t : Strand) (h : Nat) :
    (s.writeBack g t).hiveAt h = s.hiveAt h := touch_hiveAt s g t.wp h

/-- Every cell keeps all but its banks. -/
theorem writeBack_cellAt (s : State) (g : CellId) (t : Strand) (h : CellId) :
    ∃ b, (s.writeBack g t).cellAt h = { s.cellAt h with banks := b } := touch_cellAt s g t.wp h

theorem writeBack_mem (s : State) (g : CellId) (t : Strand) : (s.writeBack g t).mem =
    (s.writeBytes (tcmBase g + t.wp) (t.ws.toList.flatMap fun v => toBytes v.toNat 8)).mem := by
  have h : ∀ (u v : State) a l, u.mem = v.mem → (u.writeBytes a l).mem = (v.writeBytes a l).mem := by
    intro u v a l huv
    simp only [State.writeBytes, State.clearMarks, huv]
  exact h _ _ _ _ (touch_mem s g t.wp)

theorem writeBack_wf {s : State} (hwf : Memory.wf s.mem = true) (g : CellId) (t : Strand) :
    Memory.wf (s.writeBack g t).mem = true := by
  rw [writeBack_mem]
  exact s.writeBytes_wf _ _ hwf

/-- Each doubleword of the workspace holds its register. -/
theorem read_writeBack {s : State} (hwf : Memory.wf s.mem = true) (g : CellId) (t : Strand) (k : Fin 64) :
    (s.writeBack g t).read (tcmBase g + t.wp + 8 * k.val) 8 = t.ws[k].toNat := by
  have hk : k.val < t.ws.toList.length := by simp
  rw [read_of_mem (writeBack_mem s g t), read_writeBytes_words hwf _ hk, Vector.getElem_toList]
  rfl

theorem read_writeBack_other {s : State} (hwf : Memory.wf s.mem = true) {g : CellId} {t : Strand} {a n : Nat}
    (h : a + n ≤ tcmBase g + t.wp ∨ tcmBase g + t.wp + 512 ≤ a) : (s.writeBack g t).read a n = s.read a n := by
  rw [read_of_mem (writeBack_mem s g t)]
  exact read_writeBytes_other hwf (by rw [flatMap_toBytes_length, Vector.length_toList]; omega)

/-! ### The ring's head moves past the inputs of an ordinary firing -/

@[simp] theorem setSlotDyn_curCell (s : State) (g : CellId) (n : Nat) (d : SlotDyn) :
    (s.setSlotDyn g n d).curCell = s.curCell := rfl
@[simp] theorem setSlotDyn_curStrand (s : State) (g : CellId) (n : Nat) (d : SlotDyn) :
    (s.setSlotDyn g n d).curStrand = s.curStrand := rfl
@[simp] theorem setSlotDyn_hiveAt (s : State) (g : CellId) (n : Nat) (d : SlotDyn) (h : Nat) :
    (s.setSlotDyn g n d).hiveAt h = s.hiveAt h := rfl
@[simp] theorem setQptr_curCell (s : State) (g : CellId) (n head tail : Nat) :
    (s.setQptr g n head tail).curCell = s.curCell := rfl
@[simp] theorem setQptr_curStrand (s : State) (g : CellId) (n head tail : Nat) :
    (s.setQptr g n head tail).curStrand = s.curStrand := rfl
@[simp] theorem setQptr_hiveAt (s : State) (g : CellId) (n head tail : Nat) (h : Nat) :
    (s.setQptr g n head tail).hiveAt h = s.hiveAt h := rfl
@[simp] theorem setQptr_strandAt (s : State) (g : CellId) (n head tail : Nat) (h : CellId) (k : StrandId) :
    (s.setQptr g n head tail).strandAt h k = s.strandAt h k := rfl
@[simp] theorem setSlotDyn_mem (s : State) (g : CellId) (n : Nat) (d : SlotDyn) : (s.setSlotDyn g n d).mem = s.mem := rfl

@[simp] theorem setSlotDyn_strandAt (s : State) (g : CellId) (n : Nat) (d : SlotDyn) (h : CellId) (k : StrandId) :
    (s.setSlotDyn g n d).strandAt h k = s.strandAt h k := by
  by_cases hg : h = g
  · rw [hg, State.strandAt, State.setSlotDyn, State.cellAt_setCell]; rfl
  · rw [State.strandAt, State.setSlotDyn, State.cellAt_setCell_other _ _ _ _ hg]; rfl

theorem releaseInputs_ordinary {f : Firing} (hord : f.task = false) (s : State) (g : CellId) : ∃ d, s.releaseInputs g f =
    (s.setQptr g f.slot ((f.head + f.rate) % 2 ^ 32) (s.slotTail g f.slot)).setSlotDyn g f.slot d := by
  rw [State.releaseInputs]
  simp only [hord, Bool.false_eq_true, if_false]
  exact ⟨_, rfl⟩

theorem setQptr_slotHead {s : State} (hwf : Memory.wf s.mem = true) (g : CellId) (n head tail : Nat) :
    (s.setQptr g n head tail).slotHead g n = head % 2 ^ 32 := by
  rw [State.slotHead, State.desc, State.setQptr, State.read_write _ _ _ _ hwf]
  omega

theorem setQptr_slotTail {s : State} (hwf : Memory.wf s.mem = true) (g : CellId) (n head tail : Nat) :
    (s.setQptr g n head tail).slotTail g n = tail % 2 ^ 32 := by
  rw [State.slotTail, State.desc, State.setQptr, State.read_write _ _ _ _ hwf]
  omega

theorem slotTail_lt (s : State) (g : CellId) (n : Nat) : s.slotTail g n < 2 ^ 32 := by
  have hlt : s.desc g n 3 < 2 ^ 64 := by
    rw [State.desc, State.read]
    have hbound : ∀ l : List Byte, ofBytes l < 256 ^ l.length := by
      intro l
      induction l with
      | nil => exact Nat.one_pos
      | cons b r ih =>
        have hb := b.isLt
        rw [ofBytes, List.length_cons, Nat.pow_succ]
        omega
    have h := hbound (Memory.bytes s.mem (descAddr g n 3) 8)
    rwa [bytes_length] at h
  rw [State.slotTail]
  omega

/-! ### The end of a firing -/

/-- A strand whose streams are unbound. -/
def unstreamed (t : Strand) : Strand := { t with ws := (((t.ws.set 40 0).set 41 0).set 42 0).set 43 0 }

theorem unstreamed_ws (t : Strand) {k : Fin 64} (hk : k.val < 40 ∨ 43 < k.val) : (unstreamed t).ws[k] = t.ws[k] := by
  simp only [unstreamed, Fin.getElem_fin]
  rw [Vector.getElem_set_ne _ _ (by omega), Vector.getElem_set_ne _ _ (by omega), Vector.getElem_set_ne _ _ (by omega),
    Vector.getElem_set_ne _ _ (by omega)]

/-- The strand that a firing leaves. -/
def leaving (t : Strand) : Strand := { Strand.reset with run := .leaving, ws := t.ws, wp := t.wp }

/-- The state before the ring is released: the streams are gone, and the registers are in the workspace. -/
def boundOff (s : State) (f : Firing) (nw : Bool) : State :=
  let u := if nw then s.keepStatus else s
  ((u.setCur (u.cell.dropStreams f.fid)).writeBack s.curCell (unstreamed s.me)).setMe (leaving (unstreamed s.me))

theorem keepStatus_cell (s : State) : ∃ q1 q2 q3 q4,
    s.keepStatus.cell = { s.cell with vuQ := q1, sceQ := q2, fgQ := q3, sduQ := q4 } :=
  ⟨_, _, _, _, State.cell_setCur _ _⟩

/-- What the end of a firing makes of its cell before the workspace goes back: no strand and no pool entry is touched. -/
theorem unbound_cell (s : State) (f : Firing) (nw : Bool) :
    let u := if nw then s.keepStatus else s
    (u.setCur (u.cell.dropStreams f.fid)).cell.poolUsed = s.cell.poolUsed ∧ u.curCell = s.curCell ∧
      u.curStrand = s.curStrand ∧ u.mem = s.mem ∧ u.hives = s.hives := by
  cases nw
  · exact ⟨by rw [State.cell_setCur]; rfl, rfl, rfl, rfl, rfl⟩
  · obtain ⟨q1, q2, q3, q4, hcell⟩ := keepStatus_cell s
    refine ⟨?_, rfl, rfl, rfl, rfl⟩
    rw [if_pos rfl, State.cell_setCur, hcell]
    rfl

theorem setCur_hiveAt (s : State) (c : Cell) (h : Nat) : (s.setCur c).hiveAt h = s.hiveAt h := rfl

theorem boundOff_hiveAt (s : State) (f : Firing) (nw : Bool) (h : Nat) : (boundOff s f nw).hiveAt h = s.hiveAt h := by
  obtain ⟨-, -, -, -, hhives⟩ := unbound_cell s f nw
  rw [boundOff, State.setMe_hiveAt, writeBack_hiveAt, setCur_hiveAt, State.hiveAt, hhives, State.hiveAt]

theorem boundOff_curCell (s : State) (f : Firing) (nw : Bool) : (boundOff s f nw).curCell = s.curCell := by
  obtain ⟨-, hcell, -⟩ := unbound_cell s f nw
  rw [boundOff, State.setMe_curCell, writeBack_curCell, State.setCur_curCell, hcell]

theorem boundOff_curStrand (s : State) (f : Firing) (nw : Bool) : (boundOff s f nw).curStrand = s.curStrand := by
  obtain ⟨-, -, hstrand, -⟩ := unbound_cell s f nw
  rw [boundOff, State.setMe_curStrand, writeBack_curStrand, State.setCur_curStrand, hstrand]

theorem boundOff_me (s : State) (f : Firing) (nw : Bool) : (boundOff s f nw).me = leaving (unstreamed s.me) := by
  rw [boundOff, State.me_setMe]

theorem boundOff_poolUsed (s : State) (f : Firing) (nw : Bool) : (boundOff s f nw).cell.poolUsed = s.cell.poolUsed := by
  obtain ⟨hpool, hcell, -⟩ := unbound_cell s f nw
  obtain ⟨b, hb⟩ := writeBack_cellAt ((if nw then s.keepStatus else s).setCur
    ((if nw then s.keepStatus else s).cell.dropStreams f.fid)) s.curCell (unstreamed s.me) s.curCell
  rw [boundOff, State.cell_setMe, State.cell, writeBack_curCell, State.setCur_curCell, hcell, hb]
  rw [State.cell, State.setCur_curCell, hcell] at hpool
  exact hpool

theorem boundOff_mem (s : State) (f : Firing) (nw : Bool) :
    (boundOff s f nw).mem = (s.writeBack s.curCell (unstreamed s.me)).mem := by
  obtain ⟨-, -, -, hmem, -⟩ := unbound_cell s f nw
  rw [boundOff, State.setMe_mem, writeBack_mem, writeBack_mem]
  simp only [State.writeBytes, State.clearMarks, State.setCur_mem, hmem]

/-- The cell without the firing: its pool workspace is free, and its join buffer takes no more returns. -/
def withoutFiring (c : Cell) (f : Firing) : Cell :=
  { c with poolUsed := del c.poolUsed f.pool
           joins := put c.joins f.pool ⟨(((look c.joins f.pool).getD ⟨0, []⟩).gen + 1) % 2 ^ 16, []⟩ }

/-- The state once the ring is released. -/
def released (s : State) (f : Firing) (nw : Bool) : State := (boundOff s f nw).releaseInputs s.curCell f

/-- The end of the firing of an ordinary actor. -/
theorem endFiring_ordinary {s : State} {f : Firing} (hf : s.me.firing = some f) (hord : f.task = false) (cause : Option Nat)
    (nw : Bool) : s.endFiring cause nw =
      (((released s f nw).setCur (withoutFiring (released s f nw).cell f)).push (.inputAdvance s.curCell f.slot)).push
        (.strandFree s.curCell (released s f nw).curStrand) := by
  rw [State.endFiring, hf]
  dsimp only
  rw [if_neg (by simp [hord]), State.push_curStrand, State.setCur_curStrand]
  rfl

theorem released_eq {f : Firing} (hord : f.task = false) (s : State) (nw : Bool) : ∃ d, released s f nw =
    ((boundOff s f nw).setQptr s.curCell f.slot ((f.head + f.rate) % 2 ^ 32)
      ((boundOff s f nw).slotTail s.curCell f.slot)).setSlotDyn s.curCell f.slot d :=
  releaseInputs_ordinary hord _ _

theorem released_me {f : Firing} (hord : f.task = false) (s : State) (nw : Bool) :
    (released s f nw).me = leaving (unstreamed s.me) := by
  obtain ⟨d, hd⟩ := released_eq hord s nw
  rw [← boundOff_me s f nw, hd, State.me, setSlotDyn_curCell, setSlotDyn_curStrand, setSlotDyn_strandAt, setQptr_curCell,
    setQptr_curStrand, setQptr_strandAt, State.me]

theorem released_curCell {f : Firing} (hord : f.task = false) (s : State) (nw : Bool) :
    (released s f nw).curCell = s.curCell := by
  obtain ⟨d, hd⟩ := released_eq hord s nw
  rw [hd, setSlotDyn_curCell, setQptr_curCell, boundOff_curCell]

theorem released_curStrand {f : Firing} (hord : f.task = false) (s : State) (nw : Bool) :
    (released s f nw).curStrand = s.curStrand := by
  obtain ⟨d, hd⟩ := released_eq hord s nw
  rw [hd, setSlotDyn_curStrand, setQptr_curStrand, boundOff_curStrand]

theorem released_hiveAt {f : Firing} (hord : f.task = false) (s : State) (nw : Bool) (h : Nat) :
    (released s f nw).hiveAt h = s.hiveAt h := by
  obtain ⟨d, hd⟩ := released_eq hord s nw
  rw [hd, setSlotDyn_hiveAt, setQptr_hiveAt, boundOff_hiveAt]

theorem released_mem {f : Firing} (hord : f.task = false) (s : State) (nw : Bool) : (released s f nw).mem =
    ((boundOff s f nw).setQptr s.curCell f.slot ((f.head + f.rate) % 2 ^ 32)
      ((boundOff s f nw).slotTail s.curCell f.slot)).mem := by
  obtain ⟨d, hd⟩ := released_eq hord s nw
  rw [hd, setSlotDyn_mem]

section EndFiring

variable {s : State} {f : Firing} (hf : s.me.firing = some f) (hord : f.task = false) (cause : Option Nat) (nw : Bool)
include hf hord

theorem endFiring_me : (s.endFiring cause nw).me = leaving (unstreamed s.me) := by
  rw [endFiring_ordinary hf hord, State.me_push, State.me_push, State.me_setCur]
  exact released_me hord s nw

theorem endFiring_strandAt : (s.endFiring cause nw).strandAt s.curCell s.curStrand = leaving (unstreamed s.me) := by
  have hcell : (s.endFiring cause nw).curCell = s.curCell := by
    rw [endFiring_ordinary hf hord, State.push_curCell, State.push_curCell, State.setCur_curCell, released_curCell hord]
  have hstrand : (s.endFiring cause nw).curStrand = s.curStrand := by
    rw [endFiring_ordinary hf hord, State.push_curStrand, State.push_curStrand, State.setCur_curStrand,
      released_curStrand hord]
  rw [← endFiring_me hf hord cause nw, State.me, hcell, hstrand]

theorem endFiring_strandFree : Instr.strandFree s.curCell s.curStrand ∈ (s.endFiring cause nw).pending := by
  rw [endFiring_ordinary hf hord, released_curStrand hord]
  exact List.mem_append_right _ List.mem_cons_self

theorem endFiring_inputAdvance : Instr.inputAdvance s.curCell f.slot ∈ (s.endFiring cause nw).pending := by
  rw [endFiring_ordinary hf hord]
  exact List.mem_append_left _ (List.mem_append_right _ List.mem_cons_self)

theorem endFiring_hiveAt (h : Nat) : (s.endFiring cause nw).hiveAt h = s.hiveAt h := by
  rw [endFiring_ordinary hf hord, ← released_hiveAt hord s nw h, State.hiveAt, State.push_hives, State.push_hives,
    State.setCur_hives, State.hiveAt]

theorem endFiring_mem : (s.endFiring cause nw).mem = (released s f nw).mem := by
  rw [endFiring_ordinary hf hord, State.push_mem, State.push_mem, State.setCur_mem]

theorem endFiring_poolUsed : f.pool ∉ (s.endFiring cause nw).cell.poolUsed := by
  rw [endFiring_ordinary hf hord, State.cell_push, State.cell_push, State.cell_setCur]
  simp [withoutFiring, del]

end EndFiring

end Sys2Proof.Proofs

/-! `DONE`, `DONE.nw`, `FOLD`, and what the watchdog and the drover do to a firing (R35, R42, R143, R230, R249, R368). -/

namespace Sys2Proof.Proofs

open Sys2Proof.Machine

set_option Elab.async false

/-! ### `DONE`, `DONE.nw` and `FOLD` -/

theorem slotHead_of_mem {s t : State} (h : t.mem = s.mem) (g : CellId) (n : Nat) : t.slotHead g n = s.slotHead g n := by
  rw [State.slotHead, State.slotHead, State.desc, State.desc, read_of_mem h]

theorem slotTail_of_mem {s t : State} (h : t.mem = s.mem) (g : CellId) (n : Nat) : t.slotTail g n = s.slotTail g n := by
  rw [State.slotTail, State.slotTail, State.desc, State.desc, read_of_mem h]

/-- R230, R307: the end of an ordinary firing. -/
theorem endFiring_ended {s : State} {f : Firing} (hfiring : s.OrdinaryFiring f) (hbelow : s.WsBelowTable)
    (hwf : Memory.wf s.mem = true) (cause : Option Nat) (nw : Bool) : s.Ended (s.endFiring cause nw) f := by
  obtain ⟨hf, hord, hslot⟩ := hfiring
  have hwp : s.me.wp + 512 ≤ 0x7F000 := hbelow
  have hback : Memory.wf (boundOff s f nw).mem = true := by
    rw [boundOff_mem]; exact writeBack_wf hwf _ _
  have hmem := (endFiring_mem hf hord cause nw).trans (released_mem hord s nw)
  have hme := endFiring_me hf hord cause nw
  have htail : (boundOff s f nw).slotTail s.curCell f.slot = s.slotTail s.curCell f.slot := by
    rw [slotTail_of_mem (boundOff_mem s f nw), State.slotTail, State.slotTail, State.desc, State.desc,
      read_writeBack_other hwf (.inr ?_)]
    have hws : (unstreamed s.me).wp = s.me.wp := rfl
    rw [hws, descAddr]
    omega
  refine ⟨by rw [hme]; rfl, by rw [hme]; rfl, endFiring_poolUsed hf hord cause nw, ?_, ?_, endFiring_strandFree hf hord cause nw,
    endFiring_inputAdvance hf hord cause nw, fun k hk => ?_⟩
  · rw [slotHead_of_mem hmem, setQptr_slotHead hback, Nat.mod_mod]
  · rw [slotTail_of_mem hmem, setQptr_slotTail hback, htail, Nat.mod_eq_of_lt (slotTail_lt _ _ _)]
  · have hk64 := k.isLt
    rw [read_of_mem hmem, State.setQptr, read_write_other hback (.inl ?_), read_of_mem (boundOff_mem s f nw)]
    · exact (read_writeBack hwf s.curCell (unstreamed s.me) k).trans (by rw [unstreamed_ws _ hk])
    · rw [descAddr]
      omega

theorem exec_doneNw_of_noSwarm {s : State} (hswarm : s.me.swarm = none) : exec .doneNw s = .next (s.endFiring none true) := by
  change execDoneNw s = _
  rw [execDoneNw, State.afterUnswarm, hswarm]

theorem exec_done_of_noSwarm {s : State} (hswarm : s.me.swarm = none) :
    exec .done s = .next (if s.drained then s.endFiring none false else s) := by
  change execDone s = _
  rw [execDone, State.afterUnswarm, hswarm]

theorem firingEnds : Claims.FiringEnds := by
  intro s f hfiring hswarm hbelow hwf
  refine ⟨⟨_, exec_doneNw_of_noSwarm hswarm, endFiring_ended hfiring hbelow hwf none true⟩, fun hdrained => ?_, fun hdrained => ?_⟩
  · rw [exec_done_of_noSwarm hswarm, hdrained]
    exact ⟨_, rfl, endFiring_ended hfiring hbelow hwf none false⟩
  · rw [exec_done_of_noSwarm hswarm, hdrained]
    rfl

theorem mem_stillPending (s : State) (i : Instr) : i ∈ (s.stillPending i).pending := by
  rw [State.stillPending]
  split
  next h => exact List.contains_iff_mem.1 h
  · exact List.mem_append_right _ List.mem_cons_self

theorem foldWaits : Claims.FoldWaits := by
  intro s n hjob
  have hexec : exec .fold s = .next (if !s.drained then s else
      ((s.setMe { s.me with run := .folded, since := s.now, note := 0 }).watchStall s.curCell).stillPending (.foldGather n)) := by
    change execFold s = _
    have hcell : (s.setMe { s.me with run := .folded, since := s.now, note := 0 }).cell.job = some n := by
      rw [State.cell_setMe]; exact hjob
    rw [execFold]
    dsimp only
    rw [hcell]
    rfl
  constructor
  · intro hdrained
    rw [hexec, hdrained]
    refine ⟨_, rfl, ?_, ?_, ?_, ?_, mem_stillPending _ _⟩
    · simp [State.me_stillPending]
    · simp [State.me_stillPending]
    · simp [State.me_stillPending]
    · simp
  · intro hdrained
    rw [hexec, hdrained]
    rfl

theorem strandFreed : Claims.StrandFreed := by
  intro s g k hrun
  change execStrandFree g k s = _
  rw [execStrandFree]
  dsimp only
  rw [if_neg (by simp [hrun])]

/-- Settles O30: the workspace goes back, the ring is released, and the strand leaves and is freed. -/
theorem firingsEnd : Obligations.FiringsEnd := by
  unfold Obligations.FiringsEnd
  exact ⟨firingEnds, foldWaits, strandFreed⟩

/-! ### `YIELD` -/

theorem reload_eq {t : Strand} (hwdog : t.inWdog = false) (n : BitVec 12) :
    t.reload n = { t with ws := t.ws.set 54 (ylimit (t.budget n) (t.budget n * 64)) } := by
  rw [Strand.reload, hwdog]
  rfl

theorem budget_eq {t : Strand} {f : Firing} (hf : t.firing = some f) (n : BitVec 12) :
    t.budget n = if n = 0 then f.defdl else n.toNat := by
  rw [Strand.budget, hf]
  rfl

theorem reload_status (t : Strand) (n : BitVec 12) : (t.reload n).status = t.status := by
  rw [Strand.reload]
  split <;> simp [Strand.status, Strand.setYlimit]

theorem exec_yield_of_idle {s : State} (hidle : s.engineBusy = false) (n : BitVec 12) : exec (.yield n) s =
    .next (if !s.me.sv && !s.me.swm && (s.setMe (s.me.reload n)).switches then
      (s.setMe (s.me.reload n)).switchOut (s.me.reload n).nextPc else (s.setMe (s.me.reload n)).retire) := by
  have hsv : (s.me.reload n).sv = s.me.sv := by rw [Strand.sv, reload_status, Strand.sv]
  have hswm : (s.me.reload n).swm = s.me.swm := by rw [Strand.swm, reload_status, Strand.swm]
  change execYield n s = _
  rw [execYield, hidle, if_neg Bool.false_ne_true]
  dsimp only
  rw [State.me_setMe, hsv, hswm]

theorem yieldGoesOn : Claims.YieldGoesOn := by
  intro n s f hq hidle hf hwdog hstays
  rw [exec_yield_of_idle hidle, hstays, Bool.and_false, if_neg Bool.false_ne_true, reload_eq hwdog, budget_eq hf,
    State.retire_setWs s hq]

/-- The strand with the word at which it goes on in doubleword 49. -/
def stampedPc (t : Strand) (pc : Nat) : Strand := t.setDw 49 (BitVec.ofNat 64 pc)

theorem switchOut_eq {s : State} {f : Firing} (hf : s.me.firing = some f) (pc : Nat) :
    let u := (s.writeBack s.curCell (stampedPc s.me pc)).setMe (leaving (stampedPc s.me pc))
    s.switchOut pc = (u.setCur { u.cell with switched := u.cell.switched ++ [⟨f, s.me.wp, u.now⟩] }).push
      (.strandFree s.curCell u.curStrand) := by
  rw [State.switchOut, hf]
  rfl

theorem switchOut_me {s : State} {f : Firing} (hf : s.me.firing = some f) (pc : Nat) :
    (s.switchOut pc).me = leaving (stampedPc s.me pc) := by
  rw [switchOut_eq hf, State.me_push, State.me_setCur]
  exact State.me_setMe (s.writeBack s.curCell (stampedPc s.me pc)) (leaving (stampedPc s.me pc))

theorem switchOut_mem {s : State} {f : Firing} (hf : s.me.firing = some f) (pc : Nat) :
    (s.switchOut pc).mem = (s.writeBack s.curCell (stampedPc s.me pc)).mem := by
  rw [switchOut_eq hf, State.push_mem, State.setCur_mem, State.setMe_mem]

theorem switchOut_switched {s : State} {f : Firing} (hf : s.me.firing = some f) (pc : Nat) :
    (s.switchOut pc).cell.switched = s.cell.switched ++ [⟨f, s.me.wp, s.now⟩] := by
  obtain ⟨b, hb⟩ := writeBack_cellAt s s.curCell (stampedPc s.me pc) s.curCell
  have hcell : ((s.writeBack s.curCell (stampedPc s.me pc)).setMe (leaving (stampedPc s.me pc))).cell.switched =
      s.cell.switched := by
    rw [State.cell_setMe, State.cell, writeBack_curCell, hb]
    rfl
  have hnow : (s.writeBack s.curCell (stampedPc s.me pc)).now = s.now := touch_now s s.curCell _
  rw [switchOut_eq hf, State.cell_push, State.cell_setCur]
  dsimp only
  rw [hcell, State.setMe_now, hnow]

theorem yieldSwitches : Claims.YieldSwitches := by
  intro n s f hq hidle hf hsv hswm hswitches hpc hwf
  have hnext : (s.me.reload n).nextPc = s.me.pc + 4 := by
    obtain ⟨-, -, -, hreplay⟩ := hq
    have hkeep : (s.me.reload n).replay = none ∧ (s.me.reload n).pc = s.me.pc := by
      rw [Strand.reload]; split <;> exact ⟨hreplay, rfl⟩
    rw [Strand.nextPc, hkeep.1, hkeep.2]
  have hf' : (s.setMe (s.me.reload n)).me.firing = some f := by
    rw [State.me_setMe, Strand.reload]; split <;> exact hf
  have hwp : (s.me.reload n).wp = s.me.wp := by rw [Strand.reload]; split <;> rfl
  have hexec : exec (.yield n) s = .next ((s.setMe (s.me.reload n)).switchOut (s.me.pc + 4)) := by
    rw [exec_yield_of_idle hidle, hsv, hswm, hswitches, hnext]; rfl
  have hmem := switchOut_mem hf' (s.me.pc + 4)
  have hme := switchOut_me hf' (s.me.pc + 4)
  rw [State.me_setMe] at hmem hme
  have hread : ∀ k : Fin 64, ((s.setMe (s.me.reload n)).switchOut (s.me.pc + 4)).read
      (tcmBase s.curCell + s.me.wp + 8 * k.val) 8 = (stampedPc (s.me.reload n) (s.me.pc + 4)).ws[k].toNat := fun k => by
    rw [read_of_mem hmem, ← hwp]
    exact read_writeBack (s := s.setMe (s.me.reload n)) hwf s.curCell (stampedPc (s.me.reload n) (s.me.pc + 4)) k
  refine ⟨_, hexec, by rw [hme]; rfl, by rw [hme]; rfl, ?_, ?_, fun k hk => ?_⟩
  · rw [switchOut_switched hf', State.cell_setMe, State.me_setMe, hwp]
    rfl
  · rw [show 8 * 49 = 8 * (49 : Fin 64).val from rfl, hread 49]
    simp only [stampedPc, Strand.setDw, Fin.getElem_fin]
    rw [Vector.getElem_set_self, BitVec.toNat_ofNat]
    omega
  · simp only [List.mem_cons, List.not_mem_nil, or_false, not_or] at hk
    rw [hread k]
    simp only [stampedPc, Strand.setDw, Fin.getElem_fin]
    have h49 : (49 : Fin 64).val ≠ k.val := Ne.symm hk.1
    rw [Vector.getElem_set_ne _ _ h49, Strand.reload]
    split <;> rw [Strand.setYlimit] <;> dsimp only <;> rw [Vector.getElem_set_ne _ _ (Ne.symm hk.2)]

/-- Settles O31: the budget is loaded, and the strand goes on or is switched out with its registers in its workspace. -/
theorem yieldDecides : Obligations.YieldDecides := by
  unfold Obligations.YieldDecides
  exact ⟨yieldGoesOn, yieldSwitches⟩

end Sys2Proof.Proofs

/-! The watchdog (R35, R42, R44, R367). -/

namespace Sys2Proof.Proofs

open Sys2Proof.Machine

set_option Elab.async false

@[simp] theorem strandAt_at (s : State) (g h : CellId) (j k : StrandId) : (s.at h j).strandAt g k = s.strandAt g k := rfl
@[simp] theorem me_at (s : State) (g : CellId) (k : StrandId) : (s.at g k).me = s.strandAt g k := rfl
@[simp] theorem hiveAt_at (s : State) (g : CellId) (k : StrandId) (h : Nat) : (s.at g k).hiveAt h = s.hiveAt h := rfl
@[simp] theorem jobOf_at (s : State) (g d : CellId) (k : StrandId) : (s.at g k).jobOf d = s.jobOf d := rfl

@[simp] theorem on_strandAt (s : State) (g h : CellId) (j k : StrandId) (f : State → State) :
    (s.on h j f).strandAt g k = (f (s.at h j)).strandAt g k := rfl
@[simp] theorem on_mem (s : State) (g : CellId) (k : StrandId) (f : State → State) :
    (s.on g k f).mem = (f (s.at g k)).mem := rfl
@[simp] theorem on_hiveAt (s : State) (g : CellId) (k : StrandId) (f : State → State) (h : Nat) :
    (s.on g k f).hiveAt h = (f (s.at g k)).hiveAt h := rfl
@[simp] theorem on_pending (s : State) (g : CellId) (k : StrandId) (f : State → State) :
    (s.on g k f).pending = (f (s.at g k)).pending := rfl

/-- A strand between instructions can be struck. -/
theorem strikable_of_issuing {t : Strand} (hrun : t.run = .issuing) (hlongs : t.longs = []) (hamov : t.amov = none)
    (hpair : t.midPair = false) : t.strikable = true := by
  simp [Strand.strikable, Strand.windowOpen, Strand.arrived, hrun, hlongs, hamov, hpair]

/-! ### `WATCHDOG` is taken -/

/-- The strand that `WATCHDOG` sends to its handler: LEFT is 4,096 beside the deadline that stands. -/
def sentToHandler (t : Strand) (f : Firing) : Strand :=
  { ({ t.setSv true with pc := f.trapEnt, run := .issuing, buf := [] } : Strand).setYlimit t.deadline 4096 with
    firing := t.firing.map fun f => { f with wdog := true } }

theorem deliverTrap_watchdog {s : State} {f : Firing} (hf : s.me.firing = some f) (hent : f.trapEnt ≠ 0)
    (hsv : s.me.sv = false) : s.deliverTrap .watchdog = s.setMe (sentToHandler s.me f) := by
  have hdead : ({ s.me.setSv true with pc := f.trapEnt, run := .issuing, buf := [] } : Strand).deadline = s.me.deadline := by
    simp [Strand.deadline, Strand.setSv, Strand.setStatus]
  simp only [State.deliverTrap, hf, Option.map_some, Option.getD_some, hent, hsv, Bool.or_false, decide_false,
    Bool.false_eq_true, if_false, if_true, hdead]
  rw [sentToHandler]
  rfl

theorem takeTrap_watchdog {s : State} {f : Firing} (hswarm : s.me.swarm = none) (hf : s.me.firing = some f)
    (hent : f.trapEnt ≠ 0) (hsv : s.me.sv = false) (val : Word) (pc : Nat) :
    s.takeTrap ⟨.watchdog, val, 0, 0, 0, 0⟩ pc false 0 =
      s.setMe (sentToHandler (recorded s ⟨.watchdog, val, 0, 0, 0, 0⟩ pc false 0) f) := by
  rw [takeTrap_alone hswarm, State.takeTrapAlone]
  simp only [reduceCtorEq, decide_false, Bool.false_and, Bool.false_eq_true, if_false]
  rw [deliverTrap_watchdog (f := f) (by rw [State.me_setMe]; exact hf) hent
    (by rw [State.me_setMe]; exact (sv_setRecord _ _ _ _ _).trans hsv), State.me_setMe, State.setMe_setMe]
  rfl

theorem ylimit_left (d l : Nat) : (ylimit d l).toNat / 2 ^ 16 % 2 ^ 24 = l % 2 ^ 24 := by
  rw [ylimit, BitVec.toNat_ofNat]; omega

theorem ylimit_deadline (d l : Nat) : (ylimit d l).toNat % 4096 = d % 4096 := by
  rw [ylimit, BitVec.toNat_ofNat]; omega

theorem answering_of_noSwarm {s : State} {g : CellId} {k : StrandId} (h : (s.strandAt g k).swarm = none) :
    s.answering g k = (g, k) := by
  rw [State.answering, h]

/-- The handler runs in supervisor mode. -/
theorem sentToHandler_sv (t : Strand) (f : Firing) : (sentToHandler t f).sv = true := by
  have h := sv_setSv t true
  have hkeep : (sentToHandler t f).ws[50] = (t.setSv true).ws[50] := by
    simp [sentToHandler, Strand.setYlimit]
  rw [Strand.sv, Strand.status, hkeep]
  exact h

/-- The trap of a deadline that has run out (R44). -/
def deadlineTrap (t : Strand) : Trap := ⟨.watchdog, BitVec.ofNat 64 t.deadline, 0, 0, 0, 0⟩

/-- The strand that the watchdog has struck. -/
def struck (s : State) (t : Strand) (f : Firing) : Strand :=
  sentToHandler (recorded s (deadlineTrap t) t.pc false 0) f

theorem deadlineTrap_causeWord (t : Strand) : (deadlineTrap t).causeWord false 0 = 0x0E := by
  simp [deadlineTrap, Trap.causeWord, Cause.code]

theorem struck_ws (s : State) (f : Firing) {n : Fin 64} (h50 : n.val ≠ 50) (h54 : n.val ≠ 54) :
    (struck s s.me f).ws[n] = (((((s.me.ws.set 58 0x0E).set 59 (BitVec.ofNat 64 s.me.pc)).set 60
      (BitVec.ofNat 64 s.me.deadline)).set 61 0)[n] : Word) := by
  simp only [struck, sentToHandler, Strand.setYlimit, Strand.setSv, Strand.setStatus, Fin.getElem_fin]
  rw [Vector.getElem_set_ne _ _ (Ne.symm h54), Vector.getElem_set_ne _ _ (Ne.symm h50)]
  rw [← deadlineTrap_causeWord s.me]
  rfl

theorem struck_ylimit (s : State) (f : Firing) : (struck s s.me f).ws[54] = ylimit s.me.deadline 4096 := by
  simp [struck, sentToHandler, Strand.setYlimit, recorded, Strand.setRecord, Strand.clearIssue, Strand.deadline]

theorem exec_watchdog_of_handler {s : State} {g : CellId} {k : StrandId} {f : Firing}
    (hstrikable : (s.strandAt g k).strikable = true) (hrun : (s.strandAt g k).run = .issuing)
    (hleft : (s.strandAt g k).left = 0) (hsv : (s.strandAt g k).sv = false) (hf : (s.strandAt g k).firing = some f)
    (hent : f.trapEnt ≠ 0) (hswarm : (s.strandAt g k).swarm = none) : exec (.watchdog g k) s =
      .next (((s.at g k).setMe (struck (s.at g k) (s.strandAt g k) f)).at s.curCell s.curStrand) := by
  have hexec : exec (.watchdog g k) s =
      .next (((s.at g k).takeTrap (deadlineTrap (s.strandAt g k)) (s.strandAt g k).pc false 0).at s.curCell s.curStrand) := by
    change execWatchdog g k s = _
    rw [execWatchdog, answering_of_noSwarm hswarm]
    simp only [hleft, hsv, hf, hrun, hstrikable]
    rfl
  have htaken := takeTrap_watchdog (s := s.at g k) hswarm hf hent hsv (BitVec.ofNat 64 (s.strandAt g k).deadline)
    (s.strandAt g k).pc
  rw [hexec, deadlineTrap, htaken, struck, deadlineTrap]

theorem watchdogStrikes : Claims.WatchdogStrikes := by
  rintro s g k t f rfl hrun hleft hsv hf hent hswarm hlongs hamov hpair
  have hws : ∀ n : Fin 64, n.val ≠ 50 → n.val ≠ 54 → (struck (s.at g k) (s.strandAt g k) f).ws[n] =
      (((((s.strandAt g k).ws.set 58 0x0E).set 59 (BitVec.ofNat 64 (s.strandAt g k).pc)).set 60
        (BitVec.ofNat 64 (s.strandAt g k).deadline)).set 61 0)[n] := fun n => struck_ws (s.at g k) f
  have hlimit : (struck (s.at g k) (s.strandAt g k) f).ws[54] = ylimit (s.strandAt g k).deadline 4096 :=
    struck_ylimit (s.at g k) f
  refine ⟨_, _, exec_watchdog_of_handler (strikable_of_issuing hrun hlongs hamov hpair) hrun hleft hsv hf hent hswarm, ?_,
    (s.at g k).me_setMe _, rfl, rfl, sentToHandler_sv _ _, ?_, ?_, ?_, ?_, ?_, ?_, fun n hn => ?_⟩
  · rw [State.at_mem, State.setMe_mem, State.at_mem]
  · rw [Strand.left, hlimit, ylimit_left]; decide
  · rw [Strand.deadline, hlimit, ylimit_deadline, Strand.deadline]; omega
  · exact congrArg (Option.map fun f => { f with wdog := true }) hf
  · exact (hws 58 (by decide) (by decide)).trans (by simp)
  · exact (hws 59 (by decide) (by decide)).trans (by simp)
  · exact (hws 60 (by decide) (by decide)).trans (by simp)
  · simp only [List.mem_cons, List.not_mem_nil, or_false, not_or] at hn
    obtain ⟨h50, h54, h58, h59, h60, h61⟩ := hn
    rw [hws n h50 h54]
    simp only [Fin.getElem_fin]
    rw [Vector.getElem_set_ne _ _ (Ne.symm h61), Vector.getElem_set_ne _ _ (Ne.symm h60),
      Vector.getElem_set_ne _ _ (Ne.symm h59), Vector.getElem_set_ne _ _ (Ne.symm h58)]

/-! ### The budget of its handler runs out -/

theorem watchdogHandlerEnds : Claims.WatchdogHandlerEnds := by
  rintro s g k t f rfl hrun hleft hwdog hf hord hlongs hamov hpair
  let u := s.sendFault 6 g (s.strandAt g k).slotNo k (s.strandAt g k).record (s.strandAt g k).status
  have hexec : exec (.watchdogHandlerExpiry g k) s = .next (u.on g k fun s => s.endFiring none true) := by
    change execWatchdogHandlerExpiry g k s = _
    rw [execWatchdogHandlerExpiry]
    simp only [hleft, hwdog, strikable_of_issuing hrun hlongs hamov hpair]
    rfl
  have hstrand : u.strandAt g k = s.strandAt g k :=
    sendFault_cases (p := fun t => t.strandAt g k = s.strandAt g k) (fun _ _ => rfl) (fun _ _ _ _ => rfl) ..
  have hf' : (u.at g k).me.firing = some f := (congrArg Strand.firing hstrand).trans hf
  have hended := endFiring_strandAt hf' hord none true
  have hfaults := endFiring_hiveAt hf' hord none true (hiveOf g)
  refine ⟨_, hexec, ?_, ?_, endFiring_strandFree hf' hord none true, ?_⟩
  · exact congrArg Strand.run hended
  · exact congrArg Strand.firing hended
  · rw [on_hiveAt, hfaults, hiveAt_at, sendFault_faults]

/-- Settles O33: the deadline sends the strand to its handler, and the handler's own budget ends the firing. -/
theorem watchdogActs : Obligations.WatchdogActs := by
  unfold Obligations.WatchdogActs
  exact ⟨watchdogStrikes, watchdogHandlerEnds⟩

end Sys2Proof.Proofs

/-! `RTT`, and the verbs of the drover (R42, R96, R143, R368). -/

namespace Sys2Proof.Proofs

open Sys2Proof.Machine

set_option Elab.async false

/-! ### `RTT` -/

theorem replayOf_eq (t : Strand) : t.replayOf = if (t.dw 58).getLsbD 12 then
    ⟨((t.dw 59).toNat % 2 ^ 19 + 4 * ((t.dw 58).toNat / 256 % 16 + 1)) % 2 ^ 19, true, (t.dw 58).toNat / 256 % 16⟩
    else ⟨(t.dw 59).toNat % 2 ^ 19 + 4, false, 0⟩ := by
  rw [Strand.replayOf, getLsbD_eq_div]
  simp

theorem returnFromTrap : Claims.ReturnFromTrap := by
  intro s hsv hwdog
  have hexec : exec .rtt s = .next s.resumeRecord := by
    change execRtt s = _
    rw [execRtt, hsv, hwdog]
    rfl
  rw [hexec, State.resumeRecord, replayOf_eq]

/-! ### The verbs of the drover -/

/-- Ending a stall's watch leaves everything but the jobs. -/
theorem unstall_cases {s : State} {p : State → Prop} (hsame : p s) (hjob : ∀ n j, p (s.setJob n j)) (g : CellId) :
    p (s.unstall g) := by
  rw [State.unstall]
  split
  · split
    · exact hjob _ _
    · exact hsame
  · exact hsame

@[simp] theorem unstall_strandAt (s : State) (g h : CellId) (k : StrandId) :
    (s.unstall g).strandAt h k = s.strandAt h k :=
  unstall_cases (p := fun t => t.strandAt h k = s.strandAt h k) rfl (fun _ _ => rfl) g
@[simp] theorem unstall_mem (s : State) (g : CellId) : (s.unstall g).mem = s.mem :=
  unstall_cases (p := fun t => t.mem = s.mem) rfl (fun _ _ => rfl) g
@[simp] theorem unstall_drained (s : State) (g h : CellId) (k : StrandId) :
    ((s.unstall g).at h k).drained = (s.at h k).drained :=
  unstall_cases (p := fun t => (t.at h k).drained = (s.at h k).drained) rfl (fun _ _ => rfl) g

/-- The record that a verb puts in. -/
abbrev Rec := Option (Word × Word × Word × Word)

/-- The state in which a verb acts: its strand is current, with the record put in. -/
def verbed (s : State) (g : CellId) (k : StrandId) (w : Rec) : State :=
  ((s.unstall g).at g k).setMe ((s.strandAt g k).replaceRecord w)

theorem verb_eq (s : State) (g : CellId) (k : StrandId) (w : Rec) (f : State → State) :
    s.verb g k w f = (f (verbed s g k w)).at s.curCell s.curStrand := by
  have hcur : (s.unstall g).curCell = s.curCell ∧ (s.unstall g).curStrand = s.curStrand :=
    unstall_cases (p := fun t => t.curCell = s.curCell ∧ t.curStrand = s.curStrand) ⟨rfl, rfl⟩ (fun _ _ => ⟨rfl, rfl⟩) g
  rw [State.verb, State.on, hcur.1, hcur.2, me_at, unstall_strandAt, verbed]

@[simp] theorem verbed_me (s : State) (g : CellId) (k : StrandId) (w : Rec) :
    (verbed s g k w).me = (s.strandAt g k).replaceRecord w := by rw [verbed, State.me_setMe]
@[simp] theorem verbed_mem (s : State) (g : CellId) (k : StrandId) (w : Rec) : (verbed s g k w).mem = s.mem := by
  rw [verbed, State.setMe_mem, State.at_mem, unstall_mem]
@[simp] theorem verbed_curCell (s : State) (g : CellId) (k : StrandId) (w : Rec) : (verbed s g k w).curCell = g := rfl
@[simp] theorem verbed_curStrand (s : State) (g : CellId) (k : StrandId) (w : Rec) : (verbed s g k w).curStrand = k := rfl

/-- What a verb's action leaves of its strand. -/
theorem strandAt_of_me {u : State} {g : CellId} {k : StrandId} (hg : u.curCell = g) (hk : u.curStrand = k) (h : CellId)
    (j : StrandId) : (u.at h j).strandAt g k = u.me := by
  rw [strandAt_at, State.me, hg, hk]

theorem replaceRecord_firing (t : Strand) (w : Rec) : (t.replaceRecord w).firing = t.firing := by
  cases w <;> rfl

theorem steppedBusy_congr {s t : State} (hpending : t.pending = s.pending) (hcell : t.curCell = s.curCell)
    (hstrand : t.curStrand = s.curStrand) (hfid : t.me.fid = s.me.fid) : t.steppedBusy = s.steppedBusy := by
  rw [State.steppedBusy.eq_1, State.steppedBusy.eq_1, hpending, hcell, hstrand, hfid]

/-- The record alone does not tell whether anything is outstanding. -/
theorem verbed_drained (s : State) (g : CellId) (k : StrandId) : (verbed s g k none).drained = (s.at g k).drained := by
  rw [← unstall_drained s g g k, verbed]
  have hstepped : (((s.unstall g).at g k).setMe (s.strandAt g k)).steppedBusy = ((s.unstall g).at g k).steppedBusy :=
    steppedBusy_congr rfl rfl rfl (by rw [State.me_setMe, me_at, unstall_strandAt])
  simp only [State.drained, State.engineBusy, State.storesOut, State.me_setMe, State.cell_setMe,
    me_at, unstall_strandAt, Strand.replaceRecord, State.setMe_curStrand, hstepped]
  rfl

theorem resumeRecord_me (s : State) : s.resumeRecord.me =
    { s.me.setSv false with
      pc := (s.me.dw 59).toNat % 2 ^ 19, buf := [], replay := some s.me.replayOf, run := .issuing } := State.me_setMe _ _

theorem resumeRecord_mem (s : State) : s.resumeRecord.mem = s.mem := rfl

section Awaiting

variable {s : State} {g : CellId} {k : StrandId} {kind : Nat} {tr : Option Trap}

theorem exec_resume_of_awaiting (hrun : (s.strandAt g k).run = .awaiting kind tr)
    (hafter : (s.strandAt g k).afterWatchdog = false) (w : Rec) :
    exec (.resume g k w) s = .next ((verbed s g k w).resumeRecord.at s.curCell s.curStrand) := by
  change execResume g k w s = _
  rw [execResume]
  simp only [Strand.awaited, hrun, hafter, verb_eq, Bool.false_eq_true, if_false]

theorem exec_deliver_of_awaiting {x : Trap} (hrun : (s.strandAt g k).run = .awaiting 1 (some x)) (w : Rec) :
    exec (.deliver g k w) s = .next (((verbed s g k w).deliverTrap x.cause).at s.curCell s.curStrand) := by
  change execDeliver g k w s = _
  rw [execDeliver]
  simp only [Strand.awaited, hrun, verb_eq]

theorem exec_endfiring_of_awaiting (hrun : (s.strandAt g k).run = .awaiting kind tr) (w : Rec) :
    exec (.endfiring g k w) s = .next ((verbed s g k w).endDrained.at s.curCell s.curStrand) := by
  change execEndfiring g k w s = _
  rw [execEndfiring]
  simp only [Strand.awaited, hrun, verb_eq]

/-- The strand that a resumption leaves. -/
theorem resumed_strandAt (w : Rec) : ((verbed s g k w).resumeRecord.at s.curCell s.curStrand).strandAt g k =
    (verbed s g k w).resumeRecord.me := strandAt_of_me rfl rfl _ _

theorem resumes_without_record (hrun : (s.strandAt g k).run = .awaiting kind tr)
    (hafter : (s.strandAt g k).afterWatchdog = false) : ∃ t, exec (.resume g k none) s = .next t ∧ t.mem = s.mem ∧
      (t.strandAt g k).run = .issuing ∧ (t.strandAt g k).sv = false ∧
      (t.strandAt g k).pc = (s.strandAt g k).ws[59].toNat % 2 ^ 19 := by
  refine ⟨_, exec_resume_of_awaiting hrun hafter none, ?_, ?_, ?_, ?_⟩
  · rw [State.at_mem, resumeRecord_mem, verbed_mem]
  · rw [resumed_strandAt, resumeRecord_me]
  · rw [resumed_strandAt, resumeRecord_me]
    exact sv_setSv _ false
  · rw [resumed_strandAt, resumeRecord_me, verbed_me]
    rfl

theorem resumes_with_record (hrun : (s.strandAt g k).run = .awaiting kind tr)
    (hafter : (s.strandAt g k).afterWatchdog = false) (c p v a : Word) :
    ∃ t, exec (.resume g k (some (c, p, v, a))) s = .next t ∧ t.mem = s.mem ∧ (t.strandAt g k).run = .issuing ∧
      (t.strandAt g k).pc = p.toNat % 2 ^ 19 ∧ (t.strandAt g k).ws[60] = v ∧ (t.strandAt g k).ws[61] = a := by
  refine ⟨_, exec_resume_of_awaiting hrun hafter (some (c, p, v, a)), ?_, ?_, ?_, ?_, ?_⟩
  · rw [State.at_mem, resumeRecord_mem, verbed_mem]
  · rw [resumed_strandAt, resumeRecord_me]
  · have hpc : p.toNat &&& 0x7FFFF = p.toNat % 2 ^ 19 := Nat.and_two_pow_sub_one_eq_mod _ 19
    rw [resumed_strandAt, resumeRecord_me, verbed_me]
    simp [Strand.replaceRecord, Strand.setRecord, Strand.dw, hpc]
  · rw [resumed_strandAt, resumeRecord_me, verbed_me]
    simp [Strand.replaceRecord, Strand.setRecord, Strand.setSv, Strand.setStatus]
  · rw [resumed_strandAt, resumeRecord_me, verbed_me]
    simp [Strand.replaceRecord, Strand.setRecord, Strand.setSv, Strand.setStatus]

/-- The strand that enters its handler. -/
def handed (t : Strand) (f : Firing) : Strand := { t.setSv true with pc := f.trapEnt, run := .issuing, buf := [] }

theorem delivers {f : Firing} {x : Trap} (hrun : (s.strandAt g k).run = .awaiting 1 (some x))
    (hf : (s.strandAt g k).firing = some f) (hwdog : x.cause ≠ .watchdog) (hent : f.trapEnt ≠ 0)
    (hsv : (s.strandAt g k).sv = false) : ∃ t, exec (.deliver g k none) s = .next t ∧ t.mem = s.mem ∧
      (t.strandAt g k).run = .issuing ∧ (t.strandAt g k).sv = true ∧ (t.strandAt g k).pc = f.trapEnt := by
  have hdeliver := deliverTrap_of_handler (s := verbed s g k none) (f := f) (by rw [verbed_me]; exact hf) hent
    (by rw [verbed_me]; exact hsv) hwdog
  have hme : ((verbed s g k none).deliverTrap x.cause).strandAt g k = handed (s.strandAt g k) f := by
    rw [hdeliver, verbed_me]
    exact State.me_setMe (verbed s g k none) (handed (s.strandAt g k) f)
  refine ⟨_, exec_deliver_of_awaiting hrun none, ?_⟩
  rw [State.at_mem, strandAt_at, hme]
  exact ⟨by rw [hdeliver, State.setMe_mem, verbed_mem], rfl, sv_setSv _ _, rfl⟩

theorem ends_drained {f : Firing} (hrun : (s.strandAt g k).run = .awaiting kind tr)
    (hf : (s.strandAt g k).firing = some f) (hord : f.task = false) (hdrained : (s.at g k).drained = true) :
    ∃ t, exec (.endfiring g k none) s = .next t ∧ (t.strandAt g k).run = .leaving ∧ (t.strandAt g k).firing = none ∧
      Instr.strandFree g k ∈ t.pending := by
  have hf' : (verbed s g k none).me.firing = some f := by rw [verbed_me]; exact hf
  let cause := some (((verbed s g k none).me.dw 58).toNat % 64)
  have hend : (verbed s g k none).endDrained = (verbed s g k none).endFiring cause false := by
    rw [State.endDrained, verbed_drained, hdrained]
    rfl
  have hended : ((verbed s g k none).endFiring cause false).strandAt g k = leaving (unstreamed (verbed s g k none).me) :=
    endFiring_strandAt hf' hord cause false
  refine ⟨_, exec_endfiring_of_awaiting hrun none, ?_⟩
  rw [hend, strandAt_at, hended]
  exact ⟨rfl, rfl, endFiring_strandFree hf' hord cause false⟩

/-- The state of a strand that drains before its firing ends. -/
def draining (s : State) (g : CellId) (k : StrandId) : State :=
  ((verbed s g k none).setMe { s.strandAt g k with run := .ending }).stillPending (.parkedStrandResume g k)

theorem draining_strandAt (h : CellId) (j : StrandId) :
    ((draining s g k).at h j).strandAt g k = { s.strandAt g k with run := .ending } := by
  have hme : (draining s g k).me = { s.strandAt g k with run := .ending } := by
    rw [draining, State.me_stillPending]
    exact State.me_setMe _ _
  have hg : (draining s g k).curCell = g := by rw [draining, stillPending_curCell]; rfl
  have hk : (draining s g k).curStrand = k := by rw [draining, stillPending_curStrand]; rfl
  rw [strandAt_of_me hg hk, hme]

theorem awaits_draining (hrun : (s.strandAt g k).run = .awaiting kind tr) (hdrained : (s.at g k).drained = false) :
    ∃ t, exec (.endfiring g k none) s = .next t ∧ (t.strandAt g k).run = .ending ∧ t.mem = s.mem ∧
      Instr.parkedStrandResume g k ∈ t.pending ∧ exec (.resume g k none) t = .next (t.badVerb g k 1) ∧
      exec (.deliver g k none) t = .next (t.badVerb g k 2) := by
  have hend : (verbed s g k none).endDrained = draining s g k := by
    rw [State.endDrained, verbed_drained, hdrained, verbed_me]
    rfl
  have hexec : exec (.endfiring g k none) s = .next ((draining s g k).at s.curCell s.curStrand) := by
    rw [exec_endfiring_of_awaiting hrun none, hend]
  refine ⟨_, hexec, by rw [draining_strandAt], ?_, mem_stillPending _ _, ?_, ?_⟩
  · rw [State.at_mem, draining, stillPending_mem, State.setMe_mem, verbed_mem]
  · change execResume _ _ _ _ = _
    rw [execResume, draining_strandAt]
    rfl
  · change execDeliver _ _ _ _ = _
    rw [execDeliver, draining_strandAt]
    rfl

end Awaiting

theorem droverVerbs : Claims.DroverVerbs := by
  intro s g k kind tr f hrun hf
  refine ⟨resumes_without_record hrun, fun c p v a hafter => resumes_with_record hrun hafter c p v a, ?_, ends_drained hrun hf,
    awaits_draining hrun⟩
  rintro x rfl rfl hwdog hent hsv
  exact delivers hrun hf hwdog hent hsv

/-- Settles O28: `RTT` goes back by the record, and so does a strand that the drover resumes. -/
theorem trapsReturn : Obligations.TrapsReturn := by
  unfold Obligations.TrapsReturn
  exact ⟨returnFromTrap, droverVerbs⟩

end Sys2Proof.Proofs

/-! Accumulators, and the retirement of an engine's instruction (R80, R177, R210, R211). -/

namespace Sys2Proof.Proofs

open Sys2Proof.Machine

set_option Elab.async false

/-! ### An entry retires without a trap -/

/-- The state once an entry alone in its queue has left it with its flags. -/
def engineRetired (s : State) (g : CellId) (e : Eng) (en : EngEntry) (fl : Flags) : State :=
  (((s.setCell g ((s.cellAt g).dropEntry e en.id)).at g en.strand).setMe
    { (s.strandAt g en.strand).raiseFlags fl with shadow := none }).at s.curCell s.curStrand

theorem dropEntry_strands (c : Cell) (e : Eng) (n : Nat) : (c.dropEntry e n).strands = c.strands := by
  cases e <;> rfl

theorem dropEntry_queue (c : Cell) (e : Eng) (n : Nat) :
    (c.dropEntry e n).queue e = (c.queue e).filter fun x => x.id != n := by
  cases e <;> rfl

/-- The entry of a firing that is still there, alone in its queue, with its strand in its shadow and nothing else there. -/
structure Retires (s : State) (g : CellId) (e : Eng) (en : EngEntry) : Prop where
  alone : ∃ x, (s.cellAt g).queue e = [x] ∧ x.id = en.id
  firing : ∃ f, (s.strandAt g en.strand).firing = some f ∧ f.fid = en.fid
  shadow : ∃ sh, (s.strandAt g en.strand).shadow = some sh ∧ sh.entry = en.id
  longs : (s.strandAt g en.strand).longs = []
  held : (s.strandAt g en.strand).held = none

theorem Retires.of_performing {s : State} {g : CellId} {e : Eng} {en : EngEntry} (h : s.Performing g e en) :
    Retires s g e en := by
  obtain ⟨hq, -, -, -, -, -, -, hf, hsh, hl, hh⟩ := h
  exact ⟨⟨en, hq, rfl⟩, hf, hsh, hl, hh⟩

/-- What the performing of an entry may change of its cell: neither the queue nor a strand. -/
theorem Retires.congr {s t : State} {g : CellId} {e : Eng} {en : EngEntry} (h : Retires s g e en)
    (hq : (t.cellAt g).queue e = (s.cellAt g).queue e) (hs : (t.cellAt g).strands = (s.cellAt g).strands) :
    Retires t g e en := by
  have hstrand : t.strandAt g en.strand = s.strandAt g en.strand := by rw [State.strandAt, hs, State.strandAt]
  obtain ⟨ha, hf, hsh, hl, hh⟩ := h
  exact ⟨hq ▸ ha, hstrand ▸ hf, hstrand ▸ hsh, hstrand ▸ hl, hstrand ▸ hh⟩

theorem dropped_strandAt (s : State) (g : CellId) (e : Eng) (n : Nat) (k : StrandId) :
    (s.setCell g ((s.cellAt g).dropEntry e n)).strandAt g k = s.strandAt g k := by
  rw [State.strandAt, State.cellAt_setCell, dropEntry_strands, State.strandAt]

theorem engineFinish_of_shadow {s : State} {en : EngEntry} (hsh : ∃ sh, s.me.shadow = some sh ∧ sh.entry = en.id)
    (hl : s.me.longs = []) (hh : s.me.held = none) (fl : Flags) :
    s.engineFinish en fl none = s.setMe { s.me.raiseFlags fl with shadow := none } := by
  obtain ⟨sh, hsh, hid⟩ := hsh
  have hshadow : (s.me.raiseFlags fl).shadow = some sh := hsh
  simp only [State.engineFinish, hshadow, hid, if_true]
  exact State.settle_setMe s _ hl hh

theorem engineDone_of_retires {s : State} {g : CellId} {e : Eng} {en : EngEntry} (h : Retires s g e en) (fl : Flags) :
    s.engineDone g e en fl none = engineRetired s g e en fl := by
  obtain ⟨⟨x, hq, hid⟩, ⟨f, hf, hfid⟩, hsh, hl, hh⟩ := h
  have hempty : ((s.setCell g ((s.cellAt g).dropEntry e en.id)).cellAt g).queue e = [] := by
    rw [State.cellAt_setCell, dropEntry_queue, hq]
    simp [hid]
  have hstrand := dropped_strandAt s g e en.id en.strand
  have hfinish := engineFinish_of_shadow (s := (s.setCell g ((s.cellAt g).dropEntry e en.id)).at g en.strand) (en := en)
    (by rw [me_at, hstrand]; exact hsh) (by rw [me_at, hstrand]; exact hl) (by rw [me_at, hstrand]; exact hh) fl
  rw [me_at, hstrand] at hfinish
  simp only [State.engineDone, hempty, hstrand, hf, Option.map_none, Option.map_some, hfid, beq_self_eq_true, if_true]
  rw [State.on, hfinish, engineRetired]
  rfl

@[simp] theorem engineRetired_mem (s : State) (g : CellId) (e : Eng) (en : EngEntry) (fl : Flags) :
    (engineRetired s g e en fl).mem = s.mem := rfl
@[simp] theorem engineRetired_zov (s : State) (g : CellId) (e : Eng) (en : EngEntry) (fl : Flags) :
    (engineRetired s g e en fl).zov = s.zov := rfl

theorem startedEntry_of_performing {s : State} {g : CellId} {e : Eng} {en : EngEntry} (h : s.Performing g e en)
    (hcopy : e = .forager → en.instr.isCopy = false) : s.startedEntry g e = some en := by
  obtain ⟨hq, hstarted, -⟩ := h
  cases e <;> simp_all [State.startedEntry]

/-- The SCE performs the entry that it has started. -/
theorem exec_retire_sce {s : State} {g : CellId} {en : EngEntry} (h : s.Performing g .sce en) :
    exec (.engineInstructionRetire g .sce) s = .next (s.sceRetire g en) := by
  have hstarted := startedEntry_of_performing h (by simp)
  obtain ⟨-, -, hz, hzero, -⟩ := h
  change execEngineInstructionRetire g .sce s = _
  rw [execEngineInstructionRetire, hstarted]
  simp [hz, hzero]

/-! ### Accumulators -/

@[simp] theorem setZ_zov (s : State) (g : CellId) (i v : Nat) : (s.setZ g i v).zov = s.zov := rfl
@[simp] theorem setZov_mem (s : State) (g : CellId) (i : Nat) (b : Bool) : (s.setZov g i b).mem = s.mem := rfl

theorem zovAt_setZov_false (s : State) (g h : CellId) (i j : Nat) :
    (s.setZov g i false).zovAt h j = (s.zovAt h j && decide (zAddr h j / 8 ≠ zAddr g i / 8)) := by
  rw [State.zovAt, State.setZov, State.zovAt, del]
  rw [Bool.eq_iff_iff]
  simp

theorem zovAt_of_zov {s t : State} (h : t.zov = s.zov) (g : CellId) (i : Nat) : t.zovAt g i = s.zovAt g i := by
  rw [State.zovAt, h, State.zovAt]

/-- A bit that is clear stays clear. -/
theorem zovAt_clearZ_of_clear {g : CellId} {j : Nat} (n : Nat) : ∀ (s : State) (i : Nat), s.zovAt g j = false →
    (s.clearZ g i n).zovAt g j = false := by
  induction n with
  | zero => exact fun s i h => h
  | succ n ih =>
    intro s i h
    refine ih _ (i + 1) ?_
    rw [zovAt_setZov_false, zovAt_of_zov (setZ_zov ..), h, Bool.false_and]

/-- `ZCLR` changes no byte but those of its accumulators. -/
theorem byte_clearZ_other {g : CellId} {c : Nat} (n : Nat) : ∀ (s : State) (i : Nat), Memory.wf s.mem = true →
    (c < zAddr g i ∨ zAddr g (i + n) ≤ c) → (s.clearZ g i n).byte c = s.byte c := by
  induction n with
  | zero => exact fun s i _ _ => rfl
  | succ n ih =>
    intro s i hwf hc
    have hwf' : Memory.wf ((s.setZ g i 0).setZov g i false).mem = true := write_wf hwf _ _ _
    have hrest := ih _ (i + 1) hwf' (by rw [zAddr] at hc ⊢; rw [zAddr] at hc ⊢; omega)
    refine hrest.trans ?_
    refine (byte_of_mem (setZov_mem ..) c).trans (byte_writeBytes_other hwf ?_)
    rw [toBytes_length]
    rw [zAddr, zAddr] at hc
    rw [zAddr]
    omega

theorem clearZ_clears {g : CellId} (n : Nat) : ∀ (s : State) (i k : Nat), Memory.wf s.mem = true → k < n →
    (s.clearZ g i n).read (zAddr g (i + k)) 8 = 0 ∧ (s.clearZ g i n).zovAt g (i + k) = false := by
  induction n with
  | zero => exact fun s i k _ hk => absurd hk (Nat.not_lt_zero k)
  | succ n ih =>
    intro s i k hwf hk
    have hwf' : Memory.wf ((s.setZ g i 0).setZov g i false).mem = true := write_wf hwf _ _ _
    cases k with
    | zero =>
      constructor
      · have hkeep : ∀ b, b < 8 → (s.clearZ g i (n + 1)).byte (zAddr g i + b) = (s.setZ g i 0).byte (zAddr g i + b) :=
          fun b hb => (byte_clearZ_other n _ (i + 1) hwf' (.inl (by rw [zAddr, zAddr]; omega))).trans
            (byte_of_mem (setZov_mem ..) _)
        refine (read_congr hkeep).trans ?_
        rw [State.setZ, State.read_write _ _ _ _ hwf]
        rfl
      · refine zovAt_clearZ_of_clear n _ (i + 1) ?_
        rw [zovAt_setZov_false]
        simp
    | succ k =>
      have hnext := ih _ (i + 1) k hwf' (Nat.lt_of_succ_lt_succ hk)
      rw [show i + (k + 1) = i + 1 + k by omega]
      exact hnext

theorem accumulatorAccess : Claims.AccumulatorAccess := by
  intro s d a b hq hwaits hlt hwf
  have hfree : (s.zWaits || s.acquireWaits) = false := by simp [hwaits, State.acquireWaits, hq.1]
  have hbelow : ¬ 16384 ≤ (s.w a).toNat := by omega
  constructor
  · intro hmark
    change execZld d a s = _
    rw [execZld]
    simp only [hfree, hbelow, hmark, Bool.false_eq_true, if_false]
    rw [s.resultCf_quiet hq]
    rfl
  · let u := (s.setZ s.curCell (s.w a).toNat (s.w b).toNat).setZov s.curCell (s.w a).toNat false
    have hexec : exec (.zst a b) s = .next (u.advance s.me.ws) := by
      change execZst a b s = _
      rw [execZst]
      simp only [hfree, hbelow, Bool.false_eq_true, if_false]
      exact congrArg _ (u.retire_quiet hq)
    refine ⟨_, hexec, ?_, ?_, ?_, ?_, fun c hc => ?_⟩
    · rw [State.advance, State.me_setMe]
    · rw [State.advance, State.me_setMe]; rfl
    · refine (State.read_write s _ _ _ hwf).trans (Nat.mod_eq_of_lt ?_)
      exact (s.w b).isLt
    · refine (zovAt_setZov_false ..).trans ?_
      simp
    · refine byte_writeBytes_other hwf ?_
      rwa [toBytes_length]

theorem accumulatorsCleared : Claims.AccumulatorsCleared := by
  intro s g en a b i n hperf hinstr hregs _ hwf
  let u := (s.clearZ g i.toNat (zclrCount n)).count g 1 (max 1 ((zclrCount n + 7) / 8))
  have hcell : ∀ (m j : Nat) (v : State), (v.clearZ g j m).cells = v.cells := by
    intro m
    induction m with
    | zero => exact fun _ _ => rfl
    | succ m ih => exact fun j v => ih (j + 1) _
  have hretires : Retires u g .sce en := by
    refine (Retires.of_performing hperf).congr ?_ ?_
    · change ((State.setCell _ _ _).cellAt g).queue .sce = _
      rw [State.cellAt_setCell, State.cellAt, hcell, State.cellAt]
      rfl
    · change ((State.setCell _ _ _).cellAt g).strands = _
      rw [State.cellAt_setCell, State.cellAt, hcell, State.cellAt]
  have hdone : en.done = 0 := by
    obtain ⟨-, -, -, -, hdone, -⟩ := hperf
    exact hdone
  have hretire : s.sceRetire g en = u.engineDone g .sce en 0 none := by
    rw [State.sceRetire, hinstr]
    simp [EngEntry.reg, hregs, hdone, u]
  have hmem : (engineRetired u g .sce en 0).mem = (s.clearZ g i.toNat (zclrCount n)).mem := rfl
  have hzov : (engineRetired u g .sce en 0).zov = (s.clearZ g i.toNat (zclrCount n)).zov := rfl
  refine ⟨_, (exec_retire_sce hperf).trans (by rw [hretire, engineDone_of_retires hretires]), fun k hk => ?_, fun c hc => ?_⟩
  · obtain ⟨hread, hclear⟩ := clearZ_clears (g := g) _ s i.toNat k hwf hk
    rw [read_of_mem hmem, zovAt_of_zov hzov]
    exact ⟨hread, hclear⟩
  · rw [byte_of_mem hmem]
    exact byte_clearZ_other _ s i.toNat hwf hc

/-- Settles O42: an accumulator is read and written whole, and `ZCLR` clears the ones that it names. -/
theorem accumulatorsAccessed : Obligations.AccumulatorsAccessed := by
  unfold Obligations.AccumulatorsAccessed
  exact ⟨accumulatorAccess, accumulatorsCleared⟩

end Sys2Proof.Proofs

/-! Engine instructions of a firing whose strand has not issued yet: its workspace is not bound when the instruction
issues, and is bound from then on (R14, R311). An operand in that workspace is open at issue and closed to the engine when
it is performed (R16, R148), so that the instruction traps. The statements on completion do not ask for an issuing strand. -/

namespace Sys2Proof.Proofs

open Sys2Proof.Machine

set_option Elab.async false

/-- A firing without a handler. -/
def plainFiring : Firing := ⟨0, 0, false, 3, 0, 0, 0, 0, 1, 0, 0, 0, 0, 0, 0, 0, 0, 0, false, 0⟩

/-- A strand that holds a firing and is free, with its workspace at 0; VL is 1, `p1` is 1, and `w1` says one accumulator. -/
def unboundStrand : Strand :=
  { Strand.reset with
    firing := some plainFiring
    ws := ((Strand.reset.ws.set 1 0x10000).set 33 1).set 53 1 }

/-- The apiary at reset with that strand current. -/
def unboundIn (c : Cell) : State := { State.reset with cells := [(0, c.setStrand 0 unboundStrand)] }

/-- The strand issues. -/
def isIssuing : Run → Bool
  | .issuing => true
  | _ => false

/-- Whether the strand issues after an instruction and what follows it. -/
def endsIssuing (s : State) (i : Instr) (l : List Instr) : Option Bool :=
  match exec i s with
  | .next u => (u.after l).map fun t => isIssuing t.me.run
  | _ => none

theorem not_retired_of_endsIssuing {s : State} {i : Instr} {l : List Instr} (h : endsIssuing s i l = some false)
    {u t : State} {e : Eng} {ws : Vector Word 64} (hu : exec i s = .next u) (ht : u.after l = some t) :
    ¬ s.Retired t e ws := by
  rintro ⟨-, -, -, hrun, -⟩
  simp [endsIssuing, hu, ht, hrun, isIssuing] at h

/-- Nothing of a cell with free strands and serving banks is closed. -/
theorem tcmOpen_of_unbound {c : Cell} (hstrands : c.strands = Cell.reset.strands) (hbanks : c.banks = Cell.reset.banks) :
    (unboundIn c).TcmOpen 0 := by
  refine ⟨rfl, fun a n _ => ?_⟩
  have hbound : (unboundStrand).bound = false ∧ Strand.reset.bound = false := ⟨rfl, rfl⟩
  have hlist : ((unboundIn c).cellAt 0).strands.toList = [unboundStrand, Strand.reset, Strand.reset, Strand.reset] := by
    change (c.strands.set 0 unboundStrand).toList = _
    rw [hstrands]
    rfl
  have hserve : ((unboundIn c).cellAt 0).banks = Vector.replicate 4 ⟨.on, 0⟩ := by
    change c.banks = _
    rw [hbanks]
    rfl
  simp [Cell.closed, Cell.meetsBound, Cell.meetsGated, hlist, hserve, Strand.overlaps, hbound]

/-! ### Vector instructions -/

def vandBytes : Instr := .vand .uint8 ⟨0, false⟩ ⟨1, false⟩ ⟨1, false⟩

theorem vandBytes_ends : endsIssuing (unboundIn Cell.reset) vandBytes ((unboundIn Cell.reset).engineSteps .vu) = some false := by
  decide

/-- Refutes O43: the workspace of the strand, at 0, is bound once the instruction has issued. -/
theorem not_vectorInstructionsComplete : ¬ Obligations.VectorInstructionsComplete := by
  unfold Obligations.VectorInstructionsComplete
  rintro ⟨hlanes, -, -⟩
  obtain ⟨u, t, hu, ht, -, -, hretired⟩ := hlanes vandBytes (unboundIn Cell.reset) .uint8 (fun a b => (a &&& b, 0)) 0 1 1 1
    (by unfold State.EngineFree; decide) rfl rfl Nat.one_pos rfl rfl (tcmOpen_of_unbound rfl rfl)
    ⟨rfl, by decide⟩ ⟨rfl, by decide⟩ ⟨rfl, by decide⟩ (.inl (by decide)) (.inl (by decide)) rfl
  exact not_retired_of_endsIssuing vandBytes_ends hu ht hretired

/-! ### A conversion of one accumulator -/

def zcvtByte : Instr := .zcvt .int8 .rne false 0 1 0

theorem zcvtByte_ends : endsIssuing (unboundIn Cell.reset) zcvtByte ((unboundIn Cell.reset).engineSteps .sce) = some false := by
  decide

/-- Refutes O44: the element of `ZCVT` lies in the strand's workspace. -/
theorem not_matrixInstructionsComplete : ¬ Obligations.MatrixInstructionsComplete := by
  unfold Obligations.MatrixInstructionsComplete
  rintro ⟨-, -, hconverts⟩
  obtain ⟨u, t, hu, ht, -, -, -, hretired⟩ := hconverts (unboundIn Cell.reset) .int8 .rne false 0 1 0 1
    (by unfold State.EngineFree; decide) (tcmOpen_of_unbound rfl rfl) (by decide) rfl Nat.one_pos (by decide) (by decide)
    (by decide) (by decide) rfl
  exact not_retired_of_endsIssuing zcvtByte_ends hu ht hretired

/-! ### A flush of one element -/

/-- A channel of one element, with its S array at 0. -/
def oneElement : Channel := ⟨[0, 0, 0x10000, 0], 0, 0, 0⟩

/-- The cell with that channel. -/
def flushingCell : Cell := { Cell.reset with chans := [(0, oneElement)] }

theorem sdflush_ends : endsIssuing (unboundIn flushingCell) (.sdflush 0) ((unboundIn flushingCell).engineSteps .sdu) =
    some false := by
  decide

/-- Refutes O45: the element of S lies in the strand's workspace. -/
theorem not_deltaInstructionsComplete : ¬ Obligations.DeltaInstructionsComplete := by
  unfold Obligations.DeltaInstructionsComplete
  rintro ⟨-, hscan⟩
  obtain ⟨hquiet, -⟩ := hscan (unboundIn flushingCell) (.sdflush 0) 0 0 oneElement 0 1 (by unfold State.EngineFree; decide)
    (tcmOpen_of_unbound rfl rfl) (.inr ⟨rfl, rfl, rfl, by decide⟩) (by decide) rfl (by decide) rfl (by decide)
  obtain ⟨u, t, hu, ht, -, -, hretired⟩ := hquiet (by decide)
  exact not_retired_of_endsIssuing sdflush_ends hu ht hretired

/-! ### A row consumed to TCM -/

/-- The cell with row 0 of bank 1 open in port 0. -/
def openRowCell : Cell := { Cell.reset with ports := Cell.reset.ports.set 0 ⟨.open, 1, 0, 0, false, [], 0⟩ }

theorem fconsM_ends : endsIssuing (unboundIn openRowCell) (.fconsM 0 0) ((unboundIn openRowCell).engineSteps .forager) =
    some false := by
  decide

/-- Refutes O46: the row goes to the strand's workspace. -/
theorem not_foragerInstructionsComplete : ¬ Obligations.ForagerInstructionsComplete := by
  unfold Obligations.ForagerInstructionsComplete
  rintro ⟨-, hframes⟩
  obtain ⟨-, hopen⟩ := hframes (unboundIn openRowCell) 0 0 (by unfold State.EngineFree; decide)
  obtain ⟨-, -, htcm, -⟩ := hopen (by unfold State.RowOpen; decide) (tcmOpen_of_unbound rfl rfl) rfl
  obtain ⟨⟨u, t, hu, ht, -, -, hretired⟩, -⟩ := htcm (by decide) (by decide)
  exact not_retired_of_endsIssuing fconsM_ends hu ht hretired

end Sys2Proof.Proofs

/-! Copies: a block moves, a copy ends, a forwarded copy enters its list (R182-R187, R325). -/

namespace Sys2Proof.Proofs

open Sys2Proof.Machine

set_option Elab.async false

/-! ### Setting happenings going changes nothing else -/

/-- `t` is `s` with further happenings set going. -/
def Wakes (s t : State) : Prop := ∃ l, t = { s with pending := s.pending ++ l }

theorem Wakes.refl (s : State) : Wakes s s := ⟨[], by simp⟩

theorem Wakes.trans {s t u : State} (h : Wakes s t) (h' : Wakes t u) : Wakes s u := by
  obtain ⟨l, rfl⟩ := h
  obtain ⟨m, rfl⟩ := h'
  exact ⟨l ++ m, by simp⟩

theorem Wakes.push (s : State) (i : Instr) : Wakes s (s.push i) := ⟨[i], rfl⟩

theorem Wakes.stillPending (s : State) (i : Instr) : Wakes s (s.stillPending i) := by
  rw [State.stillPending]
  split
  · exact Wakes.refl s
  · exact Wakes.push s i

theorem Wakes.foldl {α : Type} {f : State → α → State} (hf : ∀ s x, Wakes s (f s x)) (l : List α) (s : State) :
    Wakes s (l.foldl f s) := by
  induction l generalizing s with
  | nil => exact Wakes.refl s
  | cons x l ih => exact (hf s x).trans (ih (f s x))

theorem Wakes.wakeParked (s : State) (g : CellId) (p : Instr → Bool) : Wakes s (s.wakeParked g p) := by
  refine Wakes.foldl (fun u k => ?_) _ s
  split
  · split
    · exact Wakes.stillPending _ _
    · exact Wakes.refl _
  · exact Wakes.refl _

theorem Wakes.foragerNext (s : State) (g : CellId) : Wakes s (s.foragerNext g) := by
  rw [State.foragerNext]
  split
  · exact Wakes.stillPending _ _
  · exact Wakes.refl _

section Wakes

variable {s t : State} (h : Wakes s t)
include h

theorem Wakes.mem : t.mem = s.mem := by obtain ⟨l, rfl⟩ := h; rfl
theorem Wakes.copies : t.copies = s.copies := by obtain ⟨l, rfl⟩ := h; rfl
theorem Wakes.hiveAt (n : Nat) : t.hiveAt n = s.hiveAt n := by obtain ⟨l, rfl⟩ := h; rfl
theorem Wakes.cellAt (g : CellId) : t.cellAt g = s.cellAt g := by obtain ⟨l, rfl⟩ := h; rfl
theorem Wakes.strandAt (g : CellId) (k : StrandId) : t.strandAt g k = s.strandAt g k := by obtain ⟨l, rfl⟩ := h; rfl
theorem Wakes.pending {i : Instr} (hi : i ∈ s.pending) : i ∈ t.pending := by
  obtain ⟨l, rfl⟩ := h
  exact List.mem_append_left _ hi

end Wakes

/-! ### The bytes that a copy reads -/

theorem toBytes_ofBytes (l : List Byte) {n : Nat} (hn : l.length = n) : toBytes (ofBytes l) n = l := by
  subst hn
  induction l with
  | nil => rfl
  | cons b l ih =>
    have hb := b.isLt
    rw [List.length_cons, ofBytes, toBytes, show (b.toNat + 256 * ofBytes l) / 256 = ofBytes l by omega, ih]
    congr 1
    refine BitVec.eq_of_toNat_eq ?_
    rw [BitVec.toNat_ofNat]
    omega

theorem bytes_add (m : List Host.Cell) (a n k : Nat) :
    Memory.bytes m a (n + k) = Memory.bytes m a n ++ Memory.bytes m (a + n) k := by
  induction n generalizing a with
  | zero => simp [Memory.bytes]
  | succ n ih => rw [show n + 1 + k = (n + k) + 1 by omega, Memory.bytes, ih, Memory.bytes, List.cons_append,
      show a + 1 + n = a + (n + 1) by omega]

theorem rangeMarked_of_unmarked {s : State} (h : s.marks = []) (a n : Nat) : s.rangeMarked a n = false := by
  rw [State.rangeMarked, h]; rfl

/-- A copy from TCM reads the bytes there, and wakes or uses the banks that it meets. -/
theorem copyRead_tcm {c : Copy} (hsrc : c.src < 0x80000) (n : Nat) : ∀ (s : State) (a : Nat), s.marks = [] →
    ∃ t, s.copyRead c a n = (.ok (Memory.bytes s.mem (tcmBase c.reader + a) (8 * n)), t) ∧ t.mem = s.mem ∧
      t.copies = s.copies := by
  induction n with
  | zero => exact fun s a _ => ⟨s, rfl, rfl, rfl⟩
  | succ n ih =>
    intro s a hmarks
    have htouch : (s.touch c.reader a).marks = [] := (touch_marks s c.reader a).trans hmarks
    obtain ⟨t, hread, hmem, hcopies⟩ := ih (s.touch c.reader a) (a + 8) htouch
    refine ⟨t, ?_, hmem.trans (touch_mem ..), hcopies.trans (touch_copies ..)⟩
    have hword : toBytes (ofBytes (Memory.bytes s.mem (tcmBase c.reader + a) 8)) 8 =
        Memory.bytes s.mem (tcmBase c.reader + a) 8 := toBytes_ofBytes _ (bytes_length _ _ _)
    simp only [State.copyRead, hsrc, if_true, State.performRead, rangeMarked_of_unmarked htouch, Bool.false_eq_true,
      if_false, hread, State.read, touch_mem, hword]
    rw [show 8 * (n + 1) = 8 + 8 * n by omega, bytes_add, Nat.add_assoc]

/-! ### A block -/

theorem copy?_of_only {s : State} {c : Copy} (h : s.copies = [c]) : s.copy? c.id = some c := by
  simp [State.copy?, h]

theorem copyBehind_of_only {s : State} {c : Copy} (h : s.copies = [c]) (p : CopyStage → Bool) :
    s.copyBehind c p = false := by
  simp [State.copyBehind, h]

theorem destFenced_of_open {s : State} {c : Copy} (h : s.destClosed c = false) : s.destFenced c = false := by
  rw [State.destClosed] at h
  rw [State.destFenced]
  split <;> simp_all

/-- Where the copy goes on after a block: to the next, or to its completion. -/
theorem copyStep_of_open {s u : State} {c : Copy} {g : CellId} {off n : Nat} {l : List Byte} (honly : s.copies = [c])
    (hstage : c.stage = .moving) (hproxied : c.proxied = false) (hdest : c.dest = .tcm g off)
    (hn : n = min (64 - c.pos % 64) (c.len - c.pos)) (hsrc : c.src < 0x80000) (hopen : s.destClosed c = false)
    (hheld : s.copyHeld c n = false) (hread : s.copyRead c (c.src + c.pos) (n / 8) = (.ok l, u)) :
    s.copyStep c.id 64 = if c.pos + n = c.len then
      ((u.count c.reader 3 n).copyWrite c l).copyWritten { c with pos := c.pos + n }
      else (((u.count c.reader 3 n).copyWrite c l).setCopy { c with pos := c.pos + n }).push (.copyBlockWrite c.id) := by
  have hstep : c.step 64 = n := by simp [Copy.step, hdest, hn]
  have hpage : s.copyPageWaits c (c.src + c.pos) n = false := by
    simp [State.copyPageWaits, Nat.not_le.2 hsrc]
  have hnofifo : (c.dest == .fifoA || c.dest == .fifoB) = false := by simp [hdest]
  rw [State.copyStep, copy?_of_only honly]
  simp only [hstep, hstage, hproxied, copyBehind_of_only honly, hheld, hpage, hopen, destFenced_of_open hopen, hnofifo, hread,
    bne_self_eq_false, Bool.false_and, Bool.and_false, Bool.or_self, Bool.false_eq_true, if_false]

theorem copyWritten_pending {s : State} {c : Copy} (h : c.proxied = false) :
    Instr.copyCompletion c.id ∈ (s.copyWritten c).pending ∧ (s.copyWritten c).mem = s.mem := by
  have hwakes := Wakes.foragerNext ((s.setCopy { c with stage := .written }).push (.copyCompletion c.id)) c.issuer
  have heq : s.copyWritten c =
      ((s.setCopy { c with stage := .written }).push (.copyCompletion c.id)).foragerNext c.issuer := by
    rw [State.copyWritten]
    exact if_neg (by simp [h])
  rw [heq]
  exact ⟨hwakes.pending (List.mem_append_right _ List.mem_cons_self), hwakes.mem⟩

theorem copyBlock : Claims.CopyBlock := by
  rintro s c en g off n ⟨honly, hstage, hproxied, -, -⟩ hdest - hn hpos hn8 hsrc hopen hheld hmarks hwf -
  obtain ⟨u, hread, hmem, -⟩ := copyRead_tcm (c := c) (by omega) (n / 8) s (c.src + c.pos) hmarks
  rw [show 8 * (n / 8) = n by omega, ← Nat.add_assoc] at hread
  have hstep := copyStep_of_open honly hstage hproxied hdest hn (by omega) hopen hheld hread
  have hwritten : ((u.count c.reader 3 n).copyWrite c (Memory.bytes s.mem (tcmBase c.reader + c.src + c.pos) n)).mem =
      (s.writeBytes (tcmBase g + off + c.pos) (Memory.bytes s.mem (tcmBase c.reader + c.src + c.pos) n)).mem := by
    have hcount : (u.count c.reader 3 n).mem = s.mem := hmem
    simp only [State.copyWrite, hdest, State.writeBytes, State.clearMarks, touch_mem, hcount]
  have hafter : ∃ t, exec (.copyBlockWrite c.id) s = .next t ∧ t.mem =
        (s.writeBytes (tcmBase g + off + c.pos) (Memory.bytes s.mem (tcmBase c.reader + c.src + c.pos) n)).mem ∧
      if c.pos + n = c.len then Instr.copyCompletion c.id ∈ t.pending else Instr.copyBlockWrite c.id ∈ t.pending := by
    refine ⟨_, congrArg Host.Outcome.next hstep, ?_⟩
    split
    · obtain ⟨hin, hkeep⟩ := copyWritten_pending (s := (u.count c.reader 3 n).copyWrite c
        (Memory.bytes s.mem (tcmBase c.reader + c.src + c.pos) n)) (c := { c with pos := c.pos + n }) hproxied
      exact ⟨hkeep.trans hwritten, hin⟩
    · exact ⟨hwritten, List.mem_append_right _ List.mem_cons_self⟩
  obtain ⟨t, hexec, hbytes, hnext⟩ := hafter
  refine ⟨t, hexec, fun k hk => ?_, fun a ha => ?_, hnext⟩
  · have hlen : k < (Memory.bytes s.mem (tcmBase c.reader + c.src + c.pos) n).length := by rwa [bytes_length]
    rw [byte_of_mem hbytes, byte_writeBytes hwf _ hlen, bytes_getElem]
    rfl
  · rw [byte_of_mem hbytes]
    exact byte_writeBytes_other hwf (by rwa [bytes_length])

/-! ### The completion and the retirement -/

theorem mail_of_room {s : State} {g : CellId} (hroom : (s.cellAt g).mailbox.length < 32)
    (hfront : ∀ x ∈ (s.hiveAt (hiveOf g)).waiting, x.input?.isSome = true ∨ x.dst ≠ g) (v : Word) :
    s.mail g v = (s.setCell g { s.cellAt g with mailbox := (s.cellAt g).mailbox ++ [v] }).wakeParked g Instr.isWaitm := by
  have hbehind : ((s.hiveAt (hiveOf g)).waiting.any fun x => x.input?.isNone && x.dst == g) = false := by
    rw [List.any_eq_false]
    intro x hx
    rcases hfront x hx with h | h
    · cases hi : x.input? <;> simp_all
    · simp [h]
  simp [State.mail, hbehind, hroom]

theorem copyCompletes {s : State} {c : Copy} {g : CellId} {off : Nat} (hdest : c.dest = .tcm g off) (honly : s.copies = [c])
    (hstage : c.stage = .written) (hmailed : copyNomb c.word = false) (hbar : c.bar = none)
    (hroom : (s.cellAt g).mailbox.length < 32)
    (hfront : ∀ x ∈ (s.hiveAt (hiveOf g)).waiting, x.input?.isSome = true ∨ x.dst ≠ g) :
    ∃ t, exec (.copyCompletion c.id) s = .next t ∧ t.mem = s.mem ∧
      (t.cellAt g).mailbox = (s.cellAt g).mailbox ++ [c.entryWord] ∧ Instr.copyRetirement c.id ∈ t.pending := by
  have hcell : c.destCell = g := by simp [Copy.destCell, hdest]
  have habsorbed : ((s.countAbsorbed g).hiveAt (hiveOf g)).waiting = (s.hiveAt (hiveOf g)).waiting := by
    rw [State.countAbsorbed, State.hiveAt_setHive]
  have hmail := mail_of_room (s := s.countAbsorbed g) (g := g) hroom (by rwa [habsorbed]) c.entryWord
  have hwakes := Wakes.wakeParked ((s.countAbsorbed g).setCell g
    { s.cellAt g with mailbox := (s.cellAt g).mailbox ++ [c.entryWord] }) g Instr.isWaitm
  have hexec : exec (.copyCompletion c.id) s = .next
      ((((s.countAbsorbed g).mail g c.entryWord).setCopy { c with stage := .completed }).push (.copyRetirement c.id)) := by
    change execCopyCompletion c.id s = _
    rw [execCopyCompletion, State.completion, copy?_of_only honly]
    simp [hstage, copyBehind_of_only honly, hmailed, hbar, hcell]
  refine ⟨_, hexec, ?_, ?_, List.mem_append_right _ List.mem_cons_self⟩
  · change ((s.countAbsorbed g).mail g c.entryWord).mem = _
    rw [hmail]
    exact hwakes.mem
  · change (((s.countAbsorbed g).mail g c.entryWord).cellAt g).mailbox = _
    rw [hmail]
    exact (congrArg Cell.mailbox (hwakes.cellAt g)).trans (by rw [State.cellAt_setCell])

theorem engineRetired_cellAt (s : State) (g : CellId) (e : Eng) (en : EngEntry) (fl : Flags) :
    (engineRetired s g e en fl).cellAt g = ((s.cellAt g).dropEntry e en.id).setStrand en.strand
      { (s.strandAt g en.strand).raiseFlags fl with shadow := none } := by
  change ((State.setMe _ _).cellAt g) = _
  have hcur : ((s.setCell g ((s.cellAt g).dropEntry e en.id)).at g en.strand).curCell = g := rfl
  rw [State.setMe_eq, State.setCur, hcur, State.cellAt_setCell, State.cell, hcur]
  change ((State.setCell _ _ _).cellAt g).setStrand _ _ = _
  rw [State.cellAt_setCell]
  rfl

theorem copyRetires {s : State} {c : Copy} {en : EngEntry} (hcopy : s.Copying c en .completed) :
    ∃ t, exec (.copyRetirement c.id) s = .next t ∧ t.mem = s.mem ∧ t.copies = [] ∧ (t.cellAt c.issuer).fgQ = [] ∧
      (t.strandAt c.issuer en.strand).shadow = none := by
  obtain ⟨honly, hstage, hproxied, hentry, hperf⟩ := hcopy
  have hretires := Retires.of_performing hperf
  obtain ⟨hq, -⟩ := hperf
  have hq' : (s.cellAt c.issuer).fgQ = [en] := hq
  let u : State := { s with copies := s.copies.filter fun o => o.id != c.id }
  have hdone := engineDone_of_retires (s := u) (hretires.congr (t := u) rfl rfl) 0
  have hcell := engineRetired_cellAt u c.issuer .forager en 0
  have hfg : ((engineRetired u c.issuer .forager en 0).cellAt c.issuer).fgQ = [] := by
    rw [hcell]
    change ((s.cellAt c.issuer).fgQ.filter fun x => x.id != en.id) = []
    simp [hq']
  have hexec : exec (.copyRetirement c.id) s = .next ((engineRetired u c.issuer .forager en 0).foragerNext c.issuer) := by
    change execCopyRetirement c.id s = _
    rw [execCopyRetirement, copy?_of_only honly, ← hdone]
    simp [hstage, State.copyEntry, hq', hentry, u]
  have hwakes := Wakes.foragerNext (engineRetired u c.issuer .forager en 0) c.issuer
  refine ⟨_, hexec, hwakes.mem, hwakes.copies.trans (by simp [engineRetired, u, honly, State.setMe, State.setStrand]), ?_, ?_⟩
  · rw [hwakes.cellAt]
    exact hfg
  · rw [hwakes.strandAt, State.strandAt, hcell, Cell.setStrand_strands]

theorem copyEnds : Claims.CopyEnds := by
  intro s c en g off hdest
  refine ⟨fun hcopy hmailed hbar hroom hfront => ?_, copyRetires⟩
  obtain ⟨honly, hstage, -⟩ := hcopy
  exact copyCompletes hdest honly hstage hmailed hbar hroom hfront

/-! ### The list of a source cell -/

theorem proxyEntry : Claims.ProxyEntry := by
  intro s c honly hstage hfenced hroom
  have hbehind : s.forwardBehind c = false := by simp [State.forwardBehind, honly]
  have hexec : exec (.pushxProxyEntry c.id) s = .next (if !s.pushAllowed c.reader c.issuer then
        s.copyTrap c ⟨.permissionMask, BitVec.ofNat 64 (lcidOf c.reader), BitVec.ofNat 64 (lcidOf c.issuer), 0, 0, 0⟩
      else match s.sourceClosed c.reader c.src c.len with
        | some a => s.copyTrap c (accessTrap (BitVec.ofNat 64 (c.srcName a)) 0)
        | none => ((s.setCell c.reader { s.cellAt c.reader with proxies := (s.cellAt c.reader).proxies ++ [c.id] }).setCopy
            { c with stage := .moving }).push (.copyBlockWrite c.id)) := by
    change execPushxProxyEntry c.id s = _
    rw [execPushxProxyEntry, copy?_of_only honly]
    simp only [hstage, hfenced, hbehind, Nat.not_le.2 hroom, bne_self_eq_false, Bool.false_eq_true, if_false, decide_false,
      Bool.or_self] <;> rfl
  rw [hexec]
  constructor
  · intro hallowed hsource
    rw [hallowed, hsource]
    refine ⟨_, rfl, rfl, ?_, ?_, List.mem_append_right _ List.mem_cons_self⟩
    · exact congrArg Cell.proxies (State.cellAt_setCell _ _ _)
    · change Copy.replace _ s.copies = _
      rw [honly]
      simp [Copy.replace]
  · intro hdenied
    rw [hdenied]
    rfl

/-- Settles O49: a block moves its bytes and no other, a copy ends with its entry, and a forwarded copy is taken in. -/
theorem copiesMove : Obligations.CopiesMove := by
  unfold Obligations.CopiesMove
  exact ⟨copyBlock, copyEnds, proxyEntry⟩

end Sys2Proof.Proofs

/-! What waits moves on (R218, R239, R306, R319, R348, R349, R352). -/

namespace Sys2Proof.Proofs

open Sys2Proof.Machine

set_option Elab.async false

/-! ### Inputs, events and allowances -/

theorem inputAdvances {s : State} {g : CellId} {n : Nat} {i : Input} {r : List Waiting}
    (hfirst : (s.hiveAt (hiveOf g)).waitingFor g n = ⟨.spill, .input i⟩ :: r) (hroom : s.ringFull g n = false)
    (hserves : s.ringZeroing g n = false) (hfenced : (s.cellAt g).fenced = false) :
    exec (.inputAdvance g n) s = .next (((s.setHive (hiveOf g)
      ((s.hiveAt (hiveOf g)).without ⟨.spill, .input i⟩)).ringPut i).nudge (hiveOf g)) := by
  have hadvance : s.advanceFrom g n true false (⟨.spill, .input i⟩ :: r) =
      some ((s.setHive (hiveOf g) ((s.hiveAt (hiveOf g)).without ⟨.spill, .input i⟩)).ringPut i) := by
    rw [State.advanceFrom]
    simp [Hive.isHead, hroom, hserves, hfenced]
  change execInputAdvance g n s = _
  rw [execInputAdvance, hfirst, hadvance]

theorem sortedAbsorbed {s : State} {i : Input} (hroom : (s.hiveAt (hiveOf i.dst)).sorted.length < 1048576) :
    exec (.sortedEventAbsorb i) s = .next ((s.setHive (hiveOf i.dst)
      { s.hiveAt (hiveOf i.dst) with sorted := (s.hiveAt (hiveOf i.dst)).sorted ++ [i] }).absorbed i) := by
  change execSortedEventAbsorb i s = _
  rw [execSortedEventAbsorb]
  exact congrArg _ (if_neg (by omega))

theorem allow_setAllow (c : Cell) {n : Net} (hn : n ≠ .rp) (v : Nat) : (c.setAllow n v).allow n = v := by
  cases n with
  | rp => exact absurd rfl hn
  | _ => rfl

theorem allowanceReturns (s : State) (g : CellId) {n : Net} (hn : n ≠ .rp) : ∃ t, exec (.allowanceReturn g n) s = .next t ∧
    (t.cellAt g).allow n = (s.cellAt g).allow n + 1 ∧ t.mem = s.mem := by
  let u := s.setCell g ((s.cellAt g).setAllow n ((s.cellAt g).allow n + 1))
  have hwakes : ∃ t, exec (.allowanceReturn g n) s = .next t ∧ Wakes u t := by
    have hparked := Wakes.wakeParked u g Instr.isFork
    change ∃ t, execAllowanceReturn g n s = .next t ∧ _
    rw [execAllowanceReturn]
    refine ⟨_, rfl, ?_⟩
    dsimp only
    split
    · exact hparked.trans (Wakes.stillPending _ _)
    · exact hparked
  obtain ⟨t, hexec, ht⟩ := hwakes
  exact ⟨t, hexec, by rw [ht.cellAt, State.cellAt_setCell, allow_setAllow _ hn], ht.mem⟩

/-! ### Returns and completions -/

theorem taskReturnArrives {s : State} {r : TaskReturn}
    (hgen : ((look (s.cellAt r.parent).joins r.buffer).getD ⟨0, []⟩).gen = r.gen)
    (hreserved : look ((look (s.cellAt r.parent).joins r.buffer).getD ⟨0, []⟩).entries r.spawn = some none) :
    ∃ t, exec (.taskReturnArrival r) s = .next t ∧ t.mem = s.mem ∧
      (((look (t.cellAt r.parent).joins r.buffer).map fun j => look j.entries r.spawn) = some (some (some r))) := by
  let jb := (look (s.cellAt r.parent).joins r.buffer).getD ⟨0, []⟩
  let u := (s.countAbsorbed r.parent).setCell r.parent { s.cellAt r.parent with
    joins := put (s.cellAt r.parent).joins r.buffer ⟨jb.gen, put jb.entries r.spawn (some r)⟩ }
  have hexec : exec (.taskReturnArrival r) s = .next (u.wakeParked r.parent Instr.isJoin) := by
    have hcell : (s.countAbsorbed r.parent).cellAt r.parent = s.cellAt r.parent := rfl
    change execTaskReturnArrival r s = _
    rw [execTaskReturnArrival]
    dsimp only
    rw [hcell, if_pos (by simp [hgen, hreserved])]
  have hwakes := Wakes.wakeParked u r.parent Instr.isJoin
  refine ⟨_, hexec, hwakes.mem, ?_⟩
  rw [hwakes.cellAt, State.cellAt_setCell]
  simp [look_put_same]

theorem Wakes.nudge (s : State) (hive : Nat) : Wakes s (s.nudge hive) := by
  refine Wakes.foldl (fun u x => ?_) _ s
  split <;> exact Wakes.stillPending _ _

theorem mailboxSpillEnters {s : State} {g : CellId} {st : Stage} {v : Word} {r : List Waiting}
    (hfirst : (s.hiveAt (hiveOf g)).waiting = ⟨st, .mail g v⟩ :: r) (hroom : (s.cellAt g).mailbox.length < 32) :
    ∃ t, exec (.mailboxSpillEnter g) s = .next t ∧ (t.cellAt g).mailbox = (s.cellAt g).mailbox ++ [v] ∧
      (t.hiveAt (hiveOf g)).waiting = r := by
  let u := (s.setHive (hiveOf g) ((s.hiveAt (hiveOf g)).without ⟨st, .mail g v⟩)).setCell g
    { s.cellAt g with mailbox := (s.cellAt g).mailbox ++ [v] }
  have hexec : exec (.mailboxSpillEnter g) s = .next ((u.wakeParked g Instr.isWaitm).nudge (hiveOf g)) := by
    have hfind : (s.hiveAt (hiveOf g)).waiting.find? (fun x => x.input?.isNone && x.dst == g) = some ⟨st, .mail g v⟩ := by
      simp [hfirst, Waiting.input?, Waiting.dst]
    change execMailboxSpillEnter g s = _
    rw [execMailboxSpillEnter]
    simp only [hfind, hroom, if_true]
    rfl
  have hwakes := (Wakes.wakeParked u g Instr.isWaitm).trans (Wakes.nudge _ (hiveOf g))
  refine ⟨_, hexec, ?_, ?_⟩
  · rw [hwakes.cellAt, State.cellAt_setCell]
  · rw [hwakes.hiveAt]
    change ((State.setHive _ _ _).hiveAt _).waiting = r
    rw [State.hiveAt_setHive, Hive.without, hfirst]
    simp

theorem waitingMoves : Claims.WaitingMoves :=
  ⟨fun _ _ _ _ _ => inputAdvances, fun _ _ => sortedAbsorbed, fun s g _ hn => allowanceReturns s g hn,
    fun _ _ => taskReturnArrives, fun _ _ _ _ _ => mailboxSpillEnters⟩

/-! ### Strands at `WAITB` -/

theorem parkedResumes : Claims.ParkedResumes := by
  rintro s g k b t rfl hrun hlongs hshadow hheld hreplay
  have hexec : exec (.parkedStrandResume g k) s =
      .next (s.on g k fun s => if s.me.note = waitMet then s.retire else s) := by
    change execParkedStrandResume g k s = _
    rw [execParkedStrandResume, hrun]
    rfl
  rw [hexec, State.on, me_at]
  constructor
  · intro hnote
    rw [if_pos hnote, State.retire_quiet (s.at g k) ⟨hlongs, hshadow, hheld, hreplay⟩]
    rfl
  · intro hnote
    rw [if_neg hnote]
    rfl

/-- Settles O37: each waiting thing moves on once what it waits for is there. -/
theorem waitersMoveOn : Obligations.WaitersMoveOn := by
  unfold Obligations.WaitersMoveOn
  exact ⟨waitingMoves, parkedResumes⟩

end Sys2Proof.Proofs

/-! The seal, the phases of the fold, and the release (R263, R266, R357, R358). -/

namespace Sys2Proof.Proofs

open Sys2Proof.Machine

set_option Elab.async false

theorem Wakes.jobAt {s t : State} (h : Wakes s t) (n : Nat) : t.jobAt n = s.jobAt n := by obtain ⟨l, rfl⟩ := h; rfl

theorem Wakes.ite {s t u : State} {c : Prop} [Decidable c] (ht : Wakes s t) (hu : Wakes s u) :
    Wakes s (if c then t else u) := by
  split
  · exact ht
  · exact hu

/-- A happening of each entry of a list is set going. -/
theorem foldl_push_pending {α : Type} (f : α → Instr) (l : List α) (s : State) :
    (l.foldl (fun s x => s.push (f x)) s).pending = s.pending ++ l.map f := by
  induction l generalizing s with
  | nil => exact (List.append_nil _).symm
  | cons x l ih => rw [List.foldl_cons, ih, State.push, List.map_cons]; simp

theorem mem_foldl_push {α : Type} (f : α → Instr) {l : List α} {x : α} (hx : x ∈ l) (s : State) :
    f x ∈ (l.foldl (fun s x => s.push (f x)) s).pending := by
  rw [foldl_push_pending]
  exact List.mem_append_right _ (List.mem_map_of_mem hx)

@[simp] theorem jobAt_setJob (s : State) (n : Nat) (j : Job) : (s.setJob n j).jobAt n = some j := by
  rw [State.jobAt, State.setJob, look_put_same]

/-! ### The seal -/

/-- The job whose step is sealed. -/
def Job.sealed (s : State) (j : Job) : Job :=
  { j with phase := .apply, doneHives := [], gather := none
           partials := if s.reductionsAbort j then [] else j.formPartials
           undo := [], figures := { j.figures with redAborted := s.reductionsAbort j }
           digests := if j.group = 0 then [] else s.digests j }

theorem seal_spec (s : State) (n : Nat) (j : Job) : Wakes (s.setJob n (Job.sealed s j)) (s.seal n j) ∧
    ∀ h ∈ j.hives, Instr.foldApply n h ∈ (s.seal n j).pending := by
  refine ⟨?_, fun h hh => ?_⟩
  · refine Wakes.trans ?_ (Wakes.foldl (fun u h => Wakes.push u _) _ _)
    exact Wakes.foldl (fun u p => Wakes.ite (Wakes.refl u) (Wakes.push u _)) _ _
  · exact mem_foldl_push (fun h => Instr.foldApply n h) hh _

theorem stepSealed : Claims.StepSealed := by
  intro s n j hjob hphase hended hstopped hfolded hquiet hnothing
  have hall : (j.cells.all (fun g => s.cellQuiet g) && s.nothingWaits j) = true := by
    rw [List.all_eq_true.2 hquiet, hnothing]; rfl
  have hexec : exec (.foldGather n) s = .next (if j.gather = some (s.totals j) ∧ (s.totals j).1 = (s.totals j).2 then
      s.seal n j else (s.setJob n { j with gather := some (s.totals j) }).stillPending (.foldGather n)) := by
    change execFoldGather n s = _
    rw [execFoldGather, hjob]
    simp [hphase, hended, hstopped, hfolded, hall]
  rw [hexec]
  constructor
  · intro hgather
    rw [if_neg (by simp [hgather])]
  · intro hgather hequal
    obtain ⟨hwakes, happly⟩ := seal_spec s n j
    rw [if_pos ⟨hgather, hequal⟩]
    exact ⟨_, _, rfl, hwakes.mem, (hwakes.jobAt n).trans (jobAt_setJob ..), rfl, rfl, rfl, rfl, happly⟩

/-! ### From the apply to the install, and to the release -/

theorem foldPhases : Claims.FoldPhases := by
  intro s n j hjob hdone hstopped
  constructor
  · intro hphase hgroup
    have hexec : exec (.applyDone n) s = .next (j.hives.foldl (fun s h => s.push (.install n h))
        (s.setJob n { j with phase := .install, doneHives := [], undo := [] })) := by
      change execApplyDone n s = _
      rw [execApplyDone, hjob]
      simp [hphase, hdone, hstopped, hgroup, State.startInstall, hjob]
    have hwakes : Wakes (s.setJob n { j with phase := .install, doneHives := [], undo := [] })
        (j.hives.foldl (fun s h => s.push (.install n h)) (s.setJob n { j with phase := .install, doneHives := [], undo := [] })) :=
      Wakes.foldl (fun u h => Wakes.push u _) _ _
    exact ⟨_, _, hexec, hwakes.mem, (hwakes.jobAt n).trans (jobAt_setJob ..), rfl, rfl,
      fun h hh => mem_foldl_push (fun h => Instr.install n h) hh _⟩
  · intro hphase
    have hexec : exec (.installDone n) s = .next ((s.setJob n { j with phase := .installed }).push (.release n)) := by
      change execInstallDone n s = _
      rw [execInstallDone, hjob]
      simp [hphase, hdone, hstopped]
    exact ⟨_, hexec, rfl, jobAt_setJob .., List.mem_append_right _ List.mem_cons_self⟩

/-! ### The release -/

theorem Wakes.watchStall (s : State) (g : CellId) : Wakes s (s.watchStall g) :=
  watchStall_cases (p := Wakes s) (Wakes.refl s) (Wakes.stillPending s) g

theorem Wakes.offer (s : State) (g : CellId) : Wakes s (s.offer g) := by
  rw [State.offer]
  exact Wakes.ite (Wakes.watchStall s g)
    (Wakes.foldl (fun u k => Wakes.ite (Wakes.refl u) (Wakes.push u _)) _ s)

theorem releaseStrand_free {s : State} {j : Job} {g : CellId} {k : StrandId} (h : (s.strandAt g k).run = .free) :
    s.releaseStrand j g k = s := by
  rw [State.releaseStrand, h]

/-- The strand that goes on after `FOLD`. -/
def unfolded (t : Strand) : Strand := { t with pc := t.pc + 4, run := .issuing }

theorem releaseStrand_folded {s : State} {j : Job} {g : CellId} {k : StrandId} (hcut : j.figures.redAborted = false)
    (hrun : (s.strandAt g k).run = .folded) (hq : (s.at g k).Quiet) :
    s.releaseStrand j g k = s.setStrand g k (unfolded (s.strandAt g k)) := by
  rw [State.releaseStrand, hrun]
  simp only [hcut, Bool.false_and, Bool.false_eq_true, if_false]
  rw [State.on, State.retire_quiet _ hq]
  rfl

theorem mem_strands (k : StrandId) : k ∈ ([0, 1, 2, 3] : List StrandId) := by
  revert k
  decide

/-- Of the four strands of a cell, only the one that is folded is released. -/
theorem releaseStrands_of_one {s : State} {j : Job} {g : CellId} {k : StrandId} (hcut : j.figures.redAborted = false)
    (hrun : (s.strandAt g k).run = .folded) (hq : (s.at g k).Quiet) (hfree : ∀ k', k' ≠ k → (s.strandAt g k').run = .free) :
    ([0, 1, 2, 3] : List StrandId).foldl (fun s k => s.releaseStrand j g k) s =
      s.setStrand g k (unfolded (s.strandAt g k)) := by
  have hother : ∀ k', k' ≠ k → ((s.setStrand g k (unfolded (s.strandAt g k))).strandAt g k').run = .free := fun k' hk => by
    have hkeep : (s.setStrand g k (unfolded (s.strandAt g k))).strandAt g k' = s.strandAt g k' := by
      rw [State.strandAt, State.setStrand, State.cellAt_setCell, Cell.setStrand, State.strandAt]
      exact Vector.getElem_set_ne k.isLt k'.isLt (fun h => hk (Fin.ext h.symm))
    rw [hkeep, hfree k' hk]
  have hbefore : ∀ l : List StrandId, k ∉ l → l.foldl (fun s k => s.releaseStrand j g k) s = s := by
    intro l
    induction l with
    | nil => exact fun _ => rfl
    | cons a l ih =>
      intro hl
      rw [List.mem_cons, not_or] at hl
      rw [List.foldl_cons, releaseStrand_free (hfree a (Ne.symm hl.1)), ih hl.2]
  have hafter : ∀ l : List StrandId, k ∉ l → l.foldl (fun s k => s.releaseStrand j g k)
      (s.setStrand g k (unfolded (s.strandAt g k))) = s.setStrand g k (unfolded (s.strandAt g k)) := by
    intro l
    induction l with
    | nil => exact fun _ => rfl
    | cons a l ih =>
      intro hl
      rw [List.mem_cons, not_or] at hl
      rw [List.foldl_cons, releaseStrand_free (hother a (Ne.symm hl.1)), ih hl.2]
  have hsplit : ∃ l m : List StrandId, [0, 1, 2, 3] = l ++ k :: m ∧ k ∉ l ∧ k ∉ m := by
    obtain ⟨l, m, hlm⟩ := List.append_of_mem (mem_strands k)
    have hnodup : (l ++ k :: m).Nodup := hlm ▸ (by decide)
    rw [List.nodup_append] at hnodup
    obtain ⟨-, hkm, hdisj⟩ := hnodup
    exact ⟨l, m, hlm, fun h => hdisj k h k List.mem_cons_self rfl, (List.nodup_cons.1 hkm).1⟩
  obtain ⟨l, m, hlm, hl, hm⟩ := hsplit
  rw [hlm, List.foldl_append, List.foldl_cons, hbefore l hl, releaseStrand_folded hcut hrun hq, hafter m hm]

theorem postRecord_mem (s : State) (hive : Nat) (r : HostRecord) : (s.postRecord hive r).mem = s.mem := rfl
theorem postRecord_strandAt (s : State) (hive : Nat) (r : HostRecord) (g : CellId) (k : StrandId) :
    (s.postRecord hive r).strandAt g k = s.strandAt g k := rfl
theorem postRecord_jobAt (s : State) (hive : Nat) (r : HostRecord) (n : Nat) : (s.postRecord hive r).jobAt n = s.jobAt n := rfl

theorem stepReleased : Claims.StepReleased := by
  rintro s n j g k t hjob hphase hstopped hcells hcut rfl hrun hlongs hshadow hheld hreplay hfree
  let u := (s.setJob n j.nextStep).setStrand g k (unfolded (s.strandAt g k))
  let r : HostRecord := ⟨0, 2, 0, j.statusWords.headD 0, (j.statusWords[6]?).getD 0, []⟩
  have hstrands := releaseStrands_of_one (s := s.setJob n j.nextStep) (j := j) (g := g) (k := k) hcut hrun
    ⟨hlongs, hshadow, hheld, hreplay⟩ hfree
  have hexec : exec (.release n) s = .next ((u.offer g).postRecord j.root r) := by
    change execRelease n s = _
    rw [execRelease, hjob]
    simp only [hphase, hstopped, hcells, bne_self_eq_false, Bool.false_eq_true, if_false]
    rw [List.foldl_cons, List.foldl_nil, hstrands]
    rfl
  have hwakes := Wakes.offer u g
  have hstrand : ((u.offer g).postRecord j.root r).strandAt g k = unfolded (s.strandAt g k) :=
    (postRecord_strandAt _ _ _ g k).trans ((hwakes.strandAt g k).trans (State.strandAt_setStrand _ _ _ _))
  have hjobNext : ((u.offer g).postRecord j.root r).jobAt n = some j.nextStep :=
    (postRecord_jobAt _ _ _ n).trans ((hwakes.jobAt n).trans (jobAt_setJob s n j.nextStep))
  refine ⟨_, _, hexec, (postRecord_mem _ _ _).trans hwakes.mem, hjobNext, rfl, rfl, rfl, rfl, ?_, ?_, ?_⟩
  · rw [hstrand]; rfl
  · rw [hstrand]; rfl
  · rw [hstrand]; rfl

/-- Settles O54: two equal gathers seal, the phases follow one another, and the release opens the next step. -/
theorem stepsFold : Obligations.StepsFold := by
  unfold Obligations.StepsFold
  exact ⟨stepSealed, foldPhases, stepReleased⟩

end Sys2Proof.Proofs

/-! Jobs halt, stop, resume and end (R370, R374, R378, R381, R388). -/

namespace Sys2Proof.Proofs

open Sys2Proof.Machine

set_option Elab.async false

@[simp] theorem setJob_mem (s : State) (n : Nat) (j : Job) : (s.setJob n j).mem = s.mem := rfl
@[simp] theorem setHive_mem (s : State) (n : Nat) (h : Hive) : (s.setHive n h).mem = s.mem := rfl
@[simp] theorem setHive_jobAt (s : State) (n m : Nat) (h : Hive) : (s.setHive n h).jobAt m = s.jobAt m := rfl
@[simp] theorem setHive_jobs (s : State) (n : Nat) (h : Hive) : (s.setHive n h).jobs = s.jobs := rfl

/-! ### Halts -/

/-- `t` is `s` but for its hives. -/
def SameButHives (s t : State) : Prop := ∃ l, t = { s with hives := l }

theorem SameButHives.refl (s : State) : SameButHives s s := ⟨s.hives, rfl⟩
theorem SameButHives.setHive (s : State) (n : Nat) (h : Hive) : SameButHives s (s.setHive n h) := ⟨_, rfl⟩
theorem SameButHives.trans {s t u : State} (h : SameButHives s t) (h' : SameButHives t u) : SameButHives s u := by
  obtain ⟨l, rfl⟩ := h
  obtain ⟨m, rfl⟩ := h'
  exact ⟨m, rfl⟩
theorem SameButHives.foldl {α : Type} {f : State → α → State} (hf : ∀ s x, SameButHives s (f s x)) (l : List α) (s : State) :
    SameButHives s (l.foldl f s) := by
  induction l generalizing s with
  | nil => exact refl s
  | cons x l ih => exact (hf s x).trans (ih (f s x))

section SameButHives

variable {s t : State} (h : SameButHives s t)
include h

theorem SameButHives.mem : t.mem = s.mem := by obtain ⟨l, rfl⟩ := h; rfl
theorem SameButHives.jobs : t.jobs = s.jobs := by obtain ⟨l, rfl⟩ := h; rfl
theorem SameButHives.cells : t.cells = s.cells := by obtain ⟨l, rfl⟩ := h; rfl
theorem SameButHives.jobAt (n : Nat) : t.jobAt n = s.jobAt n := by obtain ⟨l, rfl⟩ := h; rfl

end SameButHives

/-- The job once it has halted. -/
def haltedJob (j : Job) (cause : Nat) : Job := { j with halted := some cause, stopped := true, differed := true }

/-- The first halt of a job changes the job, and beside it only registers of hives. -/
theorem haltJob_of_running {s : State} {n : Nat} {j : Job} (hjob : s.jobAt n = some j) (hhalted : j.halted = none)
    (hended : j.ended = false) (cause : Nat) : SameButHives (s.setJob n (haltedJob j cause)) (s.haltJob n cause) := by
  have hexec : s.haltJob n cause = (j.hives.foldl (fun s h => s.postHalt j cause h) (s.setJob n (haltedJob j cause))).raiseMsix
      j.root 1 := by
    rw [State.haltJob, hjob]
    exact if_neg (by simp [hhalted, hended])
  rw [hexec]
  exact (SameButHives.foldl (fun u h => SameButHives.setHive u _ _) _ _).trans (SameButHives.setHive _ _ _)

theorem stallHalts : Claims.StallHalts := by
  intro s n h j hjob hphase hended hstopped hhalted hhive hstalls
  have hmem : j.hives.contains h = true := List.contains_iff_mem.2 hhive
  have hexec : exec (.sealStall n h) s = .next (match j.stallSince with
      | none => (s.setJob n { j with stallSince := some s.now }).stillPending (.sealStall n h)
      | some t => if s.now < t + 2 ^ 20 then s.stillPending (.sealStall n h) else s.haltJob n 3) := by
    change execSealStall n h s = _
    rw [execSealStall, hjob]
    simp only [hphase, hended, hstopped, hmem, hstalls, bne_self_eq_false, Bool.not_true, Bool.or_self, Bool.false_eq_true,
      if_false, if_true] <;> rfl
  constructor
  · intro c hsince hlate
    have hhalt := haltJob_of_running hjob hhalted hended 3
    have hhalts : exec (.sealStall n h) s = .next (s.haltJob n 3) := by
      rw [hexec, hsince]
      exact congrArg Host.Outcome.next (if_neg (by omega))
    exact ⟨_, hhalts, hhalt.mem, (hhalt.jobAt n).trans (jobAt_setJob _ _ _)⟩
  · intro hsince
    rw [hexec, hsince]

/-! ### Replicas -/

/-- A replica that is to halt, with nothing to restore, and its job beside another. -/
theorem haltReplica_spec {s : State} {l : List (Nat × Job)} {n : Nat} {j : Job} (hjob : s.jobAt n = some j)
    (hhalted : j.halted = none) (hended : j.ended = false) (hundo : j.undo = []) :
    SameButHives (s.setJob n (haltedJob j 6).reopen) (s.haltReplica l n) := by
  have hrestored : s.undoApply n = s.setJob n j := by
    have hj : { j with undo := [] } = j := by rw [← hundo]
    rw [State.undoApply, hjob]
    simp only [hundo, List.foldl_nil, hj]
  have hposted : SameButHives (s.undoApply n) ((s.undoApply n).postReport l n) := by
    rw [State.postReport]
    split
    · exact SameButHives.setHive _ _ _
    · exact SameButHives.refl _
  have hjob' : ((s.undoApply n).postReport l n).jobAt n = some j := by
    rw [hposted.jobAt, hrestored, jobAt_setJob]
  have hhalt := haltJob_of_running hjob' hhalted hended 6
  obtain ⟨p, hp⟩ := hposted
  obtain ⟨q, hq⟩ := hhalt
  have hreopened : s.haltReplica l n = (((s.undoApply n).postReport l n).haltJob n 6).setJob n (haltedJob j 6).reopen := by
    have hat : (((s.undoApply n).postReport l n).haltJob n 6).jobAt n = some (haltedJob j 6) := by
      rw [hq]; exact jobAt_setJob _ _ _
    rw [State.haltReplica, State.reopenStep, hat]
  rw [hreopened, hq, hp, hrestored]
  refine ⟨q, ?_⟩
  simp [State.setJob, put_put]

theorem jobAt_setJob_other (s : State) {n m : Nat} (h : m ≠ n) (j : Job) : (s.setJob n j).jobAt m = s.jobAt m :=
  look_put_other _ _ _ _ h

theorem digestMissing : Claims.DigestMissing := by
  intro s n m j o hjobs hnm hgroup hne hphase hphaseO hhalted hhaltedO hdiff hdiffO hended hendedO hundo hundoO hlateO htime
  have hjob : s.jobAt n = some j := by simp [State.jobAt, hjobs, look]
  have hjobO : s.jobAt m = some o := by simp [State.jobAt, hjobs, look, Nat.ne_of_lt hnm]
  have hreplicas : s.replicas j.group = [(n, j), (m, o)] := by simp [State.replicas, hjobs, hgroup, hended, hendedO]
  have hlate : ((s.replicas j.group).filter fun x => x.2.phase != .applied).map (·.1) = [m] := by
    rw [hreplicas]; simp [hphase, hphaseO]
  let u := s.setJob n { j with lateRoots := [m] }
  let l : List (Nat × Job) := [(n, { j with lateRoots := [m] }), (m, o)]
  have hjobsU : u.jobs = l := by simp [u, l, State.setJob, hjobs, put]
  have hl : u.replicas j.group = l := by
    rw [State.replicas, hjobsU]
    simp [l, hgroup, hended, hendedO]
  have hview : replicaView l n { j with lateRoots := [m] } = .digest { j with lateRoots := [m] }.stepDigest := by
    simp [replicaView, l, hhalted, hdiff, hlateO, hphase, Nat.ne_of_lt hnm]
  have hviewO : replicaView l m o = .differs := by simp [replicaView, l]
  have hdecide : u.replicaDecide j.group = (u.haltReplica l n).haltReplica l m := by
    rw [State.replicaDecide, hl]
    simp [l, hview, hviewO, sameDigest]
  have hexec : exec (.replicaDigestTimeout n) s = .next ((u.haltReplica l n).haltReplica l m) := by
    change execReplicaDigestTimeout n s = _
    rw [execReplicaDigestTimeout, hjob]
    refine congrArg Host.Outcome.next ((if_neg (by simp [hphase, hended, hhalted])).trans ((if_neg (by omega)).trans ?_))
    rw [hlate]
    exact hdecide
  have hfirst := haltReplica_spec (s := u) (l := l) (n := n) (j := { j with lateRoots := [m] }) (jobAt_setJob _ _ _) hhalted
    hended hundo
  have hsecond := haltReplica_spec (s := u.haltReplica l n) (l := l) (n := m) (j := o)
    (by rw [hfirst.jobAt, jobAt_setJob_other _ (Nat.ne_of_gt hnm)]; exact (jobAt_setJob_other s (Nat.ne_of_gt hnm) _).trans hjobO)
    hhaltedO hendedO hundoO
  refine ⟨_, (haltedJob { j with lateRoots := [m] } 6).reopen, (haltedJob o 6).reopen, hexec, hsecond.mem.trans hfirst.mem, ?_, ?_,
    rfl, rfl, rfl, rfl, rfl, rfl⟩
  · rw [hsecond.jobAt, jobAt_setJob_other _ (Nat.ne_of_lt hnm), hfirst.jobAt, jobAt_setJob]
  · rw [hsecond.jobAt, jobAt_setJob]

/-! ### Routes, and the end of a stop -/

theorem rerouted_rerouted (s : State) : s.rerouted.rerouted = s.rerouted := by
  simp [State.rerouted, List.map_map, Function.comp_def]

theorem routeUsers_rerouted (s : State) : s.rerouted.routeUsers = [] := by
  simp [State.routeUsers, rerouted_rerouted]

/-- Where no job uses a route that changes, the routes change. -/
theorem settleRoutes_of_noUsers {s : State} (h : s.routeUsers = []) : s.settleRoutes = s.rerouted := by
  rw [State.settleRoutes, h]
  rfl

theorem releaseJob_spec {s : State} {n : Nat} {j : Job} (hjob : s.jobAt n = some j) :
    Wakes (s.setJob n { j with stopped := false, halted := none, lateRoots := [] }) (s.releaseJob n) := by
  rw [State.releaseJob, hjob]
  exact (Wakes.ite (Wakes.stillPending _ _) (Wakes.refl _)).trans (Wakes.foldl Wakes.offer _ _)

theorem jobStops : Claims.JobStops := by
  intro s n j hjob hended hhalted
  constructor
  · intro hstopped
    change execStop n s = _
    rw [execStop, hjob]
    simp [hended, hstopped]
  · intro hstill husers
    have hstopped : j.stopped = true := by
      rw [State.jobStopped] at hstill
      exact (Bool.and_eq_true_iff.1 hstill).1
    have hexec : exec (.stop n) s = .next (s.rerouted.releaseJob n) := by
      change execStop n s = _
      rw [execStop, hjob]
      simp [hended, hstopped, hstill, settleRoutes_of_noUsers husers, routeUsers_rerouted, hhalted]
    have hrelease := releaseJob_spec (s := s.rerouted) (n := n) (j := j) hjob
    refine ⟨_, hexec, hrelease.mem, (hrelease.jobAt n).trans ?_⟩
    rw [jobAt_setJob, ← hhalted]

/-! ### The verbs of `JOBCTL` -/

theorem removeJob_jobAt {s : State} {n : Nat} {j : Job} (hjob : s.jobAt n = some j) :
    (s.removeJob n).jobAt n = some { j with ended := true } := by
  rw [State.removeJob, hjob]
  exact jobAt_setJob _ _ _

theorem cells_foldl_setHive (f : State → Nat → State) (hf : ∀ s h, (f s h).cells = s.cells) (l : List Nat) (s : State) :
    (l.foldl f s).cells = s.cells := by
  induction l generalizing s with
  | nil => rfl
  | cons h l ih => rw [List.foldl_cons, ih, hf]

/-- A cell that has left its job stays without one. -/
theorem leaveJobs_job (g : CellId) (l : List CellId) : ∀ s : State, (g ∈ l ∨ (s.cellAt g).job = none) →
    ((l.foldl (fun s g => s.setCell g (s.cellAt g).leaveJob) s).cellAt g).job = none := by
  induction l with
  | nil => exact fun s h => h.resolve_left (List.not_mem_nil)
  | cons x l ih =>
    intro s h
    refine ih _ ?_
    by_cases hx : x = g
    · subst hx
      exact .inr (by rw [State.cellAt_setCell]; rfl)
    · rw [State.cellAt_setCell_other _ _ _ _ (Ne.symm hx)]
      exact h.imp_left fun h => (List.mem_cons.1 h).resolve_left (Ne.symm hx)

/-- What of a hive is left once some cells have left their job. -/
def hiveWithout (v : Hive) (l : List CellId) : Hive :=
  { v with waiting := v.waiting.filter fun x => !l.contains x.dst, sorted := v.sorted.filter fun i => !l.contains i.dst
           sent := v.sent.filter fun x => !l.contains x.1, absorbed := v.absorbed.filter fun x => !l.contains x.1 }

theorem removeJob_job {s : State} {n : Nat} {j : Job} (hjob : s.jobAt n = some j) {g : CellId} (hg : g ∈ j.cells) :
    ((s.removeJob n).cellAt g).job = none := by
  have hcells : ∃ u : State, (s.removeJob n).cells =
      (j.cells.foldl (fun s g => s.setCell g (s.cellAt g).leaveJob) u).cells := by
    rw [State.removeJob, hjob]
    exact ⟨_, cells_foldl_setHive (fun s h => s.setHive h (hiveWithout (s.hiveAt h) j.cells)) (fun _ _ => rfl) j.hives _⟩
  obtain ⟨u, hu⟩ := hcells
  rw [State.cellAt, hu, ← State.cellAt]
  exact leaveJobs_job g j.cells u (.inl hg)

theorem jobControlled : Claims.JobControlled := by
  intro s hive n j hstage hstatus hnumbered hjob
  have hasked : ∀ v, (s.hiveAt hive).asked v = ((s.hiveAt hive).jobctlVerb == v) := fun v => by
    simp [Hive.asked, hstage, hstatus]
  refine ⟨fun hverb hhalted hwhole husers => ?_, fun hverb hwhy => ?_, fun hverb => ?_⟩
  · have hexec : exec (.jobResume hive) s = .next ((s.rerouted.releaseJob n).jobctl hive 0) := by
      change execJobResume hive s = _
      rw [execJobResume]
      simp [hnumbered, hjob, hhalted, hasked, hverb, hwhole, settleRoutes_of_noUsers husers, routeUsers_rerouted]
    have hrelease := releaseJob_spec (s := s.rerouted) (n := n) (j := j) hjob
    refine ⟨_, hexec, hrelease.mem, (hrelease.jobAt n).trans (jobAt_setJob _ _ _), ?_⟩
    rw [State.jobctl, State.hiveAt_setHive]
  · change execJobResume hive s = _
    rw [execJobResume]
    rcases hwhy with hnone | hlost
    · simp [hnumbered, hjob, hnone, hasked, hverb, State.jobctl]
    · by_cases hhalted : j.halted.isSome = true
      · simp [hnumbered, hjob, hhalted, hlost, hasked, hverb, State.jobctl]
      · simp [hnumbered, hjob, hhalted, hasked, hverb, State.jobctl]
  · have hexec : exec (.jobEnd hive) s = .next ((s.removeJob n).jobctl hive 0) := by
      change execJobEnd hive s = _
      rw [execJobEnd]
      simp [hnumbered, hasked, hverb]
    refine ⟨_, hexec, removeJob_jobAt hjob, ?_, fun g hg => removeJob_job hjob hg⟩
    rw [State.jobctl, State.hiveAt_setHive]

/-- Settles O56: missing digests and stalls halt, and jobs stop, resume and end. -/
theorem jobsHaltAndStop : Obligations.JobsHaltAndStop := by
  unfold Obligations.JobsHaltAndStop
  exact ⟨digestMissing, stallHalts, jobStops, jobControlled⟩

end Sys2Proof.Proofs

/-! Results of the integer group, the immediates and the bit fields (R113, R116-R120): the values of the tables, and how
they are written. -/

namespace Sys2Proof.Proofs

open Sys2Proof.Machine

set_option Elab.async false

/-! ### The model's values are the tables' -/

theorem sext_eq_bySign (f : Fmt) (x : Nat) : sext (intBits f) x = bySign (BitVec.ofNat (intBits f) x) :=
  sext_eq _ (intBits_pos f) x

theorem zext_eq_byZero (f : Fmt) (x : Nat) : zext (intBits f) x = byZero (BitVec.ofNat (intBits f) x) :=
  zext_eq _ x

theorem extendBy_eq_byFmt (f : Fmt) (x : Nat) : extendBy f x = byFmt f (BitVec.ofNat (intBits f) x) := by
  unfold extendBy byFmt
  split
  · exact zext_eq_byZero f x
  · exact sext_eq_bySign f x

theorem sel_low (n : Nat) (c : Bool) (a b : Word) :
    BitVec.ofNat n (if c then lowBits n a else lowBits n b) = if c then low n a else low n b := by
  cases c <;> simp [low_eq]

theorem zext_of_lt {n x : Nat} (h : x < 2 ^ n) : zext n x = BitVec.ofNat 64 x := by
  rw [zext, Nat.mod_eq_of_lt h]

theorem minz_low (f : Fmt) (a b : Word) :
    zext (intBits f) (min (lowBits (intBits f) a) (lowBits (intBits f) b)) =
      BitVec.ofNat 64 (min (low (intBits f) a).toNat (low (intBits f) b).toNat) := by
  rw [low_toNat, low_toNat]
  exact zext_of_lt (min_lt_of_left_lt (lowBits_lt _ a))

theorem maxz_low (f : Fmt) (a b : Word) :
    zext (intBits f) (max (lowBits (intBits f) a) (lowBits (intBits f) b)) =
      BitVec.ofNat 64 (max (low (intBits f) a).toNat (low (intBits f) b).toNat) := by
  rw [low_toNat, low_toNat]
  exact zext_of_lt (Nat.max_lt.2 ⟨lowBits_lt _ a, lowBits_lt _ b⟩)

theorem mulhz_low (f : Fmt) (a b : Word) :
    zext (intBits f) (intMulhz (intBits f) (lowBits (intBits f) a) (lowBits (intBits f) b)) =
      BitVec.ofNat 64 ((low (intBits f) a).toNat * (low (intBits f) b).toNat / 2 ^ intBits f) := by
  have hq : lowBits (intBits f) a * lowBits (intBits f) b / 2 ^ intBits f < 2 ^ intBits f :=
    Nat.div_lt_of_lt_mul (Nat.mul_lt_mul'' (lowBits_lt _ a) (lowBits_lt _ b))
  rw [intMulhz, Nat.mod_eq_of_lt hq, zext_of_lt hq, low_toNat, low_toNat]

theorem takeWhile_congr_mem {α : Type} {p q : α → Bool} {l : List α} (h : ∀ x ∈ l, p x = q x) :
    l.takeWhile p = l.takeWhile q := by
  induction l with
  | nil => rfl
  | cons x l ih => rw [List.takeWhile_cons, List.takeWhile_cons, h x (by simp), ih fun y hy => h y (by simp [hy])]

theorem clz_eq_leading (f : Fmt) (v : Word) : clz (intBits f) (lowBits (intBits f) v) = leading (intBits f) (low (intBits f) v) := by
  rw [clz_low, leading]
  refine congrArg List.length (takeWhile_congr_mem fun k hk => ?_)
  rw [BitVec.getMsbD, BitVec.getLsbD, low_toNat]
  simp [List.mem_range.1 hk]

theorem ctz_eq_trailing (f : Fmt) (v : Word) :
    ctz (intBits f) (lowBits (intBits f) v) = trailing (intBits f) (low (intBits f) v) := by
  simp only [ctz_low, trailing, BitVec.getLsbD, low_toNat]

theorem popc_eq_ones (f : Fmt) (v : Word) : popc (intBits f) (lowBits (intBits f) v) = ones (intBits f) (low (intBits f) v) := by
  simp only [popc_low, ones, BitVec.getLsbD, low_toNat]

theorem bswap_low (f : Fmt) (v : Word) : bswap (intBits f) (lowBits (intBits f) v) =
    ofBytes ((toBytes (low (intBits f) v).toNat (intBits f / 8)).reverse) := by
  rw [low_toNat, bswap]

/-! ### Immediates (R118) -/

theorem immBits_eq (f : Fmt) (imm : BitVec 11) : BitVec.ofNat (intBits f) (immBits f imm) = immOf f imm := by
  unfold immBits immOf
  split
  · rw [ofNat_mod]
    exact BitVec.eq_of_toNat_eq (by simp)
  · rw [ofInt_nat, BitVec.signExtend]

theorem immBits_lt (f : Fmt) (imm : BitVec 11) : immBits f imm < 2 ^ intBits f := by
  unfold immBits ofInt
  have hp : (0 : Int) < (2 ^ intBits f : Nat) := by positivity
  split
  · exact Nat.mod_lt _ (by positivity)
  · have := Int.emod_lt_of_pos imm.toInt hp
    omega

theorem immOf_toNat (f : Fmt) (imm : BitVec 11) : (immOf f imm).toNat = immBits f imm := by
  rw [← immBits_eq, BitVec.toNat_ofNat, Nat.mod_eq_of_lt (immBits_lt f imm)]

theorem immZero_eq (f : Fmt) (imm : BitVec 11) : BitVec.ofNat (intBits f) (immZero f imm) = imm.setWidth (intBits f) := by
  rw [immZero, ofNat_mod]
  exact BitVec.eq_of_toNat_eq (by simp)

theorem immZero_lt (f : Fmt) (imm : BitVec 11) : immZero f imm < 2 ^ intBits f := Nat.mod_lt _ (by positivity)

theorem addi_low (f : Fmt) (a : Word) (imm : BitVec 11) :
    BitVec.ofNat (intBits f) (intAdd (intBits f) (lowBits (intBits f) a) (immBits f imm)) = low (intBits f) a + immOf f imm := by
  rw [intAdd, ofNat_mod, ofNat_add, low_eq, immBits_eq]

theorem landi_low (f : Fmt) (a : Word) (imm : BitVec 11) :
    BitVec.ofNat (intBits f) (Nat.land (lowBits (intBits f) a) (immZero f imm)) =
      low (intBits f) a &&& imm.setWidth (intBits f) := by
  rw [← immZero_eq]
  apply BitVec.eq_of_toNat_eq
  simp [low_toNat, Nat.mod_eq_of_lt (lowBits_lt _ _), Nat.mod_eq_of_lt (immZero_lt f imm)]

theorem lori_low (f : Fmt) (a : Word) (imm : BitVec 11) :
    BitVec.ofNat (intBits f) (Nat.lor (lowBits (intBits f) a) (immZero f imm)) =
      low (intBits f) a ||| imm.setWidth (intBits f) := by
  rw [← immZero_eq]
  apply BitVec.eq_of_toNat_eq
  simp [low_toNat, Nat.mod_eq_of_lt (lowBits_lt _ _), Nat.mod_eq_of_lt (immZero_lt f imm)]

theorem xori_low (f : Fmt) (a : Word) (imm : BitVec 11) :
    BitVec.ofNat (intBits f) (Nat.xor (lowBits (intBits f) a) (immZero f imm)) =
      low (intBits f) a ^^^ imm.setWidth (intBits f) := by
  rw [← immZero_eq]
  apply BitVec.eq_of_toNat_eq
  simp [low_toNat, Nat.mod_eq_of_lt (lowBits_lt _ _), Nat.mod_eq_of_lt (immZero_lt f imm)]

/-- A shift by an immediate is one by the register that holds it. -/
theorem shAmt_imm (f : Fmt) (imm : BitVec 11) :
    shAmt (intBits f) imm.toNat = shAmt (intBits f) (lowBits (intBits f) (imm.setWidth 64)) := by
  rw [shAmt_low, shAmt, BitVec.toNat_setWidth, Nat.mod_eq_of_lt (by omega : imm.toNat < 2 ^ 64)]

theorem toNat_setWidth_imm (imm : BitVec 11) : (imm.setWidth 64).toNat = imm.toNat := by
  rw [BitVec.toNat_setWidth, Nat.mod_eq_of_lt (by omega)]

theorem shli_low (f : Fmt) (a : Word) (imm : BitVec 11) :
    BitVec.ofNat (intBits f) (intShl (intBits f) (lowBits (intBits f) a) imm.toNat) =
      low (intBits f) a <<< (imm.toNat % intBits f) := by
  have h := shl_low f a (imm.setWidth 64)
  rwa [intShl, ← shAmt_imm, toNat_setWidth_imm] at h

theorem shri_low (f : Fmt) (a : Word) (imm : BitVec 11) :
    BitVec.ofNat (intBits f) (intShr (intBits f) (lowBits (intBits f) a) imm.toNat) =
      low (intBits f) a >>> (imm.toNat % intBits f) := by
  have h := shr_low f a (imm.setWidth 64)
  rwa [intShr, ← shAmt_imm, toNat_setWidth_imm] at h

theorem shai_low (f : Fmt) (a : Word) (imm : BitVec 11) :
    BitVec.ofNat (intBits f) (intSha (intBits f) (lowBits (intBits f) a) imm.toNat) =
      (low (intBits f) a).sshiftRight (imm.toNat % intBits f) := by
  have h := sha_low f a (imm.setWidth 64)
  rwa [intSha, ← shAmt_imm, toNat_setWidth_imm] at h

theorem roti_low (f : Fmt) (a : Word) (imm : BitVec 11) :
    BitVec.ofNat (intBits f) (intRot (intBits f) (lowBits (intBits f) a) imm.toNat) =
      (low (intBits f) a).rotateLeft (imm.toNat % intBits f) := by
  have h := rot_low f a (imm.setWidth 64)
  rwa [intRot, ← shAmt_imm, toNat_setWidth_imm] at h

theorem ltImm_low (f : Fmt) (a : Word) (imm : BitVec 11) : ltImm f (lowBits (intBits f) a) (immBits f imm) =
    if isUnsignedInt f then (low (intBits f) a).ult (immOf f imm) else (low (intBits f) a).slt (immOf f imm) := by
  unfold ltImm
  split
  · rw [BitVec.ult, low_toNat, immOf_toNat]
  · rw [intLt, signed_low _ (intBits_pos f), toSigned_eq _ (intBits_pos f), immBits_eq, BitVec.slt]

/-! ### Bit fields (R119, R120) -/

theorem bext_eq (v : Word) (wid off : Nat) :
    bext v wid off = (v.extractLsb' off (min wid (64 - off))).signExtend 64 := by
  have hx : BitVec.ofNat (min wid (64 - off)) (v.toNat / 2 ^ off) = v.extractLsb' off (min wid (64 - off)) := by
    rw [BitVec.extractLsb', Nat.shiftRight_eq_div_pow]
  rw [bext, fieldWidth, ← hx]
  rcases Nat.eq_zero_or_pos (min wid (64 - off)) with h | h
  · rw [h, if_pos rfl]
    exact (by decide : ∀ x : BitVec 0, (0 : Word) = x.signExtend 64) _
  · rw [if_neg (by omega)]
    exact sext_eq _ h _

theorem bextz_eq (v : Word) (wid off : Nat) :
    bextz v wid off = (v.extractLsb' off (min wid (64 - off))).setWidth 64 := by
  rw [bextz, zext_eq, fieldWidth, BitVec.extractLsb', Nat.shiftRight_eq_div_pow]

/-- Three fields side by side, bit by bit. -/
theorem testBit_fields {x y : Nat} (z : Nat) {off w : Nat} (hx : x < 2 ^ off) (hy : y < 2 ^ w) (k : Nat) :
    (x + y * 2 ^ off + z * 2 ^ (off + w)).testBit k =
      if k < off then x.testBit k else if k < off + w then y.testBit (k - off) else z.testBit (k - (off + w)) := by
  have e : x + y * 2 ^ off + z * 2 ^ (off + w) = 2 ^ off * (2 ^ w * z + y) + x := by rw [pow_add]; ring
  rw [e, Nat.testBit_two_pow_mul_add _ hx, Nat.testBit_two_pow_mul_add _ hy]
  split
  · rfl
  · by_cases h : k < off + w
    · rw [if_pos h, if_pos (by omega)]
    · rw [if_neg h, if_neg (by omega), Nat.sub_sub]

theorem bins_eq (d v : Word) (wid off : Nat) (hoff : off < 64) :
    bins d v wid off = replaced d v off (min wid (64 - off)) := by
  rw [bins, fieldWidth, replaced]
  generalize hw : min wid (64 - off) = w
  have hle : off + w ≤ 64 := by omega
  refine BitVec.eq_of_getLsbD_eq fun k hk => ?_
  have hx : d.toNat % 2 ^ off < 2 ^ off := Nat.mod_lt _ (by positivity)
  have hy : v.toNat % 2 ^ w < 2 ^ w := Nat.mod_lt _ (by positivity)
  simp only [BitVec.getLsbD_ofNat, BitVec.getLsbD_or, BitVec.getLsbD_and, BitVec.getLsbD_not,
    BitVec.getLsbD_shiftLeft, hk, decide_true, Bool.true_and, testBit_fields _ hx hy, Nat.testBit_mod_two_pow,
    Nat.testBit_div_two_pow, Nat.testBit_two_pow_sub_one, BitVec.testBit_toNat]
  by_cases h1 : k < off
  · simp [h1]
  · by_cases h2 : k < off + w
    · have h3 : k - off < w := by omega
      have h4 : k - off < 64 := by omega
      simp [h1, h2, h3, h4]
    · have h3 : ¬ k - off < w := by omega
      simp [h1, h2, h3, Nat.sub_add_cancel (by omega : off + w ≤ k)]

/-! ### A result is written -/

/-- The state in which the result of a table has been written and the word has retired. -/
def resultOf (s : State) (r : WReg × Word × Option Bool) : State :=
  match r.2.2 with
  | none => s.result r.1 r.2.1
  | some b => s.resultCf r.1 r.2.1 b

theorem resultOf_quiet {s : State} (h : s.Quiet) (r : WReg × Word × Option Bool) :
    resultOf s r = s.advance (s.me.results r) := by
  obtain ⟨d, v, _ | b⟩ := r
  · exact State.result_quiet s h d v
  · exact State.resultCf_quiet s h d v b

/-- An instruction that writes `v` to `wd` writes the table's `v'`. -/
theorem writes_value {s : State} {d : WReg} {v v' : Word} (h : v = v') :
    Host.Outcome.next (s.result d v) = (.next (resultOf s (d, v', none)) : Host.Outcome State Fault Refusal) := by
  subst h; rfl

/-- The same, where the table extends an n-bit result by its sign. -/
theorem writes_bySign {s : State} {d : WReg} {f : Fmt} {x : Nat} {y : BitVec (intBits f)}
    (h : BitVec.ofNat (intBits f) x = y) :
    Host.Outcome.next (s.result d (sext (intBits f) x)) =
      (.next (resultOf s (d, bySign y, none)) : Host.Outcome State Fault Refusal) :=
  writes_value (by rw [sext_eq_bySign, h])

theorem writes_byZero {s : State} {d : WReg} {f : Fmt} {x : Nat} {y : BitVec (intBits f)}
    (h : BitVec.ofNat (intBits f) x = y) :
    Host.Outcome.next (s.result d (zext (intBits f) x)) =
      (.next (resultOf s (d, byZero y, none)) : Host.Outcome State Fault Refusal) :=
  writes_value (by rw [zext_eq_byZero, h])

theorem writes_byFmt {s : State} {d : WReg} {f : Fmt} {x : Nat} {y : BitVec (intBits f)}
    (h : BitVec.ofNat (intBits f) x = y) :
    Host.Outcome.next (s.result d (extendBy f x)) =
      (.next (resultOf s (d, byFmt f y, none)) : Host.Outcome State Fault Refusal) :=
  writes_value (by rw [extendBy_eq_byFmt, h])

/-- A comparison writes its verdict to `wd` and CF. -/
theorem writes_verdict {s : State} {d : WReg} {c c' : Bool} (h : c = c') :
    Host.Outcome.next (s.intCmp d c) = (.next (resultOf s (verdict d c')) : Host.Outcome State Fault Refusal) := by
  subst h
  rw [State.intCmp, ofNat_toNat_bool]
  rfl

theorem exec_of_arRule {i : Instr} {s : State} {r : WReg × Word × Option Bool} (h : arRule s.me i = some r) :
    exec i s = .next (resultOf s r) := by
  unfold arRule at h
  split at h <;> cases h
  next f d a b => exact writes_bySign (add_low _ _ _)
  next f d a b => exact writes_bySign (sub_low _ _ _)
  next f d a b => exact writes_bySign (land_low _ _ _)
  next f d a b => exact writes_bySign (lor_low _ _ _)
  next f d a b => exact writes_bySign (xor_low _ _ _)
  next f d a b => exact writes_bySign (shl_low _ _ _)
  next f d a b => exact writes_byZero (shr_low _ _ _)
  next f d a b => exact writes_bySign (sha_low _ _ _)
  next f d a b => exact writes_bySign (rot_low _ _ _)
  next f d a b => exact writes_verdict (lt_low _ (intBits_pos f) _ _)
  next f d a b => exact writes_verdict (ult_low _ _ _)
  next f d a b => exact writes_bySign (min_low _ (intBits_pos f) _ _)
  next f d a b => exact writes_bySign (max_low _ (intBits_pos f) _ _)
  next f d a b => exact writes_value (minz_low _ _ _)
  next f d a b => exact writes_value (maxz_low _ _ _)
  next f d a b => exact writes_bySign (sel_low _ _ _ _)
  next f d a b => exact writes_bySign (mul_low _ _ _)
  next f d a b => exact writes_bySign (mulh_low _ (intBits_pos f) _ _)
  next f d a b => exact writes_value (mulhz_low _ _ _)
  next f d a => exact writes_bySign (congrArg _ (clz_eq_leading _ _))
  next f d a => exact writes_bySign (congrArg _ (ctz_eq_trailing _ _))
  next f d a => exact writes_bySign (congrArg _ (popc_eq_ones _ _))
  next f d a => exact writes_bySign (congrArg _ (bswap_low _ _))

theorem exec_of_immRule {i : Instr} {s : State} {r : WReg × Word × Option Bool} (h : immRule s.me i = some r) :
    exec i s = .next (resultOf s r) := by
  unfold immRule at h
  split at h <;> cases h
  next d imm => exact writes_value rfl
  next d k imm =>
    have hk : 16 * k.val < 64 := by omega
    have hw : min 16 (64 - 16 * k.val) = 16 := by omega
    exact writes_value ((bins_eq _ _ 16 _ hk).trans (by rw [hw]; rfl))
  next f d a imm => exact writes_byFmt (addi_low _ _ _)
  next f d a imm => exact writes_byFmt (landi_low _ _ _)
  next f d a imm => exact writes_byFmt (lori_low _ _ _)
  next f d a imm => exact writes_byFmt (xori_low _ _ _)
  next f d a imm => exact writes_byFmt (shli_low _ _ _)
  next f d a imm => exact writes_byZero (shri_low _ _ _)
  next f d a imm => exact writes_byFmt (shai_low _ _ _)
  next f d a imm => exact writes_byFmt (roti_low _ _ _)
  next f d a imm => exact writes_verdict (ltImm_low _ _ _)
  next d a wid off => exact writes_value (bext_eq _ _ _)
  next d a wid off => exact writes_value (bextz_eq _ _ _)
  next d a wid off => exact writes_value (bins_eq _ _ _ _ off.isLt)

theorem workingRegisters : Claims.WorkingRegisters := by
  intro t v
  refine ⟨rfl, rfl, fun d hd => ⟨?_, fun a ha => ?_⟩⟩
  · simp [Strand.w, Strand.setW, hd]
  · have hne : d.val ≠ a.val := fun e => ha (Fin.ext e.symm)
    simp [Strand.w, Strand.setW, hd, Vector.getElem_set_ne _ _ hne]

/-- Settles O15: each row of the tables is what the model's operation on patterns of n bits comes to. -/
theorem integerInstructions : Obligations.IntegerInstructions :=
  ⟨workingRegisters,
    fun _ _ r hq h => (exec_of_arRule h).trans (congrArg _ (resultOf_quiet hq r)),
    fun _ _ r hq h => (exec_of_immRule h).trans (congrArg _ (resultOf_quiet hq r))⟩

end Sys2Proof.Proofs

/-! Engine instructions enter the queues of their engines, and the engines start them in order (R147, R151, R177, R184, R210,
R325, R332). -/

namespace Sys2Proof.Proofs

open Sys2Proof.Machine

set_option Elab.async false

/-! ### Issue -/

theorem advance_outstanding (t : Strand) (l : List (PtrArg × Operand)) :
    (t.advance l).longs = t.longs ∧ (t.advance l).held = t.held ∧ (t.advance l).replay = t.replay := by
  induction l generalizing t with
  | nil => exact ⟨rfl, rfl, rfl⟩
  | cons x l ih =>
    rw [Strand.advance]
    split
    · exact ih (t.setP ..)
    · exact ih t

theorem exec_of_isVec {i : Instr} {s : State} (h : i.isVec = true) : exec i s = .next (s.issueVec i) := by
  unfold Instr.isVec Instr.ptrArgs at h
  split at h
  all_goals first | rfl | cases h

theorem enqueue_of_quiet {s : State} (h : s.Quiet) (e : Eng) (i : Instr) (regs : List Word) :
    s.enqueue e i regs [] id = s.queued e i regs [] s.me :=
  s.enqueue_quiet h e i regs [] id h.1 h.2.2.1 h.2.2.2

theorem vectorIssues : Claims.VectorIssues := by
  intro i s hq hi hptr hfull
  rw [exec_of_isVec hi, State.issueVec]
  obtain ⟨hl, hh, hr⟩ := advance_outstanding s.me (i.ptrArgs.zip (vecOperands s.me.vl i))
  obtain ⟨q1, -, q3, q4⟩ := id hq
  simp only [vecPtrs] at hptr
  simp only [hptr, State.orRaise, hfull, Bool.false_eq_true, if_false]
  rw [s.enqueue_quiet hq _ _ _ _ _ (hl.trans q1) (hh.trans q3) (hr.trans q4)]

theorem multiplyIssues : Claims.MultiplyIssues := by
  intro s d a b hq hfull
  refine ⟨fun i q hi hm hbad => ?_, fun ha hb hn => congrArg Host.Outcome.next ?_, fun f rm sat hw hb he hn => congrArg Host.Outcome.next ?_⟩
  · have hexec : exec i s = .next (s.issueMultiply i d a b) := by
      obtain ⟨_, _, rfl⟩ | ⟨_, _, rfl⟩ | ⟨_, _, _, rfl⟩ := hi <;> rfl
    rw [hexec, State.issueMultiply, hm]
    simp [hbad, hfull, enqueue_of_quiet hq]
  · rw [if_neg (by omega), if_neg (by rw [hb]; simpa using hn), hfull, enqueue_of_quiet hq]
    rfl
  · rw [if_neg (by simp [hw]), if_neg (by rw [Nat.div_eq_of_lt hb]; decide), if_neg (by simpa using he),
      if_neg (by simp; omega), hfull, enqueue_of_quiet hq]
    rfl

theorem deltaIssues : Claims.DeltaIssues := by
  intro s a b hq hfull ha
  have ha : ¬ 7 < (s.w a).toNat := by omega
  refine ⟨fun h1 h2 => congrArg Host.Outcome.next ?_, fun h1 h2 => congrArg Host.Outcome.next ?_, congrArg Host.Outcome.next ?_⟩
  · simp [ha, h1, h2, hfull, enqueue_of_quiet hq]
  · rw [if_neg ha, if_neg (by rw [Nat.div_eq_of_lt h1, h2]; decide), hfull, enqueue_of_quiet hq]
    rfl
  · simp [ha, hfull, enqueue_of_quiet hq]

theorem copyIssues : Claims.CopyIssues := by
  intro s d a b bar hq hfull
  refine ⟨fun h => congrArg Host.Outcome.next ?_, fun h => congrArg Host.Outcome.next ?_⟩ <;>
    simp [State.issueCopy, h, State.orRaise, hfull, enqueue_of_quiet hq]

/-! ### Start -/

/-- An engine that is free takes the first entry that has not started. -/
theorem nextEntry_eq {s : State} {g : CellId} {e : Eng} {en : EngEntry} {l r : List EngEntry}
    (hq : (s.cellAt g).queue e = l ++ en :: r) (hl : ∀ x ∈ l, x.started = true) (hen : en.started = false)
    (hfree : if e = .forager then s.foragerIdle g = true else l = [] ∧ ∀ x ∈ r, x.started = false) :
    s.nextEntry g e = some en := by
  have hfind : (l ++ en :: r).find? (fun x => !x.started) = some en := by
    rw [List.find?_append, List.find?_eq_none.2 (by simpa using hl)]
    simp [hen]
  rw [State.nextEntry]
  simp only [hq, hfind]
  split at hfree
  · simp [*]
  · obtain ⟨rfl, hr⟩ := hfree
    simp +contextual [*]

theorem foragerNext_keeps (s : State) (g : CellId) :
    (s.foragerNext g).mem = s.mem ∧ (s.foragerNext g).copies = s.copies ∧ ∀ i ∈ s.pending, i ∈ (s.foragerNext g).pending := by
  rw [State.foragerNext]
  split
  · rw [State.stillPending]
    split
    · exact ⟨rfl, rfl, fun _ h => h⟩
    · exact ⟨rfl, rfl, fun _ h => List.mem_append_left _ h⟩
  · exact ⟨rfl, rfl, fun _ h => h⟩

theorem sceStart_eq (s : State) (g : CellId) (en : EngEntry) :
    let c := (s.cellAt g).markStarted .sce en.id
    s.sceStart g en = (s.setCell g (if (∃ a b, en.instr = .zclr a b) ∧ (en.reg 1).getLsbD 63 = true then
      { c with fifoA := [], fifoB := [] } else c)).push (.engineInstructionRetire g .sce) := by
  refine congrArg (fun c => (s.setCell g c).push _) ?_
  split
  · next a b h => exact if_congr (by simp [h, zclrFlush]) rfl rfl
  · next h => exact (if_neg fun ⟨⟨a, b, e⟩, _⟩ => h a b e).symm

theorem foragerStart_of_frame {s : State} {g : CellId} {en : EngEntry} (hcopy : en.instr.isCopy = false)
    (hfact : ∀ n a, en.instr ≠ .fact n a) : s.foragerStart g en =
      (s.setCell g ((s.cellAt g).markStarted .forager en.id)).push (.engineInstructionRetire g .forager) := by
  rw [State.foragerStart]
  split
  · next h => cases (congrArg Instr.isCopy h).symm.trans hcopy
  · next h => cases (congrArg Instr.isCopy h).symm.trans hcopy
  · next n a h => exact absurd h (hfact n a)
  · rfl

/-- The state in which a copy is on its way. -/
def copying (s : State) (g : CellId) (c : Copy) : State :=
  { s.countSent g with nextId := s.nextId + 1, copies := s.copies ++ [c] }

theorem startCopy_push {s : State} {g : CellId} {e : EngEntry} {bar : Option (Fin 8)} {c : Copy}
    (hc : s.newCopy g e false bar = c) (htcm : c.src < 0x80000)
    (hopen : (copying s g c).sourceClosed g c.src c.len = none) :
    s.startCopy g e false bar = (copying s g c).push (.copyBlockWrite c.id) := by
  rw [copying] at hopen ⊢
  simp only [State.startCopy, hc, Bool.false_eq_true, if_false]
  rw [if_pos htcm, hopen]

theorem startCopy_pushx {s : State} {g : CellId} {e : EngEntry} {bar : Option (Fin 8)} {c : Copy}
    (hc : s.newCopy g e true bar = c) :
    s.startCopy g e true bar = ((copying s g c).push (.pushxProxyEntry c.id)).foragerNext g := by
  rw [copying]
  simp only [State.startCopy, hc, if_true]

theorem sourceClosed_markStarted (s : State) (g : CellId) (id off n : Nat) :
    (s.setCell g ((s.cellAt g).markStarted .forager id)).sourceClosed g off n = s.sourceClosed g off n := by
  simp only [State.sourceClosed, State.cellAt_setCell]
  rfl

theorem newCopy_src (s : State) (g : CellId) (e : EngEntry) (bar : Option (Fin 8)) :
    (s.newCopy g e false bar).src = ownAddr g (e.reg 1).toNat := by
  simp only [State.newCopy, Bool.false_eq_true, if_false]

theorem newCopy_reader {s : State} {g h : CellId} {e : EngEntry} {o : Nat} (bar : Option (Fin 8)) (c : Cell)
    (hwin : s.windowCell (hiveOf g) (e.reg 1).toNat = some (h, o)) : ((s.setCell g c).newCopy g e true bar).reader = h :=
  congrArg (fun w => (w.map Prod.fst).getD g) hwin

theorem engineStarts : Claims.EngineStarts := by
  intro s g e en l r hq hl hen c
  refine ⟨fun he hnil hr => ?_, fun he hnil hr => ?_, fun he hidle => ?_⟩
  · have hnext : s.nextEntry g e = some en := nextEntry_eq hq hl hen (by rcases he with rfl | rfl <;> exact ⟨hnil, hr⟩)
    obtain rfl | rfl := he <;> exact congrArg Host.Outcome.next (by rw [hnext]; rfl)
  · subst he
    have hnext : s.nextEntry g .sce = some en := nextEntry_eq hq hl hen ⟨hnil, hr⟩
    refine ⟨fun h => congrArg Host.Outcome.next ?_, fun h => congrArg Host.Outcome.next ?_⟩
    · simp [hnext, h]
    · rw [hnext]
      exact (if_neg (by simp [h])).trans (sceStart_eq s g en)
  · subst he
    have hnext : s.nextEntry g .forager = some en := nextEntry_eq hq hl hen hidle
    have hexec : exec (.engineInstructionStart g .forager) s = .next (s.foragerStart g en) :=
      congrArg Host.Outcome.next (by rw [hnext]; rfl)
    rw [hexec]
    refine ⟨fun hcopy hfact => ?_, fun d a b bar hi hopen htcm => ?_, fun d a b bar h o hi hwin => ?_⟩
    · rw [foragerStart_of_frame hcopy hfact]
    · have hstart : s.foragerStart g en = (s.setCell g c).startCopy g { en with started := true } false bar := by
        rw [State.foragerStart, hi]
      have hsrc := newCopy_src (s.setCell g c) g { en with started := true } bar
      have hclosed := (sourceClosed_markStarted s g en.id _ _).trans hopen
      rw [hstart, startCopy_push rfl (hsrc.trans_lt htcm) (by rw [hsrc]; exact hclosed)]
      exact ⟨_, _, rfl, rfl, rfl, rfl, rfl, rfl, hsrc, rfl, rfl, rfl, List.mem_append_right _ (List.mem_singleton_self _)⟩
    · have hstart : s.foragerStart g en = (s.setCell g c).startCopy g { en with started := true } true bar := by
        rw [State.foragerStart, hi]
      generalize hx : (s.setCell g c).newCopy g { en with started := true } true bar = x
      obtain ⟨hmem, hcopies, hpending⟩ := foragerNext_keeps ((copying (s.setCell g c) g x).push (.pushxProxyEntry x.id)) g
      rw [hstart, startCopy_pushx hx]
      refine ⟨_, x, rfl, hmem, hcopies, ?_⟩
      have hreader := newCopy_reader (e := { en with started := true }) bar c hwin
      subst hx
      exact ⟨rfl, rfl, hreader, rfl, rfl, rfl, hpending _ (List.mem_append_right _ (List.mem_singleton_self _))⟩

/-- Settles O40, clause by clause. -/
theorem enginesTakeInstructions : Obligations.EnginesTakeInstructions :=
  ⟨vectorIssues, multiplyIssues, deltaIssues, copyIssues, engineStarts⟩

end Sys2Proof.Proofs
